-- ==== Sys2Proof/Word.lean ====
section
/-! DEFINITION. Sparse tables, plain bit helpers, and the records that travel as operands of commands: headers,
packets, memory-port responses, array upsets, places of the tree. -/

namespace Sys2Proof

/-! ### Sparse tables: a list of (index, value) pairs with rising indices -/

/-- A sparse table. -/
abbrev SMap (α : Type) := List (Nat × α)

/-- The entry at `i`, if any. -/
def smFind {α : Type} : SMap α → Nat → Option α
  | [], _ => none
  | (j, a) :: r, i => if j = i then some a else smFind r i

/-- The value at `i`; `d` where nothing is listed. -/
def smGet {α : Type} (d : α) (m : SMap α) (i : Nat) : α := (smFind m i).getD d

/-- The table without the entry at `i`. -/
def smErase {α : Type} (m : SMap α) (i : Nat) : SMap α := m.filter (fun e => e.1 != i)

/-- Insert at the place that keeps the indices rising. -/
def smIns {α : Type} (i : Nat) (a : α) : SMap α → SMap α
  | [] => [(i, a)]
  | (j, b) :: r => if i < j then (i, a) :: (j, b) :: r else (j, b) :: smIns i a r

/-- Set the value at `i`. -/
def smSet {α : Type} (m : SMap α) (i : Nat) (a : α) : SMap α := smIns i a (smErase m i)

/-- Set the value at `i`, listing nothing that equals the default `d`. -/
def smPut {α : Type} [DecidableEq α] (d : α) (m : SMap α) (i : Nat) (a : α) : SMap α :=
  if a = d then smErase m i else smSet m i a

/-- Change the value at `i`. -/
def smMod {α : Type} (d : α) (m : SMap α) (i : Nat) (f : α → α) : SMap α := smSet m i (f (smGet d m i))

/-- The indices rise strictly. -/
def smSorted {α : Type} : SMap α → Bool
  | [] => true
  | [_] => true
  | (i, _) :: (j, b) :: r => decide (i < j) && smSorted ((j, b) :: r)

/-- The first index below `n` that the table does not list. -/
def smFree {α : Type} (m : SMap α) (lo n : Nat) : Option Nat :=
  (List.range n).find? fun i => lo ≤ i ∧ (smFind m i).isNone

/-! ### Bits -/

/-- Number of ones among the low `k` bits of `v`. -/
def onesN : Nat → Nat → Nat
  | 0, _ => 0
  | k + 1, v => v % 2 + onesN k (v / 2)

/-- Number of bits set. -/
def popc {w : Nat} (v : BitVec w) : Nat := onesN w v.toNat

/-- Exclusive-OR of all bits. -/
def parity {w : Nat} (v : BitVec w) : Bool := popc v % 2 = 1

/-- A set of agents: bit n stands for agent ID n (R57). -/
abbrev Vec := BitVec 256

/-- The set with the one agent `a`. -/
def vbit (a : Nat) : Vec := 1#256 <<< a

/-- The agents of a set, rising. -/
def members (v : Vec) : List Nat := (List.range 256).filter fun a => v.getLsbD a

/-- The lowest agent of a set. -/
def lowest (v : Vec) : Option Nat := (List.range 256).find? fun a => v.getLsbD a

/-- Bits `[lo+len-1 : lo]` of a number. -/
def bitsN (v lo len : Nat) : Nat := (v >>> lo) % 2 ^ len

/-- Bit `i` of a number. -/
def bitN (v i : Nat) : Bool := v.testBit i

/-- A bit as a number. -/
def b2n (b : Bool) : Nat := if b then 1 else 0

/-- A signed 14-bit displacement as an integer (R349). -/
def sext14 (d : BitVec 14) : BitVec 64 := d.signExtend 64

/-- Byte `i` of a line. -/
def lineByte (l : BitVec 512) (i : Nat) : Nat := bitsN l.toNat (8 * i) 8

/-- A mask with ones over bytes `off` to `off + n - 1` of a line. -/
def byteSpan (off n : Nat) : BitVec 512 := BitVec.ofNat 512 ((2 ^ (8 * n) - 1) <<< (8 * off))

/-- The byte enables `be` spread over the bits of a line. -/
def spread (be : BitVec 64) : BitVec 512 :=
  (List.range 64).foldl (fun a i => if be.getLsbD i then a ||| byteSpan i 1 else a) 0

/-- `new` over `old` in the enabled bytes. -/
def mergeLine (old new : BitVec 512) (be : BitVec 64) : BitVec 512 :=
  (old &&& ~~~(spread be)) ||| (new &&& spread be)

/-! ### Headers and packets (R73 to R78, R264) -/

/-- The header fields (R264), as numbers. -/
structure Hdr where
  cls : Nat := 0
  opc : Nat := 0
  prio : Nat := 0
  epoch : Nat := 0
  src : Nat := 0
  dst : Nat := 0
  tag : Nat := 0
  htc : Nat := 0
  addr : Nat := 0
  world : Nat := 0
  part : Nat := 0
  marks : Nat := 0
  size : Nat := 0
  poison : Bool := false
  err : Nat := 0
deriving DecidableEq, Repr

/-- The header of a 128-bit header flit (R264). -/
def Hdr.ofFlit (f : BitVec 128) : Hdr :=
  let n := f.toNat
  { cls := bitsN n 125 3, opc := bitsN n 119 6, prio := bitsN n 117 2, epoch := bitsN n 116 1,
    src := bitsN n 107 9, dst := bitsN n 98 9, tag := bitsN n 86 12, htc := bitsN n 72 14,
    addr := bitsN n 26 46, world := bitsN n 25 1, part := bitsN n 19 6, marks := bitsN n 15 4,
    size := bitsN n 12 3, poison := bitN n 11, err := bitsN n 9 2 }

/-- The 128-bit header flit of a header, reserved bits zero (R17, R264). -/
def Hdr.toFlit (h : Hdr) : BitVec 128 :=
  BitVec.ofNat 128 (h.cls <<< 125 ||| h.opc <<< 119 ||| h.prio <<< 117 ||| h.epoch <<< 116 ||| h.src <<< 107 |||
    h.dst <<< 98 ||| h.tag <<< 86 ||| h.htc <<< 72 ||| h.addr <<< 26 ||| h.world <<< 25 ||| h.part <<< 19 |||
    h.marks <<< 15 ||| h.size <<< 12 ||| b2n h.poison <<< 11 ||| h.err <<< 9)

/-- Outputs that an arbiter of the tree grants (R178). -/
inductive HopOut
  | leafToBranch (q : Nat) | leafToPort (slot : Nat) | branchToRoot (b : Nat) | branchToLeaf (q : Nat)
  | rootToPanel (p : Nat) | rootToBranch (b : Nat) | rootToEasel | rootToRestorer | panelToRoot (p : Nat)
deriving DecidableEq, Repr

/-- A packet inside the block: the header, what follows it (R73), and what travels beside it: the home panel the
leaf decoded (R182), the agent a death marker or a barrier copy names (of an acknowledgement, 1 says that it answers
an owner snoop), the HCLK of its capture, how often in a row each output of its stage has passed it over (R203), the outputs that
route tables give it at its stage, each with its part of the vector (the look-ahead of R178), and whether it is a multicast of which no
copy has left its stage. -/
structure Packet where
  hdr : Hdr := {}
  data : BitVec 512 := 0
  be : BitVec 64 := 0
  vec : Vec := 0
  desc : BitVec 256 := 0
  home : Nat := 0
  aux : Nat := 0
  capt : Nat := 0
  skips : List (HopOut × Nat) := []
  la : List (HopOut × Vec) := []
  whole : Bool := false
deriving DecidableEq, Repr

/-- Message classes (R73). -/
abbrev cREQ : Nat := 0
abbrev cWBK : Nat := 1
abbrev cSNP : Nat := 2
abbrev cRSP : Nat := 3
abbrev cDAT : Nat := 4
abbrev cMGT : Nat := 5

/-- REQ opcodes (R80). -/
abbrev oRdS : Nat := 1
abbrev oRdU : Nat := 2
abbrev oUpg : Nat := 3
abbrev oRdO : Nat := 4
abbrev oWrU : Nat := 5
abbrev oAtP : Nat := 6
abbrev oEBar : Nat := 8
abbrev oTIv : Nat := 9
abbrev oTSy : Nat := 10

/-- WBK opcodes (R81). -/
abbrev oEvC : Nat := 1
abbrev oWbD : Nat := 2
abbrev oWbO : Nat := 3

/-- SNP opcodes (R82). -/
abbrev oSnpS : Nat := 1
abbrev oSnpU : Nat := 2
abbrev oSnpInv : Nat := 3
abbrev oSnpSweep : Nat := 4
abbrev oSnpTIv : Nat := 5

/-- RSP opcodes (R84). -/
abbrev oSnpAck : Nat := 1
abbrev oDirtyHint : Nat := 2
abbrev oCompS : Nat := 3
abbrev oCompE : Nat := 4
abbrev oCompU : Nat := 5
abbrev oCompO : Nat := 6
abbrev oCompAck : Nat := 7
abbrev oEvAck : Nat := 8
abbrev oWbAck : Nat := 9
abbrev oWrAcc : Nat := 10
abbrev oEBarDone : Nat := 11
abbrev oTIvDone : Nat := 12
abbrev oTSyDone : Nat := 13
abbrev oDecline : Nat := 16
abbrev oDecodeErr : Nat := 17
abbrev oWalkDevErr : Nat := 18

/-- DAT opcodes (R85). -/
abbrev oDataMem : Nat := 1
abbrev oDataFwd : Nat := 2
abbrev oDataHome : Nat := 3
abbrev oSweepData : Nat := 4

/-- Node numbers of R74. -/
abbrev nPanel0 : Nat := 256
abbrev nEasel : Nat := 384
abbrev nRestorer : Nat := 385
abbrev nRoot : Nat := 386
abbrev nLeaf0 : Nat := 416
abbrev nMulti : Nat := 511

/-- Bytes that follow a header (R73): 64 of a line, 32 of a descriptor. -/
def Hdr.payload (h : Hdr) : Nat :=
  let line := (h.cls = cREQ ∧ (h.opc = oWrU ∨ h.opc = oAtP)) ∨ (h.cls = cWBK ∧ h.opc ≠ oEvC) ∨ h.cls = cDAT
  let desc := (h.cls = cREQ ∧ h.opc = oTIv) ∨ (h.cls = cSNP ∧ h.opc = oSnpTIv)
  if line then 64 else if desc then 32 else 0

/-- Flits follow the header: a line, a descriptor, or the vector of a multicast (R73). -/
def Packet.hasFlits (p : Packet) : Bool :=
  decide (p.hdr.payload ≠ 0) ||
    (decide (p.hdr.dst = nMulti) && (decide (p.hdr.cls = cSNP) || (decide (p.hdr.cls = cMGT) && decide (p.hdr.opc < 32))))

/-- Bytes of a packet on a port (R504): 16 for the header and what follows it. -/
def Packet.bytes (p : Packet) : Nat := 16 + p.hdr.payload

/-! ### Operands of commands -/

/-- What a check of a light-coded or parity-protected word found. -/
inductive Ecc | ok | ce | ue
deriving DecidableEq, Repr

/-- Disturbances of the arrays a panel step reads: exclusive-OR masks over the directory ways, Palette codewords
and region-map words it reads (R407), a region-lookaside parity error, and what the checks of its input record, of the
data it uses of its data buffer, and of the proxy-buffer slots it reads found. -/
structure Upset where
  dir : List (Nat × BitVec 72) := []
  pal : List (Nat × BitVec 80) := []
  rgn : List (Nat × BitVec 80) := []
  look : Bool := false
  rcd : Ecc := .ok
  dat : Ecc := .ok
  prx : List (Nat × Ecc) := []
deriving DecidableEq, Repr

/-- Disturbances of a hop: the header flit, the data flits, the route table, the slot table, the leaf's pending-snoop
table and its home-decode copy, the header and the data of what leaves the port's downward dual-clock queue, and what the next read of
combining entries will find: a router, an HTC field, the outcome (R200). -/
structure HopUps where
  flit : Ecc := .ok
  dat : Ecc := .ok
  route : Ecc := .ok
  table : Ecc := .ok
  psnp : Ecc := .ok
  copy : Bool := false
  dqHd : Ecc := .ok
  dqDat : Ecc := .ok
  comb : List (Nat × Nat × Ecc) := []
deriving DecidableEq, Repr

/-- One flit with its parity, and the byte enables beside it with theirs (R260, R314). -/
structure Flit where
  flit : BitVec 512 := 0
  par : BitVec 64 := 0
  be : BitVec 64 := 0
  bep : BitVec 8 := 0
deriving DecidableEq, Repr

/-- A link word with its byte parity (R260). -/
structure LinkWord where
  word : BitVec 32 := 0
  par : BitVec 4 := 0
deriving DecidableEq, Repr

/-- What the checks of a packet's header and data, in the buffers that it leaves, found (R407). -/
structure FlitChk where
  hd : Ecc := .ok
  dat : Ecc := .ok
deriving DecidableEq, Repr

/-- A downward credit pulse of a class, with the checks of the packet that it lets leave (R278). -/
structure CrdPulse where
  cls : Nat
  chk : FlitChk := {}
deriving DecidableEq, Repr

/-- An upward packet as it stands at a port (R263 to R269): the channel's class, its flits in consecutive cycles, and what
the checks of the pending-snoop entry that it names, and of its header and data in the dual-clock queue, found. -/
structure UpFlits where
  chan : Nat := 0
  flits : List Flit := []
  psnp : Ecc := .ok
  hd : Ecc := .ok
  dat : Ecc := .ok
deriving DecidableEq, Repr

/-- An inbound memory-port message as it stands at the port (R315, R318): its flits in consecutive cycles, and what the checks
of its header and data in the port's buffers found. -/
structure MemResp where
  flits : List Flit := []
  hd : Ecc := .ok
  dat : Ecc := .ok
deriving DecidableEq, Repr

/-- A clock crossing (R282, R317, R488). -/
inductive Crossing | agent (slot : Nat) | mem (m : Nat) | cp | tp | ts
deriving DecidableEq, Repr

/-- Input places of the tree (R40). -/
inductive Loc
  | leafUp (slot : Nat) | leafDown (q : Nat) | branchUp (q : Nat) | branchDown (b : Nat)
  | rootUp (b : Nat) | rootPanel (p : Nat) | rootEasel | rootRestorer | panelIn (p : Nat)
  | panelOut (p : Nat) | portDown (slot : Nat) | synth (r : Nat)
deriving DecidableEq, Repr

/-- A byte-window owner (R504). -/
inductive WinId | port (slot : Nat) | mem (m : Nat)
deriving DecidableEq, Repr

/-- The fields of an Easel instruction word other than its opcode (R349), the extension word of LIM and LIMH, and what the check of a
partition-table word finds when LD reads one (R407). -/
structure Fld where
  cond : BitVec 4 := 0
  d : BitVec 4 := 0
  b : BitVec 4 := 0
  disp : BitVec 14 := 0
  ext : BitVec 32 := 0
  sit : Ecc := .ok
deriving DecidableEq, Repr

/-- The fields of a REP word (R371). -/
structure RepFld where
  cond : BitVec 4 := 0
  i : Bool := false
  csrc : Bool := false
  count : BitVec 8 := 0
  stride : BitVec 12 := 0
deriving DecidableEq, Repr

/-- What a checker under self-test answers to a pattern (R413): its class and unit as R542 names them, the pattern as the bits in
error of the all-zero word, and the verdict and the data it gives. Of a twin-pipeline comparator `.ue` says that it flags its forced
mismatch. -/
structure BistAns where
  cls : Nat
  unit : Nat
  mask : Nat
  ecc : Ecc
  data : Nat := 0
deriving DecidableEq, Repr

/-- What the outside shows a completing operation: the liveness toggle of a branch changed (R476), the answers of the checkers under
self-test that are not the right ones (R413), and what the check of a partition-table word found (R407). -/
structure OpReport where
  live : Bool := true
  bist : List BistAns := []
  sit : Ecc := .ok
deriving DecidableEq, Repr

/-- A control-port access (R532): world, the parity bits CP_REQ_PAR, the byte offset with bit 12 the page. -/
structure CpAcc where
  ns : Bool := false
  par : BitVec 5 := 0
  addr : Nat := 0
  wdata : BitVec 32 := 0
deriving DecidableEq, Repr

end Sys2Proof
end

