-- ==== Sys2Proof/Syntax.lean ====
section
/-! DEFINITION. The commands of the block: one constructor per row of spec/opcode_table.json, with its operands. -/

namespace Sys2Proof

/-- A command. -/
inductive Instr where
  /-- BLOCK_RST_N_ASSERT (R479): Assertion of BLOCK_RST_N drives every output to 0 and resets the whole block asynchronously. -/
  | blockRstAssert
  /-- BLOCK_RST_N_RELEASE (R479): Each domain leaves reset on the second edge of its clock after release, and WDOG_CAUSE is sampled. -/
  | blockRstRelease (wdog : Bool) (psnCap : BitVec 8)
  /-- INITIALISATION_COMPLETE (R480): 4,096 HCLK after reset the initialisation ends, INIT clears, and held doorbells and eclipse requests are acted on. -/
  | initialisationComplete
  /-- AP_RST_N_ASSERT (R290): Assertion of a port reset moves the port as R290 gives, making an admitted port DEAD. -/
  | apRstAssert (slot : Nat)
  /-- AP_RST_N_RELEASE (R282): Release of a port reset clears the queue pointers and starts the resynchronisation handshake. -/
  | apRstRelease (slot : Nat)
  /-- HANDSHAKE_COMPLETE (R283): The crossing resynchronisation completes and the port comes into service. -/
  | handshakeComplete (x : Crossing)
  /-- INTRO (R287): A whole INTRO record is checked and settled, and SETTLE is sent 28 HCLK after capture. -/
  | intro (slot : Nat) (head : LinkWord) (body : List LinkWord) (crc : Option LinkWord)
  /-- HEARTBEAT (R296): A captured HEARTBEAT word restarts the port's heartbeat count. -/
  | heartbeat (slot : Nat) (w : LinkWord)
  /-- HEARTBEAT_LAPSE (R296): The heartbeat count reaches HB_WIN, so the port enters DEAD and HB_LAPSE is set. -/
  | heartbeatLapse (slot : Nat)
  /-- SNOOP_DEADLINE_EXPIRY (R443): The port's pending-snoop deadline timer reaches SNPDL, so the port enters DEAD with cause 0x5. -/
  | snoopDeadlineExpiry (slot : Nat)
  /-- AP_ECL_REQ_RISE (R298): A captured rise of an eclipse request is accepted or ignored under secure hold, and fencing starts. -/
  | apEclReqRise (slot : Nat) (ns : Bool)
  /-- AP_ECL_REQ_FALL (R301): A fall cancels fencing or lowers AP_ECL_ACK. -/
  | apEclReqFall (slot : Nat)
  /-- PORT_FENCE_CLOSES (R299): When presence and in-flight counts are zero, the port enters ECLIPSED and AP_ECL_ACK rises. -/
  | portFenceCloses (slot : Nat)
  /-- RECLAMATION_COMPLETE (R451): All scans end and the in-flight count is zero, so the dead port's reclamation completes and it may enter DOWN. -/
  | reclamationComplete (slot : Nat)
  /-- UPWARD_PACKET_CHECK (R270): The leaf checks an upward header from a port and then forwards it, discards it, answers DecodeErr or declares a header fault. -/
  | upwardPacketCheck (slot : Nat) (f : UpFlits)
  /-- RLS_HOLD_RELEASED (R240): A held release-marked WrU or AtP is forwarded once every earlier write of the agent has been answered. -/
  | rlsHoldReleased (slot : Nat)
  /-- DOWNWARD_CREDIT (R278): A partner credit pulse restores a downward credit; an overflow is a header fault. -/
  | downwardCredit (slot : Nat) (c : CrdPulse)
  /-- UPWARD_CREDIT_RETURN (R279): A freed upward credit is returned to the partner unless a withholding rule applies. -/
  | upwardCreditReturn (slot cls : Nat)
  /-- PACKET_HOP (R178): A packet captured at a stage input wins its output, crosses the switch and gets its look-ahead port. -/
  | packetHop (o : HopOut) (u : HopUps)
  /-- CREDIT_RETURNED (R186): A credit reaches the sender 1 + w HCLK after the buffer is freed, releasing any packet waiting for it. -/
  | creditReturned (l : Loc) (key : Nat)
  /-- COMBINE_ACK (R196): A router with a combining entry adds an acknowledgement, and it emits one SnpAck when SUM reaches EXPECT. -/
  | combineAck (l : Loc) (mgt : Bool) (ecc : Ecc)
  /-- COMBINE_FLUSH (R198): FLUSH_WAIT expires and the entry emits a partial SnpAck and is freed. -/
  | combineFlush (r htc : Nat)
  /-- EPOCH_CAPTURED (R215): Branches and leaves capture the new CUR_EPOCH 3 HCLK after a root flip. -/
  | epochCaptured (r : Nat)
  /-- RDS (R118): A panel accepts RdS and decides it as the RdS table gives. -/
  | rds (p : Nat) (u : Upset)
  /-- RDU (R119): A panel accepts RdU and decides it as the RdU table gives. -/
  | rdu (p : Nat) (u : Upset)
  /-- UPG (R120): A panel accepts Upg and decides it as the Upg table gives. -/
  | upg (p : Nat) (u : Upset)
  /-- RDO (R121): A panel accepts RdO and decides it as the RdO table gives. -/
  | rdo (p : Nat) (u : Upset)
  /-- WRU (R122): A panel accepts WrU, snoops every holder and writes the line. -/
  | wru (p : Nat) (u : Upset)
  /-- ATP (R123): A panel accepts AtP and performs it in the proxy buffer. -/
  | atp (p : Nat) (u : Upset)
  /-- EBAR (R242): The root accepts EBar and copies it to every panel, or answers DecodeErr beyond four outstanding.
The copy that panel `p` takes reads with `u`. -/
  | ebar (b p : Nat) (u : Upset)
  /-- EBAR_PANEL_COMPLETION (R245): The root adds a panel completion and, on the last one, sends EBarDone. -/
  | ebarPanelCompletion (p : Nat)
  /-- TIV (R251): The translation panel sends SnpTIv to the partition's translation mask. -/
  | tiv (p : Nat)
  /-- TSY (R253): The translation panel completes TSy once every earlier TIv from the sender is done. -/
  | tsy (p : Nat)
  /-- EVC (R127): A panel processes, absorbs or parks an EvC and answers EvAck. -/
  | evc (p : Nat) (u : Upset)
  /-- WBD (R127): A panel processes, absorbs or parks a WbD, writes it and answers WbAck. -/
  | wbd (p : Nat) (u : Upset)
  /-- WBO (R127): A panel processes, absorbs or parks a WbO, writes it and answers WbAck. -/
  | wbo (p : Nat) (u : Upset)
  /-- WBK_LINE_RELEASE (R160): A writeback HTC's 8-HCLK hold on the line ends and it is freed. -/
  | wbkLineRelease (p h : Nat) (u : Upset)
  /-- DIRTYHINT (R130): A panel applies, records or ignores a DirtyHint. -/
  | dirtyhint (p : Nat) (u : Upset)
  /-- SNPACK (R133): A panel adds a SnpAck to the running sum, or acts on the owner's flags. -/
  | snpack (p : Nat) (mgt : Bool) (u : Upset)
  /-- DATAFWD_TO_HOME (R96): A panel absorbs dirty DataFwd FSTATE 0b1000 and writes it with MWr. -/
  | datafwdToHome (p : Nat) (u : Upset)
  /-- SWEEPDATA (R430): The sweep HTC writes a SweepData and answers WbAck. -/
  | sweepdata (p : Nat) (u : Upset)
  /-- COMPACK (R116): CompAck ends GRANT when the other conditions hold, and CLOSE forms the requester's state from the MARKS. -/
  | compack (p : Nat) (u : Upset)
  /-- HTC_FREED (R112): 3 HCLK after CLOSE the entry is written and the HTC is freed. -/
  | htcFreed (p h : Nat) (u : Upset)
  /-- HTC_START_QUEUED (R159): The next HTC of the line's list starts DECIDE at D0. -/
  | htcStartQueued (p h : Nat) (u : Upset)
  /-- HTC_REPLAY (R437): A parity error in HTC working state restarts the HTC or rebuilds it from its record. -/
  | htcReplay (p h : Nat) (uncorrectable : Bool) (u : Upset)
  /-- MDATA (R128): MData for a panel is placed in the data buffer, or discarded. -/
  | mdata (m : Nat) (r : MemResp) (u : Upset)
  /-- MWRCMP (R245): MWrCmp completes covered writes, Device WrAcc, Easel stores or checkpoint lines. -/
  | mwrcmp (m : Nat) (r : MemResp)
  /-- MEMPORT_GRANT (R338): A memory port grants one raised requester by slot 0, by the slot table or by lottery. -/
  | memportGrant (m : Nat) (slot : Ecc) (chk : FlitChk)
  /-- MP_REQ_CRD (R316): A controller credit pulse raises the outbound credit counter. -/
  | mpReqCrd (m : Nat)
  /-- MP_RST_N_ASSERT (R488): A memory-port reset takes the port out of service, or faults it if an MTAG is allocated. -/
  | mpRstAssert (m : Nat)
  /-- MP_RST_N_RELEASE (R317): Release of a memory-port reset starts the port's resynchronisation. -/
  | mpRstRelease (m : Nat)
  /-- DEATH_MARKER (R447): A panel accepts a dead agent's marker, settles its HTCs and starts a scan. -/
  | deathMarker (p : Nat) (u : Upset)
  /-- DEAD_SCAN_PALETTE_SLOT (R449): The scan clears the dead agents' bits in one Palette slot. -/
  | deadScanPaletteSlot (p : Nat) (u : Upset)
  /-- DEAD_SCAN_DIRECTORY_SET (R450): The scan acts on one directory set's entries that name a dead agent. -/
  | deadScanDirectorySet (p : Nat) (u : Upset)
  /-- RESTORER_DIRECTORY_STEP (R422): A Restorer step reads, corrects, ages and rewrites one directory set. -/
  | restorerDirectoryStep (p : Nat) (u : Upset)
  /-- RESTORER_PALETTE_STEP (R422): A Restorer step checks one Palette slot and tests it for duplicates. -/
  | restorerPaletteStep (p : Nat) (u : Upset)
  /-- SET_SWEEP_START (R427): A triggered set sweep takes a management HTC and starts its recalls and SnpSweep. -/
  | setSweepStart (p set : Nat) (u : Upset)
  /-- SUPPLY_WARN_RISE (R453): A captured SUPPLY_WARN rise sets WARN_SEEN and EVENTS bit 2 and starts a checkpoint. -/
  | supplyWarnRise
  /-- SUPPLY_WARN_CLEARED (R454): After WARN_HOLD KCLK at 0, the Restorer starts the after-dip sweep. -/
  | supplyWarnCleared
  /-- AFTER_DIP_SWEEP_END (R454): The after-dip sweep completes, clears DIP and is recorded. -/
  | afterDipSweepEnd
  /-- CHECKPOINT_PERIOD (R522): The EP_CTL period expires and starts a checkpoint. -/
  | checkpointPeriod
  /-- EPHEMERIS_STAGING_FLUSH (R519): Staged increments are added into the SRAM words at least every 65,536 KCLK. -/
  | ephemerisStagingFlush (ups : List (Nat × BitVec 80))
  /-- BUCKET_LEAK (R415): In a KCLK that is a multiple of 2^LEAKSH, each bucket's LEVEL falls by 1. -/
  | bucketLeak
  /-- DEADLINE_MISS (R515): An HTC's age reaches its group LIMIT and the miss is counted, and in the Bounded profile logged. -/
  | deadlineMiss (p h : Nat)
  /-- BYTE_WINDOW_END (R505): At a window end BW_UP and BW_DN take the sums and the maxima update. -/
  | byteWindowEnd (w : WinId)
  /-- TRACE_SYNC (R511): Every 2^SYNC HCLK a sync record is produced. -/
  | traceSync
  /-- TRACE_WORD_SENT (R514): The trace buffer sends one word on a TP_CLK cycle. -/
  | traceWordSent
  /-- TP_RST_N_ASSERT (R514): A trace reset discards the buffer and counts the dropped records. -/
  | tpRstAssert
  /-- CP_RST_N_ASSERT (R488): A control-port reset loses an access in progress. -/
  | cpRstAssert
  /-- TS_RST_N_ASSERT (R488): A time reset makes the block hold its last time value. -/
  | tsRstAssert
  /-- TIME_VALUE_TAKEN (R492): At a KCLK the block takes the newest time value from the time queue. -/
  | timeValueTaken (t : BitVec 64)
  /-- DEBUG_ENABLE_CHANGE (R463): A synchronised change of a non-invasive debug enable allows or suppresses observation for its world. -/
  | debugEnableChange (sec ns : Bool)
  /-- BR_ECL_REQ_RISE (R470): A branch eclipse request is accepted or ignored, and the branch starts fencing. -/
  | brEclReqRise (b : Nat) (ns : Bool)
  /-- BR_ECL_REQ_FALL (R473): A fall cancels branch fencing or lowers BR_ECL_ACK. -/
  | brEclReqFall (b : Nat)
  /-- BRANCH_FENCE_CLOSES (R472): The branch empties, BSTATE becomes eclipsed, the root takes the mirror and BR_ECL_ACK rises. -/
  | branchFenceCloses (b : Nat)
  /-- BRANCH_LIVENESS_LOSS (R478): No liveness toggle for 1,024 HCLK sets LIVE_LOSS and freezes the root. -/
  | branchLivenessLoss (b quiet : Nat)
  /-- TWIN_MISMATCH (R455): A twin-pipeline comparator mismatch freezes its scope and asserts DRV_FATAL. -/
  | twinMismatch (panel : Option Nat)
  /-- SLOT_FRAME_BOUNDARY (R212): At a frame boundary, pending TSWAPs copy the shadow tables into the active ones. -/
  | slotFrameBoundary
  /-- RING_DESCRIPTOR_START (R348): The Easel picks the lowest runnable ring, reads its next descriptor and loads its context. -/
  | ringDescriptorStart
  /-- EASEL_MEMORY_RESPONSE (R361): MData or MWrCmp ends an Easel access through a memory window. -/
  | easelMemoryResponse (m : Nat) (r : MemResp)
  /-- MANAGEMENT_OP_COMPLETE (R384): A blocked management operation completes and writes its status to G[D]. -/
  | managementOpComplete (ring : Nat) (rep : OpReport)
  /-- ECLIPSE_TIMEOUT (R389): TIMEOUT KCLK pass without ECLIPSED, so the operation ends with 0x04. -/
  | eclipseTimeout (ring : Nat)
  /-- WAIT_EVENT_TAKEN (R391): An event bit in a waiting ring's mask ends its WAIT. -/
  | waitEventTaken (ring : Nat)
  /-- WAIT_TIMEOUT (R391): The WAIT timeout expires and G[D] gets 0. -/
  | waitTimeout (ring : Nat)
  /-- LD (R350): Loads 64 bits at EA into G[D]. -/
  | ezLd (f : Fld)
  /-- LDW (R350): Loads 32 bits, zero-extended. -/
  | ezLdw (f : Fld)
  /-- LDH (R350): Loads 16 bits, zero-extended. -/
  | ezLdh (f : Fld)
  /-- LDB (R350): Loads 8 bits, zero-extended. -/
  | ezLdb (f : Fld)
  /-- ST (R350): Stores 64 bits of G[D] at EA. -/
  | ezSt (f : Fld)
  /-- STW (R350): Stores 32 bits. -/
  | ezStw (f : Fld)
  /-- STH (R350): Stores 16 bits. -/
  | ezSth (f : Fld)
  /-- STB (R350): Stores 8 bits. -/
  | ezStb (f : Fld)
  /-- LEA (R350): Writes EA to G[D] without access. -/
  | ezLea (f : Fld)
  /-- LIM (R351): Loads the sign-extended extension word into G[D]. -/
  | ezLim (f : Fld)
  /-- LIMH (R351): Loads the extension word into G[D][63:32]. -/
  | ezLimh (f : Fld)
  /-- END (R380): Ends the program and writes STATUS and RESULT. -/
  | ezEnd (f : Fld)
  /-- WAIT (R391): Waits on a mask of EVENTS with an optional timeout. -/
  | ezWait (f : Fld)
  /-- SIGNAL (R390): Sets the allowed EVENTS bits and optionally the ring's signal source. -/
  | ezSignal (f : Fld)
  /-- ADD (R350): G[D] gets G[B] + X, with flags. -/
  | ezAdd (f : Fld)
  /-- ADDI (R350): G[D] gets G[B] + I, with flags. -/
  | ezAddi (f : Fld)
  /-- SUB (R350): G[D] gets G[B] − X, with flags. -/
  | ezSub (f : Fld)
  /-- SUBI (R350): G[D] gets G[B] − I, with flags. -/
  | ezSubi (f : Fld)
  /-- AND (R350): Bitwise AND with X. -/
  | ezAnd (f : Fld)
  /-- ANDI (R350): Bitwise AND with I. -/
  | ezAndi (f : Fld)
  /-- OR (R350): Bitwise OR with X. -/
  | ezOr (f : Fld)
  /-- ORI (R350): Bitwise OR with I. -/
  | ezOri (f : Fld)
  /-- XOR (R350): Bitwise exclusive-OR with X. -/
  | ezXor (f : Fld)
  /-- XORI (R350): Bitwise exclusive-OR with I. -/
  | ezXori (f : Fld)
  /-- SHL (R350): Shifts left by X[5:0]. -/
  | ezShl (f : Fld)
  /-- SHLI (R350): Shifts left by DISP[5:0]. -/
  | ezShli (f : Fld)
  /-- SHR (R350): Logical shift right by X[5:0]. -/
  | ezShr (f : Fld)
  /-- SHRI (R350): Logical shift right by DISP[5:0]. -/
  | ezShri (f : Fld)
  /-- SAR (R350): Arithmetic shift right by X[5:0]. -/
  | ezSar (f : Fld)
  /-- SARI (R350): Arithmetic shift right by DISP[5:0]. -/
  | ezSari (f : Fld)
  /-- CMP (R352): Sets flags from G[B] − X. -/
  | ezCmp (f : Fld)
  /-- CMPI (R352): Sets flags from G[B] − I. -/
  | ezCmpi (f : Fld)
  /-- TST (R352): Sets flags from G[B] AND X. -/
  | ezTst (f : Fld)
  /-- TSTI (R352): Sets flags from G[B] AND I. -/
  | ezTsti (f : Fld)
  /-- POPC (R350): Counts the bits set in G[B]. -/
  | ezPopc (f : Fld)
  /-- FFS (R350): Finds the lowest set bit of G[B]. -/
  | ezFfs (f : Fld)
  /-- MTS (R354): Writes a special register from G[B]. -/
  | ezMts (f : Fld)
  /-- MFS (R354): Reads a special register into G[D]. -/
  | ezMfs (f : Fld)
  /-- ADMIT (R291): Admits a READY port after the capacity and timing checks and sends the ADMIT record. -/
  | ezAdmit (f : Fld)
  /-- EXPEL (R290): Makes an admitted or eclipsed port DEAD and waits for reclamation. -/
  | ezExpel (f : Fld)
  /-- RECALL (R124): Recalls every tracked line of an address range. -/
  | ezRecall (f : Fld)
  /-- SWEEP (R427): Starts a set sweep of a named panel set. -/
  | ezSweep (f : Fld)
  /-- RETIRE (R384): Recalls a set and remaps it to a spare row. -/
  | ezRetire (f : Fld)
  /-- ECLIPSE (R387): Fences a port, recalls its lines and eclipses it. -/
  | ezEclipse (f : Fld)
  /-- ECLIPSE_BRANCH (R472): Fences a branch whose ports are all eclipsed or down. -/
  | ezEclipseBranch (f : Fld)
  /-- DAWN (R302): Returns an eclipsed port to ADMITTED. -/
  | ezDawn (f : Fld)
  /-- DAWN_BRANCH (R476): Resets the branch, writes back the mirror and returns the branch to service. -/
  | ezDawnBranch (f : Fld)
  /-- RSYNC (R257): Invalidates every lookaside, refreshes the leaf copies and waits for old-map HTCs. -/
  | ezRsync (f : Fld)
  /-- TSWAP (R212): Swaps named slot tables at the next frame boundary. -/
  | ezTswap (f : Fld)
  /-- BIST (R413): Tests every ECC and parity checker and writes DRV_BIST_STAT. -/
  | ezBist (f : Fld)
  /-- SCRUBQ (R384): Has the Restorer check and correct a named range of words. -/
  | ezScrubq (f : Fld)
  /-- LEDGER_FUNC0 (R522): Requests a checkpoint and waits for it. -/
  | ezLedgerFunc0 (f : Fld)
  /-- LEDGER_FUNC1 (R526): Loads the Ephemeris SRAM from the valid slot of higher SEQ. -/
  | ezLedgerFunc1 (f : Fld)
  /-- LEDGER_FUNC2 (R384): Records the addresses of slots A and B. -/
  | ezLedgerFunc2 (f : Fld)
  /-- LEDGER_FUNC3 (R520): Enters a software code in the calendar. -/
  | ezLedgerFunc3 (f : Fld)
  /-- PROFILE (R37): Sets the Bounded or Peak profile and the HTC reserve once until reset. -/
  | ezProfile (f : Fld)
  /-- LOCK (R392): Locks the named items until reset. -/
  | ezLock (f : Fld)
  /-- TINV (R304): Sends a downward TIv to one agent and waits for TIvDone. -/
  | ezTinv (f : Fld)
  /-- BR (R350): Branches PC-relative. -/
  | ezBr (f : Fld)
  /-- BRL (R350): Branches and links. -/
  | ezBrl (f : Fld)
  /-- JMP (R350): Jumps to EA. -/
  | ezJmp (f : Fld)
  /-- JMPL (R350): Jumps to EA and links. -/
  | ezJmpl (f : Fld)
  /-- LOOP (R350): Decrements RC and branches while it is non-zero. -/
  | ezLoop (f : Fld)
  /-- REP (R372): Repeats the next instruction with a stepped displacement. -/
  | ezRep (f : RepFld)
  /-- RESERVED_OPCODE (R355): A reserved opcode faults ILL. -/
  | ezReserved (w : BitVec 32)
  /-- ROOT_FLIP (R215): A store of 1 inverts the root's CUR_EPOCH. -/
  | rootFlip (ring : Nat) (v : BitVec 64)
  /-- RT_CLR (R216): A store clears INJ and EJ of the named epochs. -/
  | rtClr (ring r : Nat) (v : BitVec 64)
  /-- ROUTE_ENTRY_WRITE (R215): A route-entry store writes the non-current table, or sets TBL_ERR. -/
  | routeEntryWrite (ring r epoch id : Nat) (v : BitVec 64)
  /-- REGION_MAP_WRITE (R307): A region-word store re-evaluates BAD, and before PROFILE updates the leaf copies. -/
  | regionMapWrite (ring off : Nat) (v : BitVec 64)
  /-- HASH_KEY_WRITE (R310): A HASH_KEY store takes effect only before PROFILE. -/
  | hashKeyWrite (ring j : Nat) (v : BitVec 64)
  /-- DIRECTORY_WORD_STORE (R363): A space 0x1 store writes a way with fresh check bits, before PROFILE. -/
  | directoryWordStore (ring off : Nat) (v : BitVec 64)
  /-- PALETTE_CODEWORD_STORE (R364): A space 0x2 store writes a codeword, before PROFILE. -/
  | paletteCodewordStore (ring off : Nat) (v : BitVec 64)
  /-- COUNTER_STORE (R497): A store to an RW counter sets COUNT and clears OVF. -/
  | counterStore (ring off : Nat) (v : BitVec 64)
  /-- PS_PRIO_WRITE (R205): A port PRIO change applies at once or after the lane drains. -/
  | psPrioWrite (ring slot : Nat) (v : BitVec 64)
  /-- PS_HB_WRITE (R296): A new HB_WIN takes effect in the next KCLK. -/
  | psHbWrite (ring slot : Nat) (v : BitVec 64)
  /-- RT_SNPDL_WRITE (R443): A new SNPDL takes effect in the next HCLK. -/
  | rtSnpdlWrite (ring r : Nat) (v : BitVec 64)
  /-- DL_LIM_WRITE (R515): A new group LIMIT may make in-use HTCs miss. -/
  | dlLimWrite (ring p g : Nat) (v : BitVec 64)
  /-- BW_CTL_WRITE (R505): A store to K abandons the byte window in progress. -/
  | bwCtlWrite (ring off : Nat) (v : BitVec 64)
  /-- EASEL_REGISTER_STORE (R19): An Easel store to any other register word takes effect by its access type. -/
  | easelRegisterStore (ring space off : Nat) (v : BitVec 64)
  /-- DRV_BOOT_WRITE (R538): Sets BOOTPORT and enables the Easel, with EN sticky. -/
  | drvBootWrite (ns : Bool) (par : BitVec 5) (v : BitVec 32)
  /-- DRV_RING_TAIL_WRITE (R539): Rings the doorbell, making the ring eligible and clearing RING_ERR. -/
  | drvRingTailWrite (ns : Bool) (par : BitVec 5) (n : Nat) (v : BitVec 32)
  /-- DRV_RING_BASE_SIZE_WRITE (R382): Takes effect only while the ring is idle and empty. -/
  | drvRingBaseSizeWrite (ns : Bool) (par : BitVec 5) (n word : Nat) (v : BitVec 32)
  /-- DRV_IRQ_STAT_WRITE (R543): W1C clears interrupt sources, with hardware sets winning. -/
  | drvIrqStatWrite (ns : Bool) (par : BitVec 5) (page : Nat) (v : BitVec 32)
  /-- CP_REGISTER_WRITE (R535): A control-port write to any other register takes effect by its access type. -/
  | cpRegisterWrite (a : CpAcc)
  /-- CROSSING_RESET_RELEASE (R488): Release of CP_RST_N, TP_RST_N or TS_RST_N starts that crossing's resynchronisation, after which control accesses, trace records or time values flow again. -/
  | crossingResetRelease (x : Crossing)
  /-- EPHEMERIS_WRITER_MDATA (R526): An MData answering a LEDGER FUNC 1 slot read reaches the Ephemeris writer and is checked for POISON and ERR toward the slot's validity. -/
  | ephemerisWriterMdata (m : Nat) (r : MemResp)
  /-- CP_REGISTER_READ (R529): A control-port read is performed, and a non-secure read of page 0 adds to DRV_CP_VIOL and raises VIOL, while a read with bad parity returns CP_RSP_ERR. -/
  | cpRegisterRead (a : CpAcc)
  /-- LINK_WORD_DISCARDED (R285): A link word 0 with a parity error or an unknown TYPE is discarded together with every following word up to the next cycle with AP_ULNK_VALID 0. -/
  | linkWordDiscarded (slot : Nat)
  /-- WIR_UPDATE (R555): UpdateWR loads the wrapper instruction register, selecting bypass, EXTEST, CLAMP, internal scan or MBIST. -/
  | wirUpdate (w : BitVec 4)
  /-- TW_WRSTN_ASSERT (R553): Assertion of TW_WRSTN makes every boundary cell transparent, sets the WIR to WS_BYPASS and drives TW_WSO and TW_WPO to 0. -/
  | twWrstnAssert
deriving DecidableEq, Repr

end Sys2Proof
end

