-- ==== Sys2Proof/Decode.lean ====
section
/-! DEFINITION. The command that a word spells: no row of spec/opcode_table.json gives its command bits, so no word spells
one. -/

namespace Sys2Proof

/-- The command that the `nbits` bits `w` spell: none, since the table gives no bits. -/
def decodeTableWord (_nbits _w : Nat) : Option Instr := none

end Sys2Proof
end

