-- ==== Sys2Proof/Config.lean ====
section
/-! DEFINITION. What an implementation leaves open: free values with no body, so that nothing proved about the
model can rest on one of them. -/

namespace Sys2Proof.Config

/-- The codeword of a directory way that nothing has written since the block reset `nonce` (R481), by panel and
`set × 16 + way`.  DESIGN CHOICE, log entry 1. -/
opaque freeDir : Nat → Nat → Nat → BitVec 72

/-- The codeword of a Palette word that nothing has written since the block reset `nonce` (R481), by panel and
`PAL × 8 + codeword`.  DESIGN CHOICE, log entry 1. -/
opaque freePal : Nat → Nat → Nat → BitVec 80

/-- The codeword of an Ephemeris word that nothing has written since the block reset `nonce` (R481, R518).
DESIGN CHOICE, log entry 1. -/
opaque freeEph : Nat → Nat → BitVec 80

/-- The codeword of a local-store word that no 8-byte store has written since the block reset `nonce`
(R360).  DESIGN CHOICE, log entry 1. -/
opaque freeLocal : Nat → Nat → BitVec 72

/-- CLASS and OPC that PS_PELAST takes for a protocol error about a link record, which has neither (R440, R441).
DESIGN CHOICE, log entry 29. -/
opaque freeLast : BitVec 9

/-- Words 1 to 3 of a SETTLE record with OK 0 (R284 gives their fields for a settled mode only).  DESIGN CHOICE, log
entry 29. -/
opaque freeSettle : Nat → BitVec 32

/-- SRC, OPC, CLASS and TAG that the view of an HTC and the deadline log show for a management HTC, and the address
they show for an HTC of no line (R369, R517), by panel × 1,024 + HTC.  DESIGN CHOICE, log entry 29. -/
opaque freeView : Nat → BitVec 64

/-- The codeword of a region-map or hash-key word after WS_MBIST has overwritten it (R489, R555), by that run.  DESIGN CHOICE, log
entry 42. -/
opaque freeRgn : Nat → Nat → BitVec 80

/-- What the wrapper shows on TW_WSO and, above it, on TW_WPO for a WIR value that the spec gives no value for: the outcome of
WS_MBIST, the boundary cells, the scan chains (R555), by the load of the WIR.  DESIGN CHOICE, log entry 42. -/
opaque freeWrap : Nat → BitVec 4 → BitVec 33

/-- What the boundary cells hold under WS_EXTEST and WS_INTEST_SCAN (R553, R555), by the load of the WIR.  DESIGN CHOICE, log
entry 42. -/
opaque freeCells : Nat → Nat

end Sys2Proof.Config
end

