-- ==== Sys2Proof/Machine/State.lean ====
section
/-! DEFINITION. The state of the block: every register, queue, buffer, counter, mode and pin the spec gives it, as
plain data; its faults and refusals; and the state right after HCLK leaves reset (R481). -/

namespace Sys2Proof.Machine

/-- Ways a command stops the model: none. A command that names a unit that the build does not have changes nothing (log entry 8). -/
inductive Fault where
deriving DecidableEq, Repr

/-- Why a command has no meaning. -/
inductive Refusal where
  /-- Raised by an arm of the dispatcher that has no meaning yet. Safe: nothing is concluded from it. -/
  | notModelled (mnemonic : String)
deriving DecidableEq, Repr

/-! ### The build (R24 to R27, R540, R541) -/

/-- Build-time parameters: PANELS as its logarithm, the sets of a panel divided by 1,024, PALETTE_SETS as 0, 1 or 2
(R540), MEM_PORTS, DEV_PORT_MASK, TWIN_PIPELINES, TRACE_PORT, each leaf position's wire stages and ports (R541),
and the wire stages of the other links. -/
structure Build where
  p : Nat := 4
  setsK : Nat := 32
  psets : Nat := 2
  memPorts : Nat := 8
  devMask : BitVec 8 := 0
  twin : Bool := false
  trace : Bool := true
  leaves : List (Option (Nat × Nat)) := List.replicate 32 (some (0, 8))
  brWire : List Nat := List.replicate 8 0
  mpWire : List Nat := List.replicate 8 0
  pnWire : List Nat := List.replicate 16 0
deriving DecidableEq, Repr

/-! ### Clocks, pins and fatal state -/

/-- Clock counts, reset levels, pins and the fatal state (R438, R458, R479 to R492, R499); `once` notes the HCLK,
plus one, of the last byte-window end and sync record, which come at most once in an HCLK (R504, R511). The test wrapper (R552 to R555):
the WIR, TW_WRSTN, the bypass bit, the boundary register (one bit for every functional signal but the clocks) and whether its cells are
transparent, the levels of TW_WSO and TW_WPO, and how often the WIR was loaded (the model's own, for free values; log entry 42). -/
structure Clk where
  cyc : Nat := 0
  inReset : Bool := false
  initBusy : Bool := true
  time : BitVec 64 := 0
  warnPin : Bool := false
  warnLow : Nat := 0
  dbgS : Bool := false
  dbgNs : Bool := false
  wdog : Bool := false
  cpRst : Bool := false
  cpSvc : Bool := false
  tpRst : Bool := false
  tpSvc : Bool := false
  tsRst : Bool := false
  tsSvc : Bool := false
  wir : BitVec 4 := 0
  twRst : Bool := true
  bypass : Bool := false
  cells : Nat := 0
  cellsOpen : Bool := true
  wso : Bool := false
  wpo : BitVec 32 := 0
  loads : Nat := 0
  irqS : Bool := false
  irqNs : Bool := false
  fatal : Bool := false
  fatalRows : BitVec 7 := 0
  frozenPanels : BitVec 16 := 0
  frozenRoot : Bool := false
  frozenRouters : List Nat := []
  once : SMap Nat := []
deriving DecidableEq, Repr

/-! ### The control port (R536, R537) -/

/-- The four registers of a command ring and its RING_ERR bit (R378, R381), and the KCLK of the last write of its TAIL (R539). -/
structure Ring where
  base : BitVec 52 := 0
  size : BitVec 4 := 0
  tail : BitVec 16 := 0
  head : BitVec 16 := 0
  err : Bool := false
  tailK : Option Nat := none
deriving DecidableEq, Repr

/-- Control-port registers. -/
structure HostRegs where
  bootPort : BitVec 3 := 0
  bootEn : Bool := false
  prof : BitVec 2 := 0
  warnSeen : Bool := false
  bist : BitVec 32 := 0
  locks : BitVec 6 := 0
  timeFreq : BitVec 32 := 0
  cpViol : BitVec 32 := 0
  irqStatS : BitVec 25 := 0
  irqMaskS : BitVec 25 := 0
  irqStatNs : BitVec 23 := 0
  irqMaskNs : BitVec 23 := 0
  rings : SMap Ring := []
deriving DecidableEq, Repr

/-! ### Memory-port messages -/

/-- Who a memory message answers to. -/
inductive MOwner
  | htc (p h : Nat) | wr (p wid : Nat) | easel (ring : Nat) | eph (k : Nat)
deriving DecidableEq, Repr

/-- An outbound memory message waiting for a grant (R318, R319): MRd 1, MWr 2, MPoison 3. -/
structure MemReq where
  mopc : Nat
  line : Nat
  world : Nat
  part : Nat
  code : Bool
  size : Nat
  off : Nat
  data : BitVec 512 := 0
  be : BitVec 64 := 0
  own : MOwner
deriving DecidableEq, Repr

/-! ### The Easel (R346 to R392) -/

/-- What a memory access of a ring is for (R348, R361, R380, R384). -/
inductive MemUse
  | desc
  | fetch (key : Nat)
  | load (d size off : Nat)
  | store
  | operand (opc d : Nat) (ea : BitVec 64) (got : List (BitVec 64)) (off : Nat)
  | status (irq : Bool)
deriving DecidableEq, Repr

/-- What a ring waits for: a load of space `sp` samples at the end of its KCLK, and then goes on as `u` says (R496). -/
inductive EzWait
  | idle
  | mem (u : MemUse)
  | sample (sp off : Nat) (u : MemUse)
  | event (mask : BitVec 16) (until? : Option Nat) (d : Nat)
  | op
deriving DecidableEq, Repr

/-- A ring's context (R346, R347): ESTAT is kept by its fields; WORLD and RING follow from the ring's number. -/
structure Ctx where
  g : SMap (BitVec 64) := []
  flags : BitVec 4 := 0
  rc : BitVec 16 := 0
  pc : BitVec 64 := 0
  inrep : Bool := false
  malf : Bool := false
  viol : Bool := false
  lce : Bool := false
  lue : Bool := false
  fault : BitVec 8 := 0
  idx : BitVec 16 := 0
  rem : BitVec 16 := 0
  w : SMap (BitVec 64) := []
  running : Bool := false
  wait : EzWait := .idle
  rep : Option (BitVec 32 × BitVec 32) := none
  repw : BitVec 32 := 0
  ibuf : List (Nat × BitVec 512) := []
  dflags : BitVec 64 := 0
  lastOk : Bool := true
deriving DecidableEq, Repr

/-- A management operation in progress (R384): its ring, opcode, status register, operand words, whether its turn
has come (R385), the KCLK and the HCLK of its start, and what it still waits for. -/
structure MOp where
  ring : Nat
  opc : Nat
  d : Nat
  words : List (BitVec 64)
  started : Bool := false
  startK : Nat := 0
  startC : Nat := 0
  mark : Nat := 0
  work : List (Nat × Nat) := []
  status : Option Nat := none
  tiv : Nat := 0
deriving DecidableEq, Repr

/-- A management request to a panel (R152, R153, R384). -/
inductive MReq
  | recall (line op : Nat) (skipNs : Bool)
  | inv (line agent op : Nat)
  | sweep (set op : Nat)
  | retire (set op : Nat)
  | scrub (array i op : Nat)
deriving DecidableEq, Repr

/-- The Easel's shared state (R346, R360, R384, R385); `asks` holds the requests to panels that its operations have still to send. -/
structure Easel where
  ctx : SMap Ctx := []
  events : BitVec 16 := 0
  loc : SMap (BitVec 72) := []
  ops : List MOp := []
  opSeq : Nat := 0
  memOut : SMap (List MemReq) := []
  everRegion : Bool := false
  last : Option Nat := none
  tswap : List (Nat × Nat) := []
  asks : List (Nat × MReq) := []
deriving DecidableEq, Repr

/-! ### The region map (R306, R256, R182) -/

/-- A region's decoded attributes (R306). -/
structure Attr where
  idx : Nat
  base : Nat
  size : Nat
  kind : Nat
  home : Nat
  ports : Nat
  gran : Nat
  code : Bool
  nospec : Bool
  world : Nat
deriving DecidableEq, Repr

/-! ### Agent ports (R289, R305, R441, R442) -/

/-- Link states (R289). -/
inductive LState | down | introduce | ready | admitted | eclipsed | dead
deriving DecidableEq, Repr

/-- A settled mode (R288). -/
structure Mode where
  kind : Nat := 0
  feats : Nat := 0
  beat : Nat := 0
  version : Nat := 0
  tracked : Nat := 0
deriving DecidableEq, Repr

/-- A pending-snoop entry (R442). -/
structure PSnp where
  htc : Nat
  mgt : Bool
  owner : Bool
  fwd : Bool := false
  tiv : Bool := false
  world : Nat := 0
  part : Nat := 0
  prio : Nat := 0
  addr : Nat := 0
  rsvd : Bool := false
deriving DecidableEq, Repr

/-- A REQ of a port that has not ended (R233, R279); `resp` once its response has crossed the port output (R205). -/
structure POut where
  tag : Nat
  opc : Nat
  resp : Bool := false
deriving DecidableEq, Repr

/-- An agent-port slot: `rsReq` and `rsAck` are the toggles of the partner's side and `rlReq` and `rlAck` those of the block's
side (R282), `upq` holds the packets of the upward dual-clock queues (R280), and `hbOld` is the heartbeat window that stands in the KCLK of
the last write to it (R296). -/
structure Port where
  lstate : LState := .down
  fencing : Bool := false
  eclOp : Bool := false
  shold : Bool := false
  crdOvf : Bool := false
  hbLapse : Bool := false
  hdrFault : Bool := false
  introErr : Bool := false
  mode : Mode := {}
  stored : Option Mode := none
  maxSit : Nat := 0
  dnMax : List Nat := [0, 0, 0, 0, 0, 0]
  agent : Nat := 0
  part : Nat := 0
  nsOnly : Bool := false
  limit : Nat := 0
  sitCyc : Nat := 0
  hbCyc : Nat := 0
  prio : Nat := 2
  prioPend : Option Nat := none
  protoErr : BitVec 64 := 0
  dataPar : BitVec 64 := 0
  intro : List (BitVec 32) := []
  pebk : BitVec 64 := 0x1C#64
  peLevel : Nat := 0
  peLast : BitVec 64 := 0
  cause : Nat := 0
  held : Bool := false
  rst : Bool := true
  hsPend : Bool := true
  rsReq : Bool := false
  rsAck : Bool := false
  rlReq : Bool := true
  rlAck : Bool := false
  rstSince : Bool := false
  eclReq : Bool := false
  eclAcc : Bool := false
  eclAck : Bool := false
  risePend : Option Bool := none
  reclaimed : Bool := false
  upHeld : List Nat := [0, 0, 0, 0, 0, 0]
  upFreed : List Nat := [0, 0, 0, 0, 0, 0]
  dnCrd : List Nat := [0, 0, 0, 0, 0, 0]
  hbStart : Nat := 0
  dlStart : Nat := 0
  hbWin : BitVec 20 := 0x493E0#20
  hbOld : Option (Nat × BitVec 20) := none
  psnp : List PSnp := []
  reqs : List POut := []
  upq : List UpFlits := []
  winUp : Nat := 0
  winDn : Nat := 0
deriving DecidableEq, Repr

/-! ### Routers (R200, R213 to R219, R469) -/

/-- A combining entry (R200); how many acknowledgements of the first one's epoch and of the other it has combined (R216),
which agents they answer for, and what its next read finds in its codeword (R200, R407). -/
structure Comb where
  htc : Nat
  mgt : Bool
  expect : Nat
  sum : Nat := 0
  flags : Nat := 0
  src : Nat := 0
  combined : Nat := 0
  other : Nat := 0
  who : Vec := 0
  born : Nat
  world : Nat
  part : Nat
  prio : Nat
  epoch : Nat
  addr : Nat := 0
  ready : Bool := false
  flaw : Ecc := .ok
deriving DecidableEq, Repr

/-- A branch as the root sees it (R469): BSTATE 0 in service, 1 fencing, 2 eclipsed, 3 dawning; `eclAcc` says that the request that
stands was accepted (R464, R470). -/
structure Br where
  liveLoss : Bool := false
  shold : Bool := false
  eclReq : Bool := false
  eclAcc : Bool := false
  eclAck : Bool := false
  eclOp : Bool := false
  risePend : Bool := false
  bstate : Nat := 0
deriving DecidableEq, Repr

/-- A router: leaf q is q, branch b is 32 + b, the root is 40 (R367). `snpOld` is the value of SNPDL that stands in the HCLK of the last
write to it (R443). -/
structure Router where
  routes : SMap (BitVec 8) := []
  tblErr : Bool := false
  flushWait : BitVec 10 := 0x100#10
  epoch : Nat := 0
  flipAt : Option Nat := none
  flipped : Bool := false
  inj : List (BitVec 32) := [0, 0]
  ej : List (BitVec 32) := [0, 0]
  combMiss : BitVec 64 := 0
  unrouted : BitVec 64 := 0
  snpdl : BitVec 20 := 0x4000#20
  snpOld : Option (Nat × BitVec 20) := none
  comb : List Comb := []
  rr : SMap Nat := []
  copy : List Attr := []
deriving DecidableEq, Repr

/-- An EBar entry of the root (R246). -/
structure EbarEnt where
  agent : Nat
  slot : Nat
  tag : Nat
  got : Nat := 0
  err : Bool := false
  hdr : Hdr
deriving DecidableEq, Repr

/-- A management request in the root's input from the Easel (R40, R220): its panel, and the epoch that it was stamped with at its
capture (R214). -/
structure MgtIn where
  panel : Nat
  req : MReq
  epoch : Nat
deriving DecidableEq, Repr

/-- A request of the Restorer in the root's input from it (R40, R220): a step at set or Palette slot `pos` of its panel's sweep, or of
its recount, and the epoch that it was stamped with at its capture (R214). -/
structure RestIn where
  panel : Nat
  recnt : Bool
  pos : Nat
  epoch : Nat
deriving DecidableEq, Repr

/-- The tree's queues: packets waiting at each place and class, credits freed but not yet returned (R186), the EBars of the root, the
branches, the HCLK until which each root-to-panel link is held, and the MGT buffers of the root's inputs from the Easel and from the
Restorer (R40). -/
structure Net where
  qs : SMap (List Packet) := []
  owed : SMap Nat := []
  ebars : List EbarEnt := []
  brs : SMap Br := []
  dbl : SMap Nat := []
  ezMgt : List MgtIn := []
  rsMgt : List RestIn := []
deriving DecidableEq, Repr

/-! ### Panels (R28, R50, R57, R112, R436) -/

/-- A directory entry's payload (R50). -/
structure Ent where
  tag : Nat := 0
  st : Nat := 0
  agent : Nat := 0
  pal : Nat := 0
  age : Nat := 0
deriving DecidableEq, Repr

/-- Phases of an HTC (R112, R369). -/
inductive Phase | queued | decide | recall | collect | grant | close
deriving DecidableEq, Repr

/-- What an HTC is for. -/
inductive Job
  | req | wbk | ebar | tiv | tsy | mRecall | mInv | sweep | scan | hold
deriving DecidableEq, Repr

/-- Why an HTC in DECIDE waits (R56, R104, R237, R426, R189). -/
inductive Hold | go | way | proxy | device | sweep | buffer
deriving DecidableEq, Repr

/-- Data an HTC holds in its data-buffer line. -/
structure Buf where
  data : BitVec 512
  poison : Bool := false
  err : Nat := 0
deriving DecidableEq, Repr

/-- A victim being recalled, with the Palette slot its entry names and whether that is lost (R55, R63, R124, R126). -/
structure Vict where
  way : Nat
  line : Nat
  ent : Ent
  vec : Vec
  slot : Option Nat := none
  lost : Bool := false
deriving DecidableEq, Repr

/-- The decision row an HTC chose (R118 to R126): the owner snoop (R117: 1 SnpS KEEP, 2 PASS, 3 HOME, 4 SnpU FWD,
5 SnpU HOME, 6 SnpS PEEK, 7 unicast SnpInv), the Comp and its DSRC, who stays, and what the line was. -/
structure Plan where
  comp : Nat := 0
  dsrc : Nat := 3
  keep : Vec := 0
  owKeep : Nat := 0
  unchanged : Bool := false
  toH : Bool := false
  fromH : Bool := false
  wasDirty : Bool := false
  narrow : Bool := false
  oComp : Bool := false
  slot : Option Nat := none
deriving DecidableEq, Repr

/-- A home transaction context (R112, R436): `dread` says that its directory read is past (R163), `bufs` how many
data-buffer lines it has reserved (R189), `fwd` holds the line of a DataFwd until its owner's SnpAck (R131, R446),
`acked` the targets whose acknowledgements are summed (R252), `pick` the victim it chose at D7 while it waits at D9 (R161), and `fwdCut`
says that the DataFwd with which its owner served the requester died with the owner's port (R169, R445). -/
structure Htc where
  job : Job
  pool : Nat
  phase : Phase
  seq : Nat
  acc : Nat
  start : Nat := 0
  pkt : Packet
  line : Nat
  reg : Option Attr := none
  tabled : Bool := false
  hold : Hold := .go
  dread : Bool := false
  bufs : Nat := 0
  ent : Ent := {}
  way : Option Nat := none
  vec : Vec := 0
  lost : Bool := false
  oldPal : Option Nat := none
  plan : Plan := {}
  vict : Option Vict := none
  pick : Option Vict := none
  expect : Nat := 0
  sum : Nat := 0
  tset : Vec := 0
  acked : Vec := 0
  ow : Option Nat := none
  owSnp : Nat := 0
  owAck : Bool := true
  owNeed : Bool := false
  owEvict : Bool := false
  owLost : Bool := false
  owFwdSeen : Bool := false
  fwdCut : Bool := false
  owKept : Bool := false
  owMode : Nat := 0
  rd : Bool := false
  md : Option Buf := none
  fwd : Option Buf := none
  buf : Option Buf := none
  sentComp : Bool := false
  sentData : Bool := false
  cack : Option Nat := none
  hint : Bool := false
  withheld : List Packet := []
  gone : Vec := 0
  wrIssued : Bool := false
  pslot : Option Nat := none
  deadRq : Bool := false
  fin : Ent := {}
  closeAt : Nat := 0
  comet : Bool := false
  stamps : SMap Nat := []
  tflags : Nat := 0
  missed : Bool := false
  devWait : Option Nat := none
  opId : Nat := 0
  step : Nat := 0
deriving DecidableEq, Repr

/-- A proxy-buffer slot (R104): its line, data, and the writers an EBar may cover (R244). -/
structure Proxy where
  line : Nat
  data : BitVec 512
  poison : Bool := false
  htc : Option Nat := none
  who : List (Nat × Nat) := []
deriving DecidableEq, Repr

/-- A write that a memory port has not completed: the writers it covers (R243) and the HTC its WrAcc waits in
(R239). -/
structure Wr where
  line : Nat
  who : List (Nat × Nat) := []
  dev : Option Nat := none
deriving DecidableEq, Repr

/-- A scan for dead agents (R449): in the Palette pass, then in the directory pass. -/
structure Scan where
  agents : Vec
  pal : Bool := true
  pos : Nat := 0
deriving DecidableEq, Repr

/-- A panel: `trigs` are the triggered sweeps that wait to start, with the operation or 1 for the Restorer (R425), `mgmtAt` is the KCLK
of the last management request presented to it (R152), and `rpart` says that the directory pass in progress is no full one (R423,
R454). -/
structure Panel where
  dir : SMap (BitVec 72) := []
  pal : SMap (BitVec 80) := []
  htcs : SMap Htc := []
  seq : Nat := 0
  wseq : Nat := 0
  outq : List Packet := []
  look : List Attr := []
  proxy : SMap Proxy := []
  llt : SMap Nat := []
  wrs : SMap Wr := []
  memOut : SMap (List MemReq) := []
  errs : Vec := 0
  dead : Vec := 0
  scan : Option Scan := none
  scanNext : Vec := 0
  recount : Option (Nat × Bool) := none
  merges : List (Nat × Nat) := []
  retired : List Nat := []
  sweeping : List Nat := []
  trigs : List (Nat × Nat) := []
  bhtc : Nat := 0
  rpos : Nat := 0
  rprev : Nat := 0
  rlast : Nat := 0
  lastAcc : Option Nat := none
  mgmtAt : Option Nat := none
  rpart : Bool := false
deriving DecidableEq, Repr

/-! ### Memory ports, Restorer, Ephemeris, trace -/

/-- A memory port (R316, R320, R327, R340, R345); `frozen` after an uncorrectable header in its buffers (R407, R438). `tags` is the table of
its 64 buffers of each direction, by MTAG: an entry is the message that stands in the outbound buffer, header and line (R41), or has left
it, until its answer is taken from the inbound buffer that the same MTAG owns (R320). A message leaves for the queues under a credit that
it holds from its grant on (R316, R338), and any of them in a queue has its MTAG here, so that the queues hold nothing that this table
does not (log entry 11). -/
structure MemPort where
  rst : Bool := true
  svc : Bool := false
  psnCap : Bool := true
  cause : Nat := 0
  frozen : Bool := false
  lfsr : BitVec 32 := 1
  credits : Nat := 0
  tags : SMap MemReq := []
  busyUntil : Nat := 0
  backTo : SMap Nat := []
  winUp : Nat := 0
  winDn : Nat := 0
deriving DecidableEq, Repr

/-- The Restorer's shared state (R421, R454): the KCLK in which its current step began, the panels that have taken it, those that have
ended the sweep in progress, the after-dip sweep, the panels that ended it and what it found, whether a warning still waits to be cleared, and the KCLK of the last leak
of the buckets (R415). -/
structure Rest where
  stepK : Nat := 0
  took : List Nat := []
  passed : List Nat := []
  dip : Bool := false
  dipDone : List Nat := []
  dipUe : Nat := 0
  dipCe : Nat := 0
  owedDip : Bool := false
  leakK : Option Nat := none
deriving DecidableEq, Repr

/-- What the Ephemeris writer is doing (R523, R526). -/
inductive EphJob
  | none
  | check (slot : Nat) (left : List Nat) (img : List (BitVec 512)) (fail : Bool) (waiting : List Nat)
  | restore (left : List Nat) (got : SMap Buf) (bad : List Nat) (waiting : List Nat)
deriving DecidableEq, Repr

/-- The Ephemeris (R518 to R527). -/
structure Eph where
  sram : SMap (BitVec 80) := []
  staging : SMap Nat := []
  cals : List (Nat × BitVec 64 × BitVec 64) := []
  held : Bool := true
  job : EphJob := .none
  trigger : Option Nat := none
  profSince : Option Nat := none
  lifeFrom : Nat := 0
  lastSeq : BitVec 64 := 0
  lastSlot : Option Nat := none
  tried : Bool := false
  ok : Bool := false
  restored : Bool := false
  slots : Option (Nat × Nat) := none
  lastPeriod : Nat := 0
  memOut : SMap (List MemReq) := []
deriving DecidableEq, Repr

/-- The trace buffer (R513): words with the marks of a record's first and last word, drops since the last marker, and the records of
this HCLK with their places in the order in which they enter at its end. -/
structure Trace where
  words : List (Bool × Bool × BitVec 64) := []
  owed : Nat := 0
  now : List (Nat × List (BitVec 64)) := []
deriving DecidableEq, Repr

/-- What leaves the block at a port (the model's record of it, log entry 5): a packet and a memory message with the flits
that carry them, link words, control responses and trace words with their parity. -/
inductive Out
  | pkt (slot : Nat) (p : Packet) (flits : List Flit)
  | link (slot : Nat) (words : List LinkWord)
  | credit (slot cls : Nat)
  | mem (m mtag : Nat) (r : MemReq) (flits : List Flit)
  | memCredit (m : Nat)
  | cp (err : Bool) (data : BitVec 32) (par : BitVec 4)
  | trace (sof : Bool) (w : BitVec 64) (par : BitVec 8)
deriving DecidableEq, Repr

/-- The state of the block. `hwSet` notes the KCLK, plus one, in which a W1C bit was last set (R20), and `bkNote` the KCLK, plus one, of
a bucket's last leak and what became of it: 0 lowered LEVEL, 2 was cancelled by an addition (R415). `st4` notes the KCLK, plus one, of
the last store to a counter (R497), `evOld` the event select that stands in the KCLK, plus one, of the last store to it (R502), and
`winLast` the sums of a byte window that ended in the KCLK, plus one (R505). -/
structure State where
  pending : List Instr := []
  build : Build := {}
  nonce : Nat := 0
  outs : List Out := []
  clk : Clk := {}
  host : HostRegs := {}
  ez : Easel := {}
  rgn : SMap (BitVec 80) := []
  ports : SMap Port := []
  routers : SMap Router := []
  net : Net := {}
  panels : SMap Panel := []
  mps : SMap MemPort := []
  rs : Rest := {}
  ep : Eph := {}
  tr : Trace := {}
  w4 : SMap (BitVec 64) := []
  w6 : SMap (BitVec 64) := []
  hwSet : SMap Nat := []
  bkNote : SMap (Nat × Nat) := []
  st4 : SMap Nat := []
  evOld : SMap (Nat × BitVec 64) := []
  winLast : SMap (Nat × Nat × Nat) := []
deriving DecidableEq, Repr

/-- The block in the HCLK in which HCLK leaves reset, before any partner is attached (R479 to R481, R499). -/
def State.reset : State := {}

end Sys2Proof.Machine
end

