-- ==== Sys2Proof/Machine/Codes.lean ====
section
/-! DEFINITION. The error codes: the strong DEC-TED code (R408, R409), the light SEC-DED code (R410) and the
CRC-32 of link records and checkpoints (R284, R524). -/

namespace Sys2Proof

/-! ### Flits, parity and headers on the pins (R264 to R269, R315 to R318) -/

/-- Odd parity of each byte of an `n`-byte bus (R269). -/
def oddPar (n bus : Nat) : Nat :=
  (List.range n).foldl (fun a i => if onesN 8 (bitsN bus (8 * i) 8) % 2 = 0 then a + 2 ^ i else a) 0

/-- Odd parity of each byte of an `n`-byte bus holds (R269). -/
def oddParOk (n bus par : Nat) : Bool := decide (par % 2 ^ n = oddPar n bus)

/-- The byte parity of a link word (R269). -/
def linkPar (w : BitVec 32) : BitVec 4 := BitVec.ofNat 4 (oddPar 4 w.toNat)

/-- Link words with their parity. -/
def linkWords (ws : List (BitVec 32)) : List LinkWord := ws.map fun w => { word := w, par := linkPar w }

/-- A link word's parity holds. -/
def LinkWord.ok (w : LinkWord) : Bool := decide (w.par = linkPar w.word)

/-- Bytes of a channel's flit bus: RSP and MGT are 128 bits wide, the others 512 (R260). -/
def chanBytes (cls : Nat) : Nat := if cls = cRSP ∨ cls = cMGT then 16 else 64

/-- A flit as it is driven on an `n`-byte bus, without byte enables. -/
def flitOf (n bus : Nat) : Flit := { flit := BitVec.ofNat 512 bus, par := BitVec.ofNat 64 (oddPar n bus) }

/-- The parity of a flit on an `n`-byte bus holds. -/
def Flit.ok (n : Nat) (f : Flit) : Bool := oddParOk n (bitsN f.flit.toNat 0 (8 * n)) f.par.toNat

/-- The data flits of `len` bytes in beats of `w` bytes: beat k holds bytes kw to kw + w - 1, the bits above are zero
(R265). -/
def beatsOf (len w : Nat) (data : Nat) : List Flit :=
  (List.range ((len + w - 1) / w)).map fun k => flitOf 64 (bitsN data (8 * w * k) (8 * min w len))

/-- The flits of a packet at a port of beat width `w` (R264, R265, R269). -/
def Packet.flits (p : Packet) (w : Nat) : List Flit :=
  flitOf (chanBytes p.hdr.cls) p.hdr.toFlit.toNat ::
    beatsOf p.hdr.payload w (if p.hdr.payload = 32 then p.desc.toNat else p.data.toNat)

/-- The header flit of an upward packet. -/
def UpFlits.head (f : UpFlits) : Flit := f.flits.headD {}

/-- The 128 bits of its header (R264). -/
def UpFlits.hdr (f : UpFlits) : BitVec 128 := f.head.flit.setWidth 128

/-- The data flits its header calls for, in beats of `w` bytes (R265). -/
def UpFlits.need (f : UpFlits) (w : Nat) : Nat := ((Hdr.ofFlit f.hdr).payload + w - 1) / w

/-- Its data flits. -/
def UpFlits.body (f : UpFlits) (w : Nat) : List Flit := (f.flits.drop 1).take (f.need w)

/-- VALID fell to 0 within the packet (R263). -/
def UpFlits.gap (f : UpFlits) (w : Nat) : Bool := decide (f.flits.length < 1 + f.need w)

/-- The header flit fails parity (R269). -/
def UpFlits.hdrPerr (f : UpFlits) : Bool := !f.head.ok (chanBytes f.chan)

/-- How many data flits fail parity (R269, R273). -/
def UpFlits.badFlits (f : UpFlits) (w : Nat) : Nat := ((f.body w).filter fun d => !d.ok (chanBytes f.chan)).length

/-- The byte-enable bus fails parity in some cycle of the packet, that of its header too (R269, R273). -/
def UpFlits.bePerr (f : UpFlits) (w : Nat) : Bool :=
  (f.head :: f.body w).any fun d => !oddParOk 8 d.be.toNat d.bep.toNat

/-- What its beats carry: byte i of beat k is byte kw + i (R265). -/
def UpFlits.data (f : UpFlits) (w : Nat) : BitVec 512 :=
  BitVec.ofNat 512 ((f.body w).zipIdx.foldl (fun a d => a + bitsN d.1.flit.toNat 0 (8 * w) * 2 ^ (8 * w * d.2)) 0)

/-- The byte enables its beats carry (R267). -/
def UpFlits.be (f : UpFlits) (w : Nat) : BitVec 64 :=
  BitVec.ofNat 64 ((f.body w).zipIdx.foldl (fun a d => a + bitsN d.1.be.toNat 0 w * 2 ^ (w * d.2)) 0)

/-- Odd parity over the `n` bits of a number, as one bit (R269, R532). -/
def oddBit (n v : Nat) : Nat := (onesN n v + 1) % 2

/-- The parity that a control request carries (R269, R532): a bit for each byte of CP_REQ_WDATA, and one over CP_REQ_ADDR,
CP_REQ_WRITE and CP_REQ_NS. -/
def cpReqPar (write ns : Bool) (addr : Nat) (wdata : BitVec 32) : BitVec 5 :=
  BitVec.ofNat 5 (oddPar 4 wdata.toNat + oddBit 13 (bitsN addr 2 11 + b2n write * 2 ^ 11 + b2n ns * 2 ^ 12) * 16)

/-- The header of an inbound memory message (R315, R318). -/
def MemResp.hdr (r : MemResp) : Nat := (r.flits.headD {}).flit.toNat

/-- MOPC (R318). -/
def MemResp.mopc (r : MemResp) : Nat := bitsN r.hdr 125 3
/-- MTAG (R318). -/
def MemResp.mtag (r : MemResp) : Nat := bitsN r.hdr 119 6
/-- POISON (R318). -/
def MemResp.poison (r : MemResp) : Bool := bitN r.hdr 55
/-- ERR (R318). -/
def MemResp.err (r : MemResp) : Nat := bitsN r.hdr 53 2
/-- The header flit fails parity (R327). -/
def MemResp.hdrPerr (r : MemResp) : Bool := !(r.flits.headD {}).ok 64
/-- The data flit of an MData (R315). -/
def MemResp.dataFlit (r : MemResp) : Flit := r.flits.getD 1 {}
/-- The line of an MData. -/
def MemResp.data (r : MemResp) : BitVec 512 := r.dataFlit.flit
/-- The data flit fails parity (R328). -/
def MemResp.dataPerr (r : MemResp) : Bool := decide (r.mopc = 4) && !r.dataFlit.ok 64
/-- MP_RSP_VALID fell to 0 within the packet (R327). -/
def MemResp.gap (r : MemResp) : Bool := decide (r.flits.length < if r.mopc = 4 then 2 else 1)

end Sys2Proof

namespace Sys2Proof.Machine

/-! ### The field GF(2^7) with α a root of x^7 + x^3 + 1 (R408) -/

/-- Multiply by α. -/
def gfA (x : Nat) : Nat := if 64 ≤ x then (x * 2) ^^^ 0x89 else x * 2

/-- Multiply by α^3. -/
def gfA3 (x : Nat) : Nat := gfA (gfA (gfA x))

/-- Product, taking `k` bits of the second factor from the top. -/
def gfMulN : Nat → Nat → Nat → Nat
  | 0, _, _ => 0
  | k + 1, a, b => gfA (gfMulN k a (b / 2)) ^^^ (if b % 2 = 1 then a else 0)

/-- Product in the field. -/
def gfMul (a b : Nat) : Nat := gfMulN 7 a b

/-- Cube in the field. -/
def gfCube (a : Nat) : Nat := gfMul a (gfMul a a)

/-- Powers of α from α^0, `n` of them, starting at `x`. -/
def gfPowers : Nat → Nat → List Nat
  | 0, _ => []
  | n + 1, x => x :: gfPowers n (gfA x)

/-- The exponent below `n` whose power of α is `v`. -/
def gfLog (n v : Nat) : Option Nat := (gfPowers n 1).findIdx? (· = v)

/-- Remainder of a polynomial by the generator g(x) = (x+1)(x^7+x^3+1)m3(x), taking the coefficients from the top:
one step per coefficient (R408). -/
def polyRem : Nat → Nat → Nat → Nat
  | 0, r, _ => r
  | k + 1, r, d =>
    let r' := (r * 2) ^^^ (if d.testBit k then 0x8000 else 0)
    polyRem k (if 0x8000 ≤ r' then r' ^^^ 0xC599 else r') d

/-- The check polynomial r(x) = x^15 d(x) modulo g(x) of `k` data bits. -/
def strongCheck (k d : Nat) : Nat := polyRem k 0 d

/-- The stored word of `k` data bits: data, the 15 check bits, C15 (R408). -/
def strongEnc (k d : Nat) : Nat :=
  d ||| (strongCheck k d <<< k) ||| ((onesN k d % 2) <<< (k + 15))

/-- The coded bits of a stored word: position j is check bit j below 15 and data bit j - 15 above (R408). -/
def codedBits (k w : Nat) : Nat := (w % 2 ^ k) <<< 15 ||| bitsN w k 15

/-- The syndromes S1 and S3, by Horner's rule over the coded positions from the top (R409). -/
def syndromes : Nat → Nat → Nat × Nat
  | 0, _ => (0, 0)
  | n + 1, c =>
    let r := syndromes n (c / 2)
    (gfA r.1 ^^^ (c % 2), gfA3 r.2 ^^^ (c % 2))

/-- What a decoder found (R409, R410). -/
inductive Dec
  | ok (d : Nat) | ce (d : Nat) | ue (d : Nat)
deriving DecidableEq, Repr

/-- The data bits a decoder delivers. -/
def Dec.data : Dec → Nat
  | .ok d => d
  | .ce d => d
  | .ue d => d

/-- The two exponents below `n` of a double error with these syndromes (R409). -/
def twoRoots (n s1 s3 : Nat) : Option (Nat × Nat) :=
  (List.range n).findSome? fun i =>
    let a := (gfPowers n 1).getD i 0
    let b := a ^^^ s1
    if b ≠ 0 ∧ a ≠ b ∧ gfCube a ^^^ gfCube b = s3 then
      (gfLog n b).bind fun j => if i < j then some (i, j) else none
    else none

/-- The strong decoder for `k` data bits, its rows in the order of R409. -/
def strongDec (k w : Nat) : Dec :=
  let n := k + 15
  let c := codedBits k w
  let s := syndromes n c
  let p := onesN n c % 2
  let q (c' : Nat) : Nat := (b2n (w.testBit (k + 15)) + onesN k (c' >>> 15)) % 2
  if s = (0, 0) ∧ p = 0 then
    if q c = 0 then .ok (c >>> 15) else .ce (c >>> 15)
  else if p = 1 then
    match gfLog n s.1 with
    | some j =>
      if s.2 = gfCube s.1 then .ce ((c ^^^ 2 ^ j) >>> 15) else .ue (c >>> 15)
    | none => .ue (c >>> 15)
  else if s.1 ≠ 0 then
    match twoRoots n s.1 s.2 with
    | some (i, j) =>
      let c' := c ^^^ 2 ^ i ^^^ 2 ^ j
      if q c' = 0 then .ce (c' >>> 15) else .ue (c >>> 15)
    | none => .ue (c >>> 15)
  else .ue (c >>> 15)

/-! ### The light code (R410) -/

/-- Position numbers of the 64 data bits: the integers from 3 to 71 that are not powers of two. -/
def lightPos : List Nat :=
  (List.range 72).filter fun i => 3 ≤ i ∧ i ∉ [4, 8, 16, 32, 64]

/-- Check bits c_0 to c_6: the exclusive-OR of the position numbers of the set data bits. -/
def lightSyn (d : Nat) : Nat :=
  (lightPos.zipIdx).foldl (fun a e => if d.testBit e.2 then a ^^^ e.1 else a) 0

/-- The (72,64) codeword of 64 data bits. -/
def lightEnc (d : Nat) : Nat :=
  let c := lightSyn d
  d ||| c <<< 64 ||| ((onesN 64 d + onesN 7 c) % 2) <<< 71

/-- The light decoder. -/
def lightDec (w : Nat) : Dec :=
  let d := w % 2 ^ 64
  let s := bitsN w 64 7 ^^^ lightSyn d
  let p := onesN 72 w % 2
  if s = 0 ∧ p = 0 then .ok d
  else if p = 1 then
    if s = 0 ∨ s ∈ [1, 2, 4, 8, 16, 32, 64] then .ce d
    else match lightPos.findIdx? (· = s) with
      | some i => .ce (d ^^^ 2 ^ i)
      | none => .ue d
  else .ue d

/-! ### Self-test (R413, R542) -/

/-- The patterns that BIST puts to a checker of an `n`-bit word (R413), as the bits in error of the all-zero word: none, one, three in a
row, and for a strong decoder two in a row, and each with C15, the last bit. -/
def bistMasks (n : Nat) (strong : Bool) : List Nat :=
  [0] ++ (List.range n).map (2 ^ ·) ++ (List.range (if strong then n - 3 else n - 2)).map (fun j => 7 * 2 ^ j) ++
    if strong then (List.range (n - 2)).map (fun j => 3 * 2 ^ j) ++ (List.range (n - 1)).map (fun j => 2 ^ j + 2 ^ (n - 1)) else []

/-- A position of the coded bits, and C15 behind them, as a bit of the stored word of `k` data bits (R408). -/
def codedToWord (k m : Nat) : Nat := bitsN m 15 k ||| (m % 2 ^ 15) <<< k ||| bitsN m (k + 15) 1 <<< (k + 15)

/-- What a decoder finds and delivers. -/
def Dec.verdict : Dec → Ecc × Nat
  | .ok d => (.ok, d)
  | .ce d => (.ce, d)
  | .ue d => (.ue, d)

/-- The right answer of a checker of class `cls` to a pattern, or none where BIST does not put it the pattern (R409 to R411, R413, R542):
the strong decoders of 72-bit and 80-bit words, the light decoders, the parity checkers of 32-bit groups with their bit, which is 1 over
the all-zero group, and the comparators, which flag. Data count where the word is corrected or clean. -/
def bistRight (cls mask : Nat) : Option (Ecc × Nat) :=
  let strong (k : Nat) : Option (Ecc × Nat) :=
    if mask ∈ bistMasks (k + 16) true then some (strongDec k (codedToWord k mask)).verdict else none
  match cls with
  | 1 => strong 56
  | 2 | 3 | 4 => strong 64
  | 5 | 6 | 7 | 8 => if mask ∈ bistMasks 72 false then some (lightDec mask).verdict else none
  | 9 => if mask ∈ bistMasks 33 false then some (if onesN 33 mask % 2 = 0 then .ok else .ue, 0) else none
  | 10 => if mask = 0 then some (.ue, 0) else none
  | _ => none

/-- An answer differs from the right one (R413). -/
def BistAns.wrong (a : BistAns) : Bool :=
  match bistRight a.cls a.mask with
  | none => false
  | some (e, d) => decide (a.ecc ≠ e) || (decide (e ≠ .ue) && decide (a.cls ≤ 8) && decide (a.data ≠ d))

/-! ### CRC-32, IEEE 802.3 (R284, R524) -/

/-- One bit of the reflected CRC. -/
def crcBit (c : Nat) : Nat := if c % 2 = 1 then (c / 2) ^^^ 0xEDB88320 else c / 2

/-- One byte, least-significant bit first. -/
def crcByte (c byte : Nat) : Nat :=
  crcBit (crcBit (crcBit (crcBit (crcBit (crcBit (crcBit (crcBit (c ^^^ byte))))))))

/-- CRC-32 over a list of 32-bit words taken as little-endian bytes: start at all ones, complement at the end. -/
def crc32 (ws : List (BitVec 32)) : BitVec 32 :=
  ~~~(BitVec.ofNat 32 (ws.foldl (fun c w =>
    (List.range 4).foldl (fun c i => crcByte c (bitsN w.toNat (8 * i) 8)) c) 0xFFFFFFFF))

/-! ### Memory-port packets (R315, R318, R321, R329) -/

/-- The header of an outbound memory message: POISON is 1 in MPoison alone (R318, R329). -/
def MemReq.header (r : MemReq) (tag : Nat) : Nat :=
  r.mopc <<< 125 ||| tag <<< 119 ||| r.line <<< 73 ||| r.world <<< 72 ||| r.part <<< 66 ||| b2n r.code <<< 65 |||
    r.size <<< 62 ||| r.off <<< 56 ||| b2n (decide (r.mopc = 3)) <<< 55

/-- The flits of an outbound memory message: the header, and for MWr the line with its byte enables, which are zero beside
every other flit (R315). -/
def MemReq.flits (r : MemReq) (tag : Nat) : List Flit :=
  let be (f : Flit) (e : BitVec 64) : Flit := { f with be := e, bep := BitVec.ofNat 8 (oddPar 8 e.toNat) }
  be (flitOf 64 (r.header tag)) 0 :: if r.mopc = 2 then [be (flitOf 64 r.data.toNat) r.be] else []

/-! ### Directory entries and Palette codewords (R50, R57) -/

/-- The 56-bit payload of an entry (R50). -/
def Ent.pay (e : Ent) : Nat :=
  e.tag <<< 29 ||| e.st <<< 25 ||| e.agent <<< 17 ||| e.pal <<< 3 ||| e.age <<< 1

/-- The entry of a payload. -/
def Ent.ofPay (n : Nat) : Ent :=
  { tag := bitsN n 29 27, st := bitsN n 25 4, agent := bitsN n 17 8, pal := bitsN n 3 14, age := bitsN n 1 2 }

/-- The entry with zero in every field that its STATE leaves unused, H's proxy slot in AGENT[4:0] alone: as a panel writes it, and as
it reads it (R51). -/
def Ent.canon (e : Ent) : Ent :=
  { e with
    agent := if e.st = 0 ∨ e.st = 5 then 0 else if e.st = 8 then e.agent % 32 else e.agent
    pal := if e.st = 5 ∨ e.st = 7 then e.pal else 0 }

/-- The codeword of an entry. -/
def Ent.enc (e : Ent) : BitVec 72 := BitVec.ofNat 72 (strongEnc 56 e.pay)

/-- The codeword of a 64-bit strongly coded word. -/
def encW (d : BitVec 64) : BitVec 80 := BitVec.ofNat 80 (strongEnc 64 d.toNat)

/-- Decode a 64-bit strongly coded word. -/
def decW (w : BitVec 80) : Dec := strongDec 64 w.toNat

end Sys2Proof.Machine
end

