-- ==== Sys2Proof/Machine/Ops.lean ====
section
/-! DEFINITION. The named operations over the state: numbers of the build, registers held by address, counters,
buckets, logs, events, interrupts, violations, protocol errors, fatal errors, queues and credits, and the entry of
a port to DEAD. -/

namespace Sys2Proof.Machine

/-! ### The build (R24 to R27, R176) -/

/-- PANELS. -/
def Build.panels (b : Build) : Nat := 2 ^ b.p

/-- Sets per panel (R26). -/
def Build.sets (b : Build) : Nat := b.setsK * 1024

/-- PALETTE_SETS. -/
def Build.palSets (b : Build) : Nat := 1024 * 2 ^ b.psets

/-- The built leaf positions, rising: leaf q stands at the q-th of them (R176). -/
def Build.positions (b : Build) : List Nat :=
  (List.range 32).filter fun i => (b.leaves.getD i none).isSome

/-- The position of leaf `q`. -/
def Build.leafPos (b : Build) (q : Nat) : Option Nat := b.positions[q]?

/-- The branch of leaf `q`. -/
def Build.branchOf (b : Build) (q : Nat) : Nat := ((b.leafPos q).getD 0) / 4

/-- PORTS_PER_LEAF of each leaf in order. -/
def Build.portCounts (b : Build) : List Nat :=
  b.positions.map fun i => ((b.leaves.getD i none).getD (0, 0)).2

/-- The leaf and port of slot number `n`, counting leaves from `q`. -/
def slotGo : List Nat → Nat → Nat → Option (Nat × Nat)
  | [], _, _ => none
  | c :: r, n, q => if n < c then some (q, n) else slotGo r (n - c) (q + 1)

/-- The leaf and port of a slot (R176). -/
def Build.slotAt (b : Build) (slot : Nat) : Option (Nat × Nat) := slotGo b.portCounts slot 0

/-- The leaf of a slot. -/
def Build.leafOf (b : Build) (slot : Nat) : Nat := ((b.slotAt slot).getD (0, 0)).1

/-- The slots of leaf `q`. -/
def Build.leafSlots (b : Build) (q : Nat) : List Nat :=
  let base := (b.portCounts.take q).sum
  (List.range (b.portCounts.getD q 0)).map (base + ·)

/-- The number of built slots (R25). -/
def Build.slots (b : Build) : Nat := b.portCounts.sum

/-- The number of built leaves. -/
def Build.leafN (b : Build) : Nat := b.positions.length

/-- The branch `i` is built: some leaf position of it holds a leaf. -/
def Build.hasBranch (b : Build) (i : Nat) : Bool := b.positions.any fun x => x / 4 = i

/-- The leaves of branch `i`. -/
def Build.branchLeaves (b : Build) (i : Nat) : List Nat :=
  (List.range b.leafN).filter fun q => b.branchOf q = i

/-- The slots of branch `i`. -/
def Build.branchSlots (b : Build) (i : Nat) : List Nat := (b.branchLeaves i).flatMap b.leafSlots

/-- Router `r` is built (R367). -/
def Build.hasRouter (b : Build) (r : Nat) : Bool :=
  if r < 32 then decide (r < b.leafN) else if r < 40 then b.hasBranch (r - 32) else r = 40

/-- The router above a slot. -/
def Build.branchOfSlot (b : Build) (slot : Nat) : Nat := b.branchOf (b.leafOf slot)

/-! ### Access to the parts -/

/-- The KCLK number (R31, R415). -/
def State.kclk (s : State) : Nat := s.clk.cyc / 8

/-- A port. -/
def State.port (s : State) (slot : Nat) : Port := smGet {} s.ports slot

/-- Replace a port. -/
def State.setPort (s : State) (slot : Nat) (x : Port) : State := { s with ports := smSet s.ports slot x }

/-- Change a port. -/
def State.modPort (s : State) (slot : Nat) (f : Port → Port) : State := s.setPort slot (f (s.port slot))

/-- A router. -/
def State.router (s : State) (r : Nat) : Router := smGet {} s.routers r

/-- Change a router. -/
def State.modRouter (s : State) (r : Nat) (f : Router → Router) : State :=
  { s with routers := smSet s.routers r (f (s.router r)) }

/-- A panel. -/
def State.panel (s : State) (p : Nat) : Panel := smGet {} s.panels p

/-- Change a panel. -/
def State.modPanel (s : State) (p : Nat) (f : Panel → Panel) : State :=
  { s with panels := smSet s.panels p (f (s.panel p)) }

/-- A memory port. -/
def State.mp (s : State) (m : Nat) : MemPort := smGet {} s.mps m

/-- A memory port is frozen: by a fault of R327, or by an uncorrectable header in its buffers (R407, R438). -/
def MemPort.stopped (x : MemPort) : Bool := decide (x.cause ≠ 0) || x.frozen

/-- Change a memory port. -/
def State.modMp (s : State) (m : Nat) (f : MemPort → MemPort) : State :=
  { s with mps := smSet s.mps m (f (s.mp m)) }

/-- A ring's control-port registers. -/
def State.ring (s : State) (n : Nat) : Ring := smGet {} s.host.rings n

/-- Change a ring's control-port registers. -/
def State.modRing (s : State) (n : Nat) (f : Ring → Ring) : State :=
  { s with host := { s.host with rings := smPut {} s.host.rings n (f (s.ring n)) } }

/-- A ring's context. -/
def State.ctx (s : State) (n : Nat) : Ctx := smGet {} s.ez.ctx n

/-- Change a ring's context. -/
def State.modCtx (s : State) (n : Nat) (f : Ctx → Ctx) : State :=
  { s with ez := { s.ez with ctx := smSet s.ez.ctx n (f (s.ctx n)) } }

/-- A branch word. -/
def State.br (s : State) (b : Nat) : Br := smGet {} s.net.brs b

/-- Change a branch word. -/
def State.modBr (s : State) (b : Nat) (f : Br → Br) : State :=
  { s with net := { s.net with brs := smSet s.net.brs b (f (s.br b)) } }

/-- Append to what left the block; boundary cells that are not transparent let nothing out (R555). -/
def State.out (s : State) (o : Out) : State := { s with outs := if s.clk.cellsOpen then s.outs ++ [o] else s.outs }

/-- The profile is Bounded. -/
def State.bounded (s : State) : Bool := s.host.prof = 1

/-- The block takes no command: it is in reset, or the boundary cells isolate its logic, which WS_CLAMP does not (R479, R555). -/
def Clk.shut (x : Clk) : Bool := x.inReset || (!x.cellsOpen && decide (x.wir ≠ 2))

/-- A command with effects only while BLOCK_RST_N is released, and no test isolates the block. -/
def State.whenLive (s : State) (f : State → State) : State := if s.clk.shut then s else f s

/-! ### Registers held by address (spaces 0x4 and 0x6) -/

/-- Panel control block base (R367). -/
def pnBase (p : Nat) : Nat := 0x90000 + 0x1000 * p
/-- Memory-port control block base (R367). -/
def mpBase (m : Nat) : Nat := 0x80000 + 0x800 * m
/-- Router control block base (R367). -/
def rtBase (r : Nat) : Nat := 0x10000 + 0x2000 * r

/-- Offsets of the BK_CTL words (R417). -/
def isBkCtl (off : Nat) : Bool :=
  if 0x90000 ≤ off ∧ off < 0xA0000 then off % 0x1000 ∈ [0x40, 0x60, 0x80, 0xA0, 0xC0, 0xE0, 0x100]
  else if 0x80000 ≤ off ∧ off < 0x84000 then off % 0x800 = 0x80
  else if 0x10000 ≤ off ∧ off < 0x62000 then
    off % 0x2000 ∈ [0x80, 0xA0, 0xC0] ∨ (off < 0x50000 ∧ off % 0x2000 ∈ [0xE0, 0x140])
  else off ∈ [0xA1040, 0xA1060, 0xA1080, 0xA10A0]

/-- Reset values of the space 0x6 words held by address (R345, R368, R416, R419, R527). -/
def w6Reset (off : Nat) : BitVec 64 :=
  if isBkCtl off then 0x10001C#64
  else if 0x80000 ≤ off ∧ off < 0x84000 then
    (if off % 0x800 = 0 then 0x8888888888888888#64 else if off % 0x800 = 8 then 0x888#64 else 0)
  else if 0xA0000 ≤ off ∧ off < 0xA0200 then 0x100#64
  else if off = 0xA1200 then 0x17D7#64
  else if off = 0xA1208 then 0xBB8#64
  else if off = 0xA1300 then 0x80#64
  else 0

/-- Reset values of the space 0x4 words held by address (R500). -/
def w4Reset (off : Nat) : BitVec 64 :=
  if off < 0x1000 then (if off % 0x100 = 8 then 0xA#64 else if off % 0x100 = 0x10 then 1#64 else 0)
  else if off < 0x5200 ∧ off % 0x40 = 0 then 0x14#64
  else 0

/-- A space 0x6 word held by address. -/
def State.w6g (s : State) (off : Nat) : BitVec 64 := smGet (w6Reset off) s.w6 off
/-- Set a space 0x6 word held by address. -/
def State.w6s (s : State) (off : Nat) (v : BitVec 64) : State :=
  { s with w6 := smPut (w6Reset off) s.w6 off v }
/-- A space 0x4 word held by address. -/
def State.w4g (s : State) (off : Nat) : BitVec 64 := smGet (w4Reset off) s.w4 off
/-- Set a space 0x4 word held by address. -/
def State.w4s (s : State) (off : Nat) (v : BitVec 64) : State :=
  { s with w4 := smPut (w4Reset off) s.w4 off v }

/-- Advance a counter word by `n`: COUNT modulo 2^48, OVF sticky in bit 63 (R494, R495). -/
def ctrAdd (w : BitVec 64) (n : Nat) : BitVec 64 :=
  let c := bitsN w.toNat 0 48 + n
  BitVec.ofNat 64 (c % 2 ^ 48 + (if bitN w.toNat 63 ∨ 2 ^ 48 ≤ c then 2 ^ 63 else 0))

/-- Advance a space 0x4 counter: the events of the KCLK of a store to it are discarded (R497). -/
def State.ctr4 (s : State) (off n : Nat) : State :=
  if smGet 0 s.st4 off = s.kclk + 1 then s else s.w4s off (ctrAdd (s.w4g off) n)

/-- Advance a space 0x6 counter. -/
def State.ctr6 (s : State) (off n : Nat) : State := s.w6s off (ctrAdd (s.w6g off) n)

/-- The sitting window of a partition as read by software (R368). -/
def State.ptSit (s : State) (q : Nat) : BitVec 64 := s.w6g (0xA0000 + 8 * q)

/-! ### W1C bits (R20) -/

/-- The numbers under which `hwSet` notes W1C bits: a source of DRV_IRQ_S_STAT or DRV_IRQ_NS_STAT, WARN_SEEN, bit `b` of a PS_STATE,
TBL_ERR of a router, bit 63 of a space 0x6 word. -/
abbrev kIrqS (n : Nat) : Nat := n
/-- A source of DRV_IRQ_NS_STAT. -/
abbrev kIrqNs (n : Nat) : Nat := 32 + n
/-- WARN_SEEN. -/
abbrev kWarn : Nat := 64
/-- Bit `b` of a port's PS_STATE. -/
abbrev kPs (slot b : Nat) : Nat := 0x1000 + 32 * slot + b
/-- TBL_ERR of a router. -/
abbrev kTbl (r : Nat) : Nat := 0x4000 + r
/-- Bit 63 of a space 0x6 word. -/
abbrev kW6 (off : Nat) : Nat := 0x100000 + off

/-- Note that hardware sets a W1C bit in this KCLK. -/
def State.noteSet (s : State) (k : Nat) : State := { s with hwSet := smSet s.hwSet k (s.kclk + 1) }

/-- Hardware has set the W1C bit in this KCLK: a write that clears it in the same KCLK leaves it set (R20). -/
def State.justSet (s : State) (k : Nat) : Bool := decide (smGet 0 s.hwSet k = s.kclk + 1)

/-- The bits among `w` W1C bits numbered from `k` that a write of `v` clears (R19, R20). -/
def State.clears (s : State) (k w : Nat) (v : BitVec 32) : BitVec 32 :=
  (List.range w).foldl (fun m i => if v.getLsbD i && !s.justSet (k + i) then m ||| (1#32 <<< i) else m) 0

/-! ### Interrupts, events, the ledger's staging -/

/-- Set a source of DRV_IRQ_S_STAT (R543). -/
def State.irqS (s : State) (n : Nat) : State :=
  { (s.noteSet (kIrqS n)) with host := { s.host with irqStatS := s.host.irqStatS ||| (1#25 <<< n) } }

/-- Set a source of DRV_IRQ_NS_STAT (R543). -/
def State.irqNs (s : State) (n : Nat) : State :=
  { (s.noteSet (kIrqNs n)) with host := { s.host with irqStatNs := s.host.irqStatNs ||| (1#23 <<< n) } }

/-- Set an EVENTS bit (R390). -/
def State.event (s : State) (n : Nat) : State :=
  { s with ez := { s.ez with events := s.ez.events ||| (1#16 <<< n) } }

/-- Stage an increment of the ledger word at byte offset `off` (R518, R519). -/
def State.stage (s : State) (off n : Nat) : State :=
  { s with ep := { s.ep with staging := smMod 0 s.ep.staging (off / 8) (· + n) } }

/-- The order of two calendar entries of one KCLK (R520): HW 1 first, then ascending CODE. -/
def calBefore (x y : Nat × BitVec 64 × BitVec 64) : Bool :=
  let hw (e : Nat × BitVec 64 × BitVec 64) : Bool := bitN e.2.2.toNat 32
  decide (x.1 < y.1) || (decide (x.1 = y.1) && ((hw x && !hw y) ||
    (hw x == hw y && decide (bitsN x.2.2.toNat 0 32 ≤ bitsN y.2.2.toNat 0 32))))

/-- Note a calendar entry to be written, with the time of the event (R520): HW in bit 32. -/
def State.calendar (s : State) (hw : Bool) (code : Nat) : State :=
  let e := (s.kclk, s.clk.time, BitVec.ofNat 64 (code % 2 ^ 32 + (if hw then 2 ^ 32 else 0)))
  { s with ep := { s.ep with
    cals := s.ep.cals.filter (fun y => calBefore y e) ++ [e] ++ s.ep.cals.filter (fun y => !calBefore y e) } }

/-- Ask for a checkpoint with this CAUSE once slot addresses are known (R522). -/
def State.wantCheck (s : State) (cause : Nat) : State :=
  if s.ep.slots.isSome then { s with ep := { s.ep with trigger := some cause } } else s

/-- Set a sticky fatal error of row `row` of the table in R438 (R439, R520, R522, R536, R543). -/
def State.fatalRow (s : State) (row : Nat) : State :=
  let s := { s with clk := { s.clk with fatalRows := s.clk.fatalRows ||| (1#7 <<< (row - 1)) } }
  if s.clk.fatal then s else
    ((({ s with clk := { s.clk with fatal := true } }.irqS 21).stage 0x80 1).calendar true (0xC0000000 + row)).wantCheck 4

/-- Freeze a panel (R438). -/
def State.freezePanel (s : State) (p : Nat) : State :=
  { s with clk := { s.clk with frozenPanels := s.clk.frozenPanels ||| (1#16 <<< p) } }

/-- Freeze every panel (R438). -/
def State.freezeAllPanels (s : State) : State :=
  { s with clk := { s.clk with frozenPanels := s.clk.frozenPanels ||| BitVec.ofNat 16 (2 ^ s.build.panels - 1) } }

/-- Freeze a router (R438). -/
def State.freezeRouter (s : State) (r : Nat) : State :=
  { s with clk := { s.clk with frozenRouters := r :: s.clk.frozenRouters } }

/-- Panel `p` is frozen (R438). -/
def State.panelFrozen (s : State) (p : Nat) : Bool := s.clk.frozenPanels.getLsbD p

/-! ### Buckets and logged addresses (R415 to R419) -/

/-- Array class of a bucket base, as R518 numbers them. -/
def bkClass (base : Nat) : Nat :=
  if 0x90000 ≤ base ∧ base < 0xA0000 then
    match base % 0x1000 with
    | 0x40 => 0 | 0x60 => 1 | 0x80 => 4 | 0xA0 => 4 | 0xC0 => 5 | 0xE0 => 6 | _ => 5
  else if base = 0xA1040 then 7 else if base = 0xA1060 then 2 else if base = 0xA1080 then 3 else 5

/-- The leak period of a LEAKSH field: below 10 acts as 10, above 40 as 40 (R416). -/
def leakPeriod (sh : Nat) : Nat := 2 ^ max 10 (min 40 sh)

/-- The level that an addition makes of level `lv` of the bucket numbered `key` with LEAKSH `sh`, and whether it counts up: the first
addition of a KCLK in which the bucket leaks and the leak cancel, whichever comes first (R415). -/
def State.bkAdd (s : State) (key sh lv : Nat) : Nat × Bool :=
  let n := smGet (0, 0) s.bkNote key
  if s.kclk % leakPeriod sh = 0 ∧ n ≠ (s.kclk + 1, 2) then (if n = (s.kclk + 1, 0) then lv + 1 else lv, false)
  else (min 255 (lv + 1), true)

/-- Note what became of a bucket's leak in this KCLK. -/
def State.bkMark (s : State) (key v : Nat) : State := { s with bkNote := smSet s.bkNote key (s.kclk + 1, v) }

/-- A corrected or recovered error in the unit at `base` (R415, R518). -/
def State.bucketCe (s : State) (base : Nat) : State :=
  let ctl := (s.w6g base).toNat
  let st := s.w6g (base + 8)
  let a := s.bkAdd base (bitsN ctl 0 6) (bitsN st.toNat 0 8)
  let th := bitsN ctl 16 8
  let ovf := a.2 && decide (a.1 = th ∧ th ≠ 0 ∧ bitsN st.toNat 0 8 < th)
  let s := if a.2 then s else s.bkMark base 2
  let s := s.w6s (base + 8) (BitVec.ofNat 64 (a.1 + (if ovf || bitN st.toNat 63 then 2 ^ 63 else 0)))
  let s := (s.ctr6 (base + 0x10) 1).stage (0x100 + 0x10 * bkClass base) 1
  if ovf then (s.noteSet (kW6 (base + 8))).irqS 16 else s

/-- An uncorrectable error in the unit at `base` (R415, R518). -/
def State.bucketUe (s : State) (base : Nat) : State :=
  (s.ctr6 (base + 0x18) 1).stage (0x108 + 0x10 * bkClass base) 1

/-- What a check of the unit at `base` found. -/
def State.bucket (s : State) (base : Nat) : Ecc → State
  | .ok => s
  | .ce => s.bucketCe base
  | .ue => s.bucketUe base

/-- Write a new entry into a log, whose VALID is a W1C bit (R20, R419, R517). -/
def State.logNew (s : State) (off : Nat) (v : BitVec 64) : State := (s.noteSet (kW6 off)).w6s off v

/-- Record an error in a logged-address table at `base` (R418, R419): array code, index, uncorrectable. -/
def State.elog (s : State) (base dropOff array index : Nat) (ue : Bool) : State :=
  let w (i : Nat) := (s.w6g (base + 8 * i)).toNat
  let ids := List.range 16
  match ids.find? fun i => bitN (w i) 63 ∧ bitsN (w i) 60 2 = array ∧ bitsN (w i) 0 19 = index with
  | some i =>
    let r := min 15 (bitsN (w i) 56 4 + 1)
    let v := (w i) - (bitsN (w i) 56 4) * 2 ^ 56 + r * 2 ^ 56
    s.w6s (base + 8 * i) (BitVec.ofNat 64 (v ||| (if ue then 2 ^ 62 else 0)))
  | none =>
    let new := 2 ^ 63 + (if ue then 2 ^ 62 else 0) + array * 2 ^ 60 + 2 ^ 56 +
      bitsN s.clk.cyc 10 32 * 2 ^ 24 + index % 2 ^ 19
    match ids.find? fun i => ¬ bitN (w i) 63 with
    | some i => s.logNew (base + 8 * i) (BitVec.ofNat 64 new)
    | none =>
      let cs := ids.filter fun i => ¬ bitN (w i) 62
      match cs.find? fun i => cs.all fun j => bitsN (w i) 56 4 ≤ bitsN (w j) 56 4 with
      | some i => s.logNew (base + 8 * i) (BitVec.ofNat 64 new)
      | none => s.ctr6 dropOff 1

/-- Record an error in panel `p`'s logged-address table. -/
def State.pnElog (s : State) (p array index : Nat) (ue : Bool) : State :=
  s.elog (pnBase p + 0x600) (pnBase p + 0x680) array index ue

/-- Record an error in the Easel block's logged-address table. -/
def State.ezElog (s : State) (array index : Nat) (ue : Bool) : State :=
  s.elog 0xA1100 0xA1180 array index ue

/-! ### Violations (R395, R396) -/

/-- A violation of a ring: kind under EZ_VLAST (R368, R396). -/
def State.violate (s : State) (ring kind : Nat) : State :=
  let pc := (s.ctx ring).pc.toNat + (if (s.ctx ring).inrep then 4 else 0)
  let s := s.modCtx ring fun c => { c with viol := true }
  ((s.ctr6 0xA1008 1).w6s 0xA1010
    (BitVec.ofNat 64 (ring * 2 ^ 60 + kind * 2 ^ 48 + pc % 2 ^ 32))).irqS 24

/-! ### Queues and credits (R39, R40, R185, R186) -/

/-- The number of a place. -/
def locId : Loc → Nat
  | .leafUp s => s | .leafDown q => 256 + q | .branchUp q => 288 + q | .branchDown b => 320 + b
  | .rootUp b => 328 + b | .rootPanel p => 336 + p | .rootEasel => 352 | .rootRestorer => 353
  | .panelIn p => 354 + p | .panelOut p => 370 + p | .portDown s => 400 + s | .synth r => 700 + r

/-- The key of a queue: a place and a class, where keys from 8 up are bounded REQ lanes (R206). -/
def locKey (l : Loc) (c : Nat) : Nat := locId l * 32 + c

/-- A queue of a place. -/
def State.q (s : State) (l : Loc) (c : Nat) : List Packet := smGet [] s.net.qs (locKey l c)

/-- Replace a queue of a place. -/
def State.setQ (s : State) (l : Loc) (c : Nat) (x : List Packet) : State :=
  { s with net := { s.net with qs := smPut [] s.net.qs (locKey l c) x } }

/-- Append a packet to a queue. -/
def State.push (s : State) (l : Loc) (c : Nat) (x : Packet) : State :=
  s.setQ l c (s.q l c ++ [{ x with capt := s.clk.cyc, skips := [] }])

/-- Whole-packet buffers of a place for a class key (R40, R206). -/
def locCap (bounded : Bool) (l : Loc) (c : Nat) : Nat :=
  let row (r : List Nat) : Nat := r.getD c 0
  match l with
  | .leafUp _ => row [8, 4, 8, 16, 4, 2]
  | .portDown _ => row [8, 4, 8, 16, 4, 2]
  | .branchUp _ => if c = 8 then (if bounded then 4 else 0) else
      row [if bounded then 12 else 16, 8, 16, 32, 8, 2]
  | .rootUp _ => if 8 ≤ c then (if bounded then 1 else 0) else
      row [if bounded then 16 else 32, 16, 32, 64, 16, 4]
  | .panelIn _ => if c = 8 then (if bounded then 16 else 0) else
      row [if bounded then 48 else 64, 32, 0, 64, 32, 4]
  | .leafDown _ => row [16, 0, 32, 32, 16, 2]
  | .branchDown _ => row [32, 0, 64, 64, 32, 4]
  | .rootPanel _ => row [0, 0, 32, 64, 32, 4]
  | .rootEasel => row [4, 0, 0, 0, 0, 4]
  | .rootRestorer => row [4, 0, 0, 0, 0, 4]
  | .panelOut _ => 0
  | .synth _ => 0

/-- Credits freed at a place and not yet returned (R186). -/
def State.owed (s : State) (l : Loc) (c : Nat) : Nat := smGet 0 s.net.owed (locKey l c)

/-- The sender holds a credit for this place and class key: buffers, less the packets in them, less the credits
freed but not yet returned (R186). -/
def State.hasCredit (s : State) (l : Loc) (c : Nat) : Bool :=
  decide ((s.q l c).length + s.owed l c < locCap s.bounded l c)

/-- Free one buffer: its credit is owed to the sender. -/
def State.owe (s : State) (l : Loc) (c : Nat) : State :=
  { s with net := { s.net with owed := smPut 0 s.net.owed (locKey l c) (s.owed l c + 1) } }

/-! ### Ports -/

/-- The port whose agent ID is `a`, in ADMITTED, ECLIPSED or DEAD (R386). -/
def State.slotOfAgent (s : State) (a : Nat) : Option Nat :=
  (List.range 256).find? fun n =>
    (s.port n).agent = a ∧ ((s.port n).lstate = .admitted ∨ (s.port n).lstate = .eclipsed ∨ (s.port n).lstate = .dead)

/-- The port of agent `a`; a default port when no slot holds it. -/
def State.portOf (s : State) (a : Nat) : Port := ((s.slotOfAgent a).map s.port).getD {}

/-- Feature bits of a settled mode (R284): owned state, dirty hints, sweep, poison, translation services. -/
def State.feat (s : State) (a i : Nat) : Bool := bitN (s.portOf a).mode.feats i

/-- Settled owned-state support. -/
def State.own (s : State) (a : Nat) : Bool := s.feat a 0
/-- Settled dirty hints. -/
def State.dh (s : State) (a : Nat) : Bool := s.feat a 1

/-- The agents whose ports are admitted as caching and satisfy `f` (R23). -/
def State.caching (s : State) (f : Port → Bool) : Vec :=
  (s.ports.filter fun e => e.2.lstate = .admitted ∧ e.2.mode.kind = 1 ∧ f e.2).foldl
    (fun v e => v ||| vbit e.2.agent) 0

/-- The link record STATE (R284). -/
def lsCode : LState → Nat
  | .down => 0 | .introduce => 1 | .ready => 2 | .admitted => 3 | .eclipsed => 4 | .dead => 5

/-- Send STATE on a change of link state (R290). -/
def State.sendState (s : State) (slot : Nat) : State :=
  s.out (.link slot (linkWords [BitVec.ofNat 32 (0x84000000 + lsCode (s.port slot).lstate)]))

/-- A synthesised acknowledgement of a router or fence (R193, R303, R445): class of the snoop, one agent. -/
def synthAck (x : Hdr) (cls agent marks notHeld : Nat) : Hdr :=
  { cls := cls, opc := if cls = cMGT then 32 + oSnpAck else oSnpAck, prio := x.prio, epoch := x.epoch, src := agent,
    dst := nPanel0 + x.htc / 1024, tag := 1, htc := x.htc, addr := x.addr, world := x.world, part := x.part,
    marks := marks, size := notHeld }

/-- Count `n` packets stamped or synthesised with epoch `e` at a router (R216). -/
def State.addInj (s : State) (r e : Nat) (n : BitVec 32) : State :=
  s.modRouter r fun x => { x with inj := x.inj.set e (x.inj.getD e 0 + n) }

/-- Count `n` packets of epoch `e` leaving a router for good, or combined away there (R216). -/
def State.addEj (s : State) (r e : Nat) (n : BitVec 32) : State :=
  s.modRouter r fun x => { x with ej := x.ej.set e (x.ej.getD e 0 + n) }

/-- Inject a synthesised packet at a router; `own`: it answers an owner snoop, and no router combines it (R89); `who`: the
agents it answers for. It waits at a place of the router's own, of no bounded size, as one more input of its arbiters: R40 lists
no buffer for it (DESIGN CHOICE, log entry 61). -/
def State.inject (s : State) (r : Nat) (h : Hdr) (own : Bool := false) (who : Vec := vbit h.src) : State :=
  let c := if h.cls = cSNP then cRSP else h.cls
  (s.push (.synth r) c { hdr := { h with cls := c }, vec := who, aux := b2n own }).addInj r h.epoch 1

/-- A TIvDone that a fence answers for a downward TIv (R303, R445). -/
def tivDone (agent tag epoch : Nat) (world part : Nat) : Hdr :=
  { cls := cRSP, opc := oTIvDone, src := agent, dst := nEasel, tag := tag, epoch := epoch, world := world, part := part }

/-- An ECLIPSE of what W0[8:0] names, a port or with bit 8 a branch, ends with status `st` in the HCLK in which that leaves its fence, and
no later operation comes between (R387, R389, R472). -/
def State.eclipseEnds (s : State) (unit st : Nat) : State :=
  { s with ez := { s.ez with ops := s.ez.ops.map fun o =>
    if o.opc = 0x2D ∧ o.started ∧ o.status.isNone ∧ (o.words.getD 0 0).toNat % 512 = unit then { o with status := some st } else o } }

/-- The home HTCs, panel × 1,024 + HTC, whose lines to their requesters a port still holds in its upward queues (R85, R92). -/
def State.heldFwds (s : State) (slot : Nat) : List Nat :=
  let own (h : Hdr) : Bool := decide (h.cls = cDAT) && decide (h.opc = oDataFwd) && decide (h.marks ≠ 8)
  (((s.q (.leafUp slot) cDAT).map (·.hdr) ++ ((s.port slot).upq.filter fun f => f.chan = cDAT).map fun f => Hdr.ofFlit f.hdr).filter own).map (·.htc)

/-- A list of HTC fields as a death marker carries them, 16 bits each, one more than the number. -/
def packHtcs (l : List Nat) : BitVec 256 := BitVec.ofNat 256 (l.foldr (fun h a => a * 2 ^ 16 + (h + 1)) 0)

/-- The HTCs of panel `p` in such a list. -/
def unpackHtcs (d : BitVec 256) (p : Nat) : List Nat :=
  (List.range 16).filterMap fun j =>
    let v := bitsN d.toNat (16 * j) 16
    if v ≠ 0 ∧ (v - 1) / 1024 = p then some ((v - 1) % 1024) else none

/-- The entry of a port to DEAD (R290, R292, R389, R390, R444, R445, R465): cause under R444. The pending snoops the agent
owed are answered, its upward packets are discarded, and a death marker follows to every panel. The marker names the HTCs of the lines
that are discarded on their way to a requester, whose home then has R131's Lost outcome (DESIGN CHOICE, log entry 54). -/
def State.portDead (s : State) (slot cause : Nat) : State :=
  let x := s.port slot
  let cut := packHtcs (s.heldFwds slot)
  let q := s.build.leafOf slot
  let ep := (s.router q).epoch
  let s := s.setPort slot { x with
    lstate := .dead, fencing := false, eclOp := false, cause := cause, held := x.shold, psnp := [], reqs := [], upq := [],
    prio := x.prioPend.getD x.prio, prioPend := none, rstSince := x.rst || decide (cause = 4), reclaimed := false, upFreed := [0, 0, 0, 0, 0, 0] }
  let s := (List.range 6).foldl (fun s c => s.setQ (.portDown slot) c []) s
  let s := [cREQ, cWBK, cRSP, cDAT, cMGT].foldl (fun s c =>
    (s.q (.leafUp slot) c).foldl (fun s y => s.addEj q y.hdr.epoch 1) s |>.setQ (.leafUp slot) c []) s
  let s := x.psnp.foldl (fun s e =>
    if e.tiv then s.inject q (tivDone x.agent e.htc ep e.world e.part)
    else s.inject q (synthAck { htc := e.htc, world := e.world, part := e.part, prio := e.prio, epoch := ep, addr := e.addr }
      (if e.mgt then cMGT else cRSP) x.agent (if e.owner then (if e.fwd then 5 else 1) else 0) (if e.owner then 0 else 1))
      e.owner) s
  let s := (List.range s.build.panels).foldl (fun s p =>
    s.push (.synth q) cWBK { hdr := { cls := cWBK, opc := 63, src := x.agent, epoch := ep }, desc := cut, home := p, aux := x.agent }) s
  ((((s.eclipseEnds slot 5).event 0).irqS 19).stage 0x60 1).sendState slot

/-- A header fault of a port (R272). -/
def State.headerFault (s : State) (slot cause : Nat) : State :=
  let s := (s.noteSet (kPs slot 17)).modPort slot fun x => { x with hdrFault := true }
  if (s.port slot).lstate = .admitted then s.portDead slot cause else s

/-- A protocol error counted against a port (R440, R441). -/
def State.protoErr (s : State) (slot kind cls opc : Nat) : State :=
  let x := s.port slot
  let a := s.bkAdd slot (bitsN x.pebk.toNat 0 6) x.peLevel
  let th := bitsN x.pebk.toNat 16 8
  let s := (if a.2 then s else s.bkMark slot 2).setPort slot { x with
    protoErr := ctrAdd x.protoErr 1, peLevel := a.1,
    peLast := BitVec.ofNat 64 (cls % 8 * 2 ^ 24 + kind * 2 ^ 8 + opc % 64) }
  if a.2 ∧ a.1 = th ∧ th ≠ 0 then s.headerFault slot 2 else s

/-- A protocol error counted against the port of an agent. -/
def State.protoErrAgent (s : State) (a kind cls opc : Nat) : State :=
  match s.slotOfAgent a with
  | some n => s.protoErr n kind cls opc
  | none => s

/-- SNPDL as it stands in HCLK `cyc`: a write takes effect in the HCLK after it (R443). -/
def Router.snpdlAt (x : Router) (cyc : Nat) : BitVec 20 :=
  match x.snpOld with
  | some (c, v) => if c = cyc then v else x.snpdl
  | none => x.snpdl

/-! ### Slot tables and trace -/

/-- A slot-table entry word: VALID and owner (R208). -/
def slotOwner (w : BitVec 64) : Option Nat := if bitN w.toNat 8 then some (bitsN w.toNat 0 8) else none

/-- A trace record is produced (R512, R513): it enters the buffer at the end of this HCLK, in the place that `place` gives it among
the records of the HCLK. -/
def State.traceRec (s : State) (place : Nat) (ws : List (BitVec 64)) : State :=
  if ¬ s.build.trace then s
  else { s with tr := { s.tr with
    now := s.tr.now.filter (fun e => e.1 ≤ place) ++ [(place, ws)] ++ s.tr.now.filter fun e => ¬ e.1 ≤ place } }

/-- A record enters the trace buffer (R513): only whole, behind the drop marker that is owed; while the trace
crossing is out of service it is dropped (R488). -/
def State.traceEnter (s : State) (ws : List (BitVec 64)) : State :=
  let mark : List (Bool × Bool × BitVec 64) :=
    if s.tr.owed = 0 then [] else [(true, true, BitVec.ofNat 64 (0xF * 2 ^ 60 + min s.tr.owed (2 ^ 32 - 1)))]
  let recs := ws.zipIdx.map fun e => (decide (e.2 = 0), decide (e.2 + 1 = ws.length), e.1)
  if s.tr.words.length + mark.length + recs.length ≤ 128 ∧ s.clk.tpSvc then
    { s with tr := { s.tr with words := s.tr.words ++ mark ++ recs, owed := 0 } }
  else ({ s with tr := { s.tr with owed := s.tr.owed + 1 } }).ctr4 0x6008 1

/-- The records of an HCLK enter the trace buffer in their order (R513). -/
def State.traceFlush (s : State) : State :=
  s.tr.now.foldl (fun s e => s.traceEnter e.2) { s with tr := { s.tr with now := [] } }

/-- The event select at `off` as it acts in this KCLK: a store takes effect from the next one (R502). -/
def State.evSel (s : State) (off : Nat) : BitVec 64 :=
  match smFind s.evOld off with
  | some (k, v) => if k = s.kclk + 1 then v else s.w4g off
  | none => s.w4g off

/-- Debug observation of a world is enabled (R463). -/
def State.dbgOn (s : State) (world : Nat) : Bool := if world = 0 then s.clk.dbgS else s.clk.dbgNs

/-- Count a panel event on the programmable counters (R502, R503, R463): `w` is the world and partition of the
message that caused it, when it carries them. -/
def State.pnEvent (s : State) (p code n : Nat) (w : Option (Nat × Nat)) : State :=
  (List.range 8).foldl (fun s i =>
    let sel := (s.evSel (0x100 * p + 0x40 + 8 * i)).toNat
    let ok := bitN sel 31 && decide (bitsN sel 0 8 = code) &&
      match w with
      | some (wo, pa) => (!bitN sel 20 || decide (bitsN sel 19 1 = wo)) && (!bitN sel 16 || decide (bitsN sel 8 6 = pa)) &&
          s.dbgOn wo
      | none => !bitN sel 20 && !bitN sel 16
    if ok then s.ctr4 (0x100 * p + 0x80 + 8 * i) n else s) s

end Sys2Proof.Machine
end

