-- ==== Sys2Proof/Machine/AddressMap.lean ====
section
/-! DEFINITION. The region map, the panel hash and the choice of a memory port (R52, R53, R306 to R313, R398). -/

namespace Sys2Proof.Machine

/-- The fold pattern HASH_KEYj holds at reset (R310). -/
def hashReset (p j : Nat) : BitVec 64 :=
  let pat (n : Nat) : Nat := (List.range n).foldl (fun a i => if i % p = j then a + 2 ^ i else a) 0
  if j < p then BitVec.ofNat 64 (pat 15 + pat 30 * 2 ^ 32) else 0

/-- The codeword of a region-map word before anything writes it: words 0 to 31 are RG_BASEn and RG_ATTRn, 32 + j is
HASH_KEYj (R306, R407). -/
def rgnReset (p i : Nat) : BitVec 80 := if i < 32 then encW 0 else encW (hashReset p (i - 32))

/-- The stored codeword of region-map word `i`. -/
def State.rgnRaw (s : State) (i : Nat) : BitVec 80 := smGet (rgnReset s.build.p i) s.rgn i

/-- The data bits of region-map word `i`, corrected. -/
def State.rgnWord (s : State) (i : Nat) : Nat := (decW (s.rgnRaw i)).data

/-- Store region-map word `i`. -/
def State.setRgn (s : State) (i : Nat) (v : BitVec 64) : State :=
  { s with rgn := smPut (rgnReset s.build.p i) s.rgn i (encW v) }

/-- The fields of region `n` and its VALID bit. -/
def State.regionFields (s : State) (n : Nat) : Bool × Attr :=
  let b := s.rgnWord (2 * n)
  let a := s.rgnWord (2 * n + 1)
  (bitN b 63,
    { idx := n, base := bitsN b 16 36 * 65536, size := bitsN a 48 6, kind := bitsN a 0 2, home := bitsN a 32 4,
      ports := bitsN a 16 8, gran := bitsN a 12 2, code := bitN a 10, nospec := bitN a 9, world := bitsN a 8 1 })

/-- The conditions of R307 on one region by itself. -/
def regionBad (b : Build) (r : Attr) : Bool :=
  decide (r.size < 16) || decide (52 < r.size) || decide (r.base % 2 ^ r.size ≠ 0) || decide (r.kind = 3) ||
  decide (onesN 8 r.ports ∉ [1, 2, 4, 8]) || decide (2 ^ b.memPorts ≤ r.ports) ||
  (decide (r.kind = 2) && (decide (onesN 8 r.ports ≠ 1) || decide (r.ports &&& (255 - b.devMask.toNat) ≠ 0) ||
    decide (b.panels ≤ r.home))) ||
  (decide (r.kind ≠ 2) && decide (r.ports &&& b.devMask.toNat ≠ 0))

/-- Two blocks overlap. -/
def overlap (x y : Attr) : Bool := decide (x.base < y.base + 2 ^ y.size) && decide (y.base < x.base + 2 ^ x.size)

/-- The regions with VALID 1 that meet R307 by themselves. -/
def State.soundRegions (s : State) : List Attr :=
  (List.range 16).filterMap fun n =>
    let f := s.regionFields n
    if f.1 && !regionBad s.build f.2 then some f.2 else none

/-- The regions in force (R307): overlapping ones knock each other out. -/
def State.inForce (s : State) : List Attr :=
  let rs := s.soundRegions
  rs.filter fun x => rs.all fun y => y.idx = x.idx || !overlap x y

/-- BAD of region `n` (R307). -/
def State.bad (s : State) (n : Nat) : Bool :=
  (s.regionFields n).1 && !(s.inForce.any fun r => r.idx = n)

/-- A region's block holds a byte address. -/
def Attr.holds (r : Attr) (pa : Nat) : Bool := decide (r.base ≤ pa) && decide (pa < r.base + 2 ^ r.size)

/-- Decode an address in a list of regions (R308). -/
def decodeIn (rs : List Attr) (pa : Nat) : Option Attr := rs.find? fun r => r.holds pa

/-- Decode an address from the registers (R308). -/
def State.decode (s : State) (pa : Nat) : Option Attr := decodeIn s.inForce pa

/-- The memory port that serves a byte address of a region (R313). -/
def Attr.port (r : Attr) (pa : Nat) : Nat :=
  let set := (List.range 8).filter fun m => r.ports.testBit m
  let g := [256, 4096, 65536, 2097152].getD r.gran 256
  set.getD ((pa / g) % (max 1 set.length)) 0

/-- Where a line lives: panel, set, tag (R52, R311). -/
structure Home where
  panel : Nat
  set : Nat
  tag : Nat
deriving DecidableEq, Repr

/-- The panel hash (R311). -/
def State.hash (s : State) (line : Nat) : Home :=
  let b := s.build
  let q := b.panels * b.sets
  let tag := line / q
  let rem := line % q
  let set := rem / b.panels
  let low := rem % b.panels
  let fold (j : Nat) : Nat :=
    let k := s.rgnWord (32 + j)
    (onesN 15 (set &&& bitsN k 0 15) + onesN 30 (tag &&& bitsN k 32 30)) % 2
  { panel := low ^^^ (List.range b.p).foldl (fun a j => a + fold j * 2 ^ j) 0, set := set, tag := tag }

/-- The line of a tag and set at a panel: the inverse of the hash (R311). -/
def State.unhash (s : State) (p set tag : Nat) : Nat :=
  let b := s.build
  let base := tag * (b.panels * b.sets) + set * b.panels
  base + (p ^^^ (s.hash base).panel)

/-- The coherent span (R53). -/
def Build.inSpan (b : Build) (line : Nat) : Bool := decide (line < 2 ^ 27 * (b.panels * b.sets))

/-- The wait-queue bucket of a line (R157). -/
def State.bucketOf (s : State) (line : Nat) : Nat :=
  let h := s.hash line
  (h.set ^^^ (h.tag % 4096)) % 4096

/-- The home panel a leaf decodes from its copy (R182). -/
def State.leafHome (s : State) (q line : Nat) : Nat :=
  match decodeIn (s.router q).copy (line * 64) with
  | some r => if r.kind = 2 then r.home else (s.hash line).panel
  | none => (s.hash line).panel

/-- Refresh the home-decode copies of the leaves `qs` from the registers (R182). -/
def State.refreshLeaves (s : State) (qs : List Nat) : State :=
  qs.foldl (fun s q => s.modRouter q fun x => { x with copy := s.inForce }) s

/-- After a region-map write: before PROFILE every leaf's copy follows, and the first region in force ends the boot
decode of R398 (R182). -/
def State.rgnWritten (s : State) : State :=
  let s := if s.host.prof = 0 then s.refreshLeaves (List.range s.build.leafN) else s
  if s.inForce.isEmpty then s else { s with ez := { s.ez with everRegion := true } }

/-- How the Easel, the Restorer and the Ephemeris writer reach memory at a byte address: the port and CODE, or
nothing where the address is undecoded (R309, R398). -/
def State.mgmtDecode (s : State) (easel : Bool) (pa : Nat) : Option (Nat × Bool) :=
  if easel ∧ ¬ s.ez.everRegion then some (s.host.bootPort.toNat, false)
  else (s.decode pa).map fun r => (r.port pa, r.code)

end Sys2Proof.Machine
end

