-- ==== Sys2Proof/Machine/Directory.lean ====
section
/-! DEFINITION. The arrays of a panel as a panel step works on them: the step's context and its effects on the rest of
the block, directory ways, Palette slots, the region lookaside, and what the panel sends and writes (R47 to R72,
R256, R329 to R334, R407, R414, R432). -/

namespace Sys2Proof.Machine

/-! ### A panel step: a private copy of the panel and a list of effects on the rest of the block -/

/-- What a panel step does outside its panel. -/
inductive Eff
  /-- A protocol error counted against an agent's port (R440). -/
  | proto (agent kind cls opc : Nat)
  /-- A corrected or uncorrectable error in the unit at a bucket base (R415). -/
  | bucket (base : Nat) (e : Ecc)
  /-- An entry of the panel's logged-address table (R418). -/
  | elog (array index : Nat) (ue : Bool)
  /-- Add to a space 0x4 counter of the panel's block (R500). -/
  | ctr (off n : Nat)
  /-- Add to a space 0x6 counter. -/
  | ctr6 (off n : Nat)
  /-- A panel event (R502). -/
  | event (code n : Nat) (w : Option (Nat × Nat))
  /-- A fatal error of a row of R438, freezing this panel or every panel. -/
  | fatal (row : Nat) (freezeThis freezeAll : Bool)
  /-- A trace record of the panel: a deadline miss, which enters ahead of comet tails, or a tail (R513). -/
  | trace (miss : Bool) (ws : List (BitVec 64))
  /-- A ledger increment (R519). -/
  | stage (off n : Nat)
  /-- A calendar entry of the block (R520). -/
  | cal (code : Nat)
  /-- An EVENTS bit and an interrupt source (R390, R543). -/
  | signal (event irq : Option Nat)
  /-- A port declared dead (R292). -/
  | expel (slot cause : Nat)
  /-- A corrected region-map word written back (R414). -/
  | rgn (i : Nat) (v : BitVec 64)
  /-- A region-map error logged in the Easel block (R418). -/
  | ezlog (array index : Nat) (ue : Bool)
  /-- The comet LFSR of the panel takes a value (R506). -/
  | lfsr (v : BitVec 32)
  /-- The operation numbered `op` ends with a status (R384). -/
  | opDone (op st : Nat)
  /-- The Easel asks the panel for more (R384). -/
  | ask (qs : List MReq)
deriving DecidableEq, Repr

/-- Carry out one effect. -/
def applyEff (p : Nat) (s : State) : Eff → State
  | .proto a k c o => s.protoErrAgent a k c o
  | .bucket b e => s.bucket b e
  | .elog a i ue => s.pnElog p a i ue
  | .ctr off n => s.ctr4 (0x100 * p + off) n
  | .ctr6 off n => s.ctr6 off n
  | .event c n w => s.pnEvent p c n w
  | .fatal r t a =>
    let s := s.fatalRow r
    let s := if t then s.freezePanel p else s
    if a then s.freezeAllPanels else s
  | .trace miss ws => s.traceRec (if miss then 1 + 2 * p else 2 + 2 * p) ws
  | .stage off n => s.stage off n
  | .cal c => s.calendar true c
  | .signal e i =>
    let s := match e with | some n => s.event n | none => s
    match i with | some n => s.irqS n | none => s
  | .expel slot cause => if (s.port slot).lstate = .admitted then s.portDead slot cause else s
  | .rgn i v => s.setRgn i v
  | .ezlog a i ue => s.ezElog a i ue
  | .lfsr v => s.w4s (0x100 * p + 0x10) (v.setWidth 64)
  | .opDone op st =>
    { s with ez := { s.ez with ops := s.ez.ops.map fun o => if o.mark = op then { o with status := some st } else o } }
  | .ask qs => { s with ez := { s.ez with asks := s.ez.asks ++ qs.map fun q => (p, q) } }

/-- The context of a panel step: the state before it, the panel as it stands, the array disturbances of the step,
and the effects so far. -/
structure PX where
  s : State
  p : Nat
  pn : Panel
  u : Upset := {}
  effs : List Eff := []

/-- Begin a step of panel `p`. -/
def State.px (s : State) (p : Nat) (u : Upset) : PX := { s := s, p := p, pn := s.panel p, u := u }

/-- End a step of panel `p`: the panel is put back and the effects are carried out. -/
def State.commitPx (s : State) (p : Nat) (x : PX) : State :=
  x.effs.foldl (applyEff p) { s with panels := smSet s.panels p x.pn }

/-- Add an effect. -/
def PX.eff (x : PX) (e : Eff) : PX := { x with effs := x.effs ++ [e] }

/-- Change the panel. -/
def PX.mod (x : PX) (f : Panel → Panel) : PX := { x with pn := f x.pn }

/-- World and partition of a message, for events and filters (R503). -/
def wpOf (k : Packet) : Option (Nat × Nat) := some (k.hdr.world, k.hdr.part)

/-! ### HTCs of the panel -/

/-- An HTC. -/
def PX.htc? (x : PX) (i : Nat) : Option Htc := smFind x.pn.htcs i

/-- Store an HTC. -/
def PX.setHtc (x : PX) (i : Nat) (h : Htc) : PX := x.mod fun n => { n with htcs := smSet n.htcs i h }

/-- Free an HTC. -/
def PX.dropHtc (x : PX) (i : Nat) : PX := x.mod fun n => { n with htcs := smErase n.htcs i }

/-- Jobs whose HTC is an HTC of a line; the others stand outside every wait queue. -/
def Job.ofLine : Job → Bool
  | .req | .wbk | .mRecall | .mInv | .scan => true
  | .ebar | .tiv | .tsy | .sweep | .hold => false

/-- The HTC `h` keeps line `l` busy (R43, R124): its own, that of its victim under recall, that of the victim it has chosen (R161). -/
def Htc.onLine (h : Htc) (l : Nat) : Bool :=
  (h.job.ofLine && decide (h.line = l)) || (match h.vict with | some v => decide (v.line = l) | none => false) ||
    (match h.pick with | some v => decide (v.line = l) | none => false)

/-- The line is busy under some HTC that holds it, waiting ones included. -/
def PX.lineBusy (x : PX) (l : Nat) : Bool := x.pn.htcs.any fun e => e.2.onLine l

/-- The line is busy under an HTC other than `i`. -/
def PX.busyFor (x : PX) (i l : Nat) : Bool := x.pn.htcs.any fun e => e.1 ≠ i && e.2.onLine l

/-- The head HTC of a line: the one not QUEUED that holds it (R158); a writeback HTC in its 8 HCLK of R160 only where no other does. -/
def PX.headOf (x : PX) (l : Nat) : Option (Nat × Htc) :=
  let at' (e : Nat × Htc) : Bool := e.2.onLine l && decide (e.2.phase ≠ .queued)
  (x.pn.htcs.find? fun e => at' e && decide (e.2.job ≠ .wbk)).or (x.pn.htcs.find? at')

/-- Another data-buffer line of the panel's 256 can be reserved (R28, R189). -/
def PX.bufFree (x : PX) : Bool := decide ((x.pn.htcs.map fun e => e.2.bufs).sum < 256)

/-- HTCs in use from a pool (R153): 0 general, 1 writeback, 2 management, 3 bounded reserve. -/
def PX.poolUse (x : PX) (k : Nat) : Nat := (x.pn.htcs.filter fun e => e.2.pool = k).length

/-- A free HTC number of a pool's share: 0 to 895 general, 896 to 991 writeback, 992 to 1,023 management. -/
def PX.freeHtc (x : PX) (pool : Nat) : Option Nat :=
  match pool with
  | 1 => smFree x.pn.htcs 896 992
  | 2 => smFree x.pn.htcs 992 1024
  | _ => smFree x.pn.htcs 0 896

/-- The HTC field of messages of HTC `i` (R75). -/
def PX.htcField (x : PX) (i : Nat) : Nat := x.p * 1024 + i

/-! ### What the panel sends -/

/-- Put a packet into the panel output register (R40). -/
def PX.send (x : PX) (k : Packet) : PX :=
  x.mod fun n => { n with outq := n.outq ++ [{ k with capt := x.s.clk.cyc }] }

/-- A response header to the agent of a request (R76). -/
def PX.rspHdr (x : PX) (i : Nat) (h : Hdr) (cls opc : Nat) : Hdr :=
  { cls := cls, opc := opc, prio := h.prio, src := nPanel0 + x.p, dst := h.src, tag := h.tag, htc := x.htcField i,
    addr := h.addr, world := h.world, part := h.part }

/-- Send a response without data; the HTC field is zero but for Comp messages (R76). -/
def PX.sendRsp (x : PX) (i : Nat) (h : Hdr) (opc size err : Nat) : PX :=
  let r := x.rspHdr i h cRSP opc
  let comp := decide (3 ≤ opc) && decide (opc ≤ 6)
  x.send { hdr := { r with size := size, err := err, htc := if comp then r.htc else 0 } }

/-- What the check of the data buffer's word found, when the data of a step come from it (R407, R417). -/
def PX.bufCheck (x : PX) (buf : Bool) : Ecc := if buf then x.u.dat else .ok

/-- Count a finding in the data buffer (R417). -/
def PX.bufCount (x : PX) (buf : Bool) : PX :=
  if x.bufCheck buf = .ok then x else x.eff (.bucket (pnBase x.p + 0x80) x.u.dat)

/-- Send a data message to the requester (R85); without `buf` the data come from the proxy buffer, or are zero. -/
def PX.sendData (x : PX) (i : Nat) (h : Hdr) (opc : Nat) (b : Buf) (buf : Bool := true) : PX :=
  let poison := b.poison || decide (x.bufCheck buf = .ue)
  let x := x.bufCount buf
  x.send { hdr := { x.rspHdr i h cDAT opc with size := 6, poison := poison, err := b.err }, data := b.data }

/-- The bytes a RdO of less than a line asks for, every other byte zero (R266). -/
def rdoData (h : Hdr) (l : BitVec 512) : BitVec 512 :=
  if h.size < 6 then l &&& byteSpan (h.htc % 64) (2 ^ h.size) else l

/-! ### Region lookaside and lost-line table -/

/-- A region-map word read to fill a lookaside entry: corrected words are written back, an uncorrectable word is
fatal to every panel (R407, R414, R438). -/
def PX.readRgn (x : PX) (i : Nat) : PX :=
  let m := ((x.u.rgn.find? fun e => e.1 = i).map (·.2)).getD 0
  match decW (x.s.rgnRaw i ^^^ m) with
  | .ok _ => x
  | .ce d => ((x.eff (.bucket 0xA1060 .ce)).eff (.ezlog (if i < 32 then 0 else 1) i false)).eff
      (.rgn i (BitVec.ofNat 64 d))
  | .ue _ => (((x.eff (.bucket 0xA1060 .ue)).eff (.ezlog (if i < 32 then 0 else 1) i true)).eff
      (.cal (0xB0000000 + 2 * 2 ^ 24 + x.p * 2 ^ 16 + i))).eff (.fatal 7 false true)

/-- Decode an address through the panel's lookaside of 8 entries, most recently used first (R256); an entry that
fails parity, which is found once in a step, is discarded and refilled (R407). -/
def PX.lookup (x : PX) (pa : Nat) : PX × Option Attr :=
  let x := if x.u.look ∧ (decodeIn x.pn.look pa).isSome then
      { ((x.mod fun n => { n with look := n.look.filter fun r => !r.holds pa }).eff (.bucket (pnBase x.p + 0x100) .ce)) with
        u := { x.u with look := false } }
    else x
  match decodeIn x.pn.look pa with
  | some r => (x.mod fun n => { n with look := r :: n.look.filter fun y => y.idx ≠ r.idx || y != r }, some r)
  | none =>
    match x.s.decode pa with
    | some r =>
      let x := (x.readRgn (2 * r.idx)).readRgn (2 * r.idx + 1)
      (x.mod fun n => { n with look := (r :: n.look).take 8 }, some r)
    | none => (x, none)

/-- The line is in the lost-line table (R332). -/
def PX.lostLine (x : PX) (l : Nat) : Bool := x.pn.llt.any fun e => e.2 = l

/-- Enter a line into the lost-line table (R331, R334). -/
def PX.addLost (x : PX) (l : Nat) (w : Option (Nat × Nat)) : PX :=
  if x.lostLine l then x else
    match smFree x.pn.llt 0 256 with
    | some i => (x.eff (.event 0x12 1 w)).mod fun n => { n with llt := smSet n.llt i l }
    | none => (x.eff (.fatal 4 false false)).eff (.ctr 0x20 1)

/-! ### Memory messages of a panel (R165, R321, R329 to R335) -/

/-- Queue a memory message at its port (R122: issue is its capture in the output register). -/
def PX.issue (x : PX) (m : Nat) (r : MemReq) : PX :=
  x.mod fun n => { n with memOut := smMod [] n.memOut m (· ++ [r]) }

/-- Issue an MRd of the HTC with sequence number `i` for the whole line, or with the request's own SIZE and OFFSET (R321). -/
def PX.issueRd (x : PX) (i : Nat) (h : Hdr) (l : Nat) (reg : Attr) (size off : Nat)
    (ev : Option (Nat × Nat) := some (h.world, h.part)) : PX :=
  let r : MemReq :=
    { mopc := 1, line := l, world := h.world, part := h.part, code := reg.code, size := size, off := off,
      own := .htc x.p i }
  (x.issue (reg.port (l * 64)) r).eff (.event 0x10 1 ev)

/-- Issue a write of a line: MWr, or MPoison or a lost-line entry for poisoned data; `who` are the writers an EBar may
cover, `dev` the HTC whose WrAcc waits for the completion; without `buf` the data do not come from the data buffer; `ev` is what its
event carries, none of a management HTC's (R502). A poisoned write to a Device region is not performed (R335). -/
def PX.issueWr (x : PX) (h : Hdr) (l : Nat) (reg : Option Attr) (b : Buf) (be : BitVec 64) (size off : Nat)
    (who : List (Nat × Nat)) (dev : Option Nat) (buf : Bool := true)
    (ev : Option (Nat × Nat) := some (h.world, h.part)) : PX :=
  match reg with
  | none => x
  | some reg =>
    let m := reg.port (l * 64)
    let buf := buf && !b.poison
    let bad := b.poison || decide (x.bufCheck buf = .ue)
    let x := x.bufCount buf
    if bad ∧ reg.kind = 2 then x
    else if bad ∧ ¬ (x.s.mp m).psnCap then x.addLost l ev
    else
      let wid := x.pn.wseq
      let x := x.mod fun n => { n with wseq := wid + 1, wrs := smSet n.wrs wid { line := l, who := who, dev := dev } }
      let r : MemReq :=
        { mopc := if bad then 3 else 2, line := l, world := h.world, part := h.part, code := reg.code,
          size := if bad then 6 else size, off := if bad then 0 else off,
          data := if bad then 0 else b.data, be := if bad then 0 else be, own := .wr x.p wid }
      let x := (x.issue m r).eff (.event (if bad then 0x12 else 0x11) 1 ev)
      if ¬ bad ∧ be = BitVec.allOnes 64 then
        x.mod fun n => { n with llt := n.llt.filter fun e => e.2 ≠ l }
      else x

/-- Write a whole line. -/
def PX.writeLine (x : PX) (h : Hdr) (l : Nat) (reg : Option Attr) (b : Buf) (who : List (Nat × Nat)) (buf : Bool := true)
    (ev : Option (Nat × Nat) := some (h.world, h.part)) : PX :=
  x.issueWr h l reg b (BitVec.allOnes 64) 6 0 who none buf ev

/-- Issue MPoison for a line, or its lost-line entry (R331). -/
def PX.poisonLine (x : PX) (h : Hdr) (l : Nat) (reg : Option Attr) (who : List (Nat × Nat))
    (ev : Option (Nat × Nat) := some (h.world, h.part)) : PX :=
  x.writeLine h l reg { data := 0, poison := true } who true ev

/-! ### Directory ways -/

/-- The index of a way in the directory array. -/
def wayIdx (set way : Nat) : Nat := set * 16 + way

/-- The codeword of a way as read in this step. -/
def PX.rawWay (x : PX) (set way : Nat) : BitVec 72 :=
  let i := wayIdx set way
  smGet (Config.freeDir x.s.nonce x.p i) x.pn.dir i ^^^ ((x.u.dir.find? fun e => e.1 = way).map (·.2)).getD 0

/-- Write a way, with zero in the fields that its STATE leaves unused (R51). -/
def PX.setWay (x : PX) (set way : Nat) (e : Ent) : PX :=
  x.mod fun n => { n with dir := smSet n.dir (wayIdx set way) e.canon.enc }

/-- The outcome of reading a set: the trusted entries by way, and whether some way is untrusted. -/
structure SetRead where
  ents : List (Nat × Ent)
  bad : Bool
deriving DecidableEq, Repr

/-- An HTC number that no HTC has: a reader that is none. -/
abbrev noHtc : Nat := 1024

/-- An untrusted way: an uncorrectable word or a reserved STATE (R49, R407, R418, R520). -/
def PX.wayLost (x : PX) (set way : Nat) : PX :=
  ((x.eff (.bucket (pnBase x.p + 0x40) .ue)).eff (.elog 0 (wayIdx set way) true)).eff
    (.cal (0xB0000000 + x.p * 2 ^ 16 + set % 2 ^ 15))

/-- Read one way for HTC `me`, whose events carry `wp`; the correction counts as one at D5 where `me` is an HTC and no sweep's (R502): a corrected word is logged and written back, but for a way whose line
is busy under another HTC, whose CLOSE writes it; an uncorrectable word or a reserved STATE is untrusted; the fields that a STATE leaves
unused are ignored (R49, R51, R407, R414, R418). -/
def PX.readWay (x : PX) (me set : Nat) (wp : Option (Nat × Nat)) (r : PX × SetRead) (way : Nat) : PX × SetRead :=
  let y := r.1
  let bad : PX × SetRead := (y.wayLost set way, { r.2 with bad := true })
  let good (y : PX) (e : Ent) : PX × SetRead := (y, { r.2 with ents := r.2.ents ++ [(way, e.canon)] })
  match strongDec 56 (y.rawWay set way).toNat with
  | .ok d => if 8 < (Ent.ofPay d).st then bad else good y (Ent.ofPay d)
  | .ce d =>
    let e := Ent.ofPay d
    if 8 < e.st then bad
    else
      let y := (y.eff (.bucket (pnBase x.p + 0x40) .ce)).eff (.elog 0 (wayIdx set way) false)
      let y := if me = noHtc ∨ set ∈ y.pn.sweeping then y else y.eff (.event 0x0F 1 wp)
      good (if y.busyFor me (y.s.unhash y.p set e.tag) then y else y.setWay set way e) e
  | .ue _ => bad

/-- Read the 16 ways of a set for HTC `me`, whose events carry `wp`. -/
def PX.readSet (x : PX) (me set : Nat) (wp : Option (Nat × Nat) := none) : PX × SetRead :=
  (List.range 16).foldl (fun r way => x.readWay me set wp r way) (x, { ents := [], bad := false })

/-! ### Palette slots -/

/-- A Palette slot (R57); `fresh`, which is not stored, says that this read found codeword 4 uncorrectable. -/
structure PSlot where
  vec : Vec := 0
  ref : Nat := 0
  part : Nat := 0
  valid : Bool := false
  lost : Bool := false
  mixed : Bool := false
  uncnt : Bool := false
  fresh : Bool := false
deriving DecidableEq, Repr

/-- The word of codeword 4 (R57). -/
def PSlot.word4 (v : PSlot) : BitVec 64 :=
  BitVec.ofNat 64 (v.ref % 2 ^ 20 * 2 ^ 44 + v.part % 64 * 2 ^ 38 + b2n v.valid * 2 ^ 37 + b2n v.lost * 2 ^ 36 +
    b2n v.mixed * 2 ^ 35 + b2n v.uncnt * 2 ^ 34)

/-- A slot from its five words. -/
def PSlot.ofWords (w : Nat → Nat) : PSlot :=
  { vec := BitVec.ofNat 256 (w 0 + w 1 * 2 ^ 64 + w 2 * 2 ^ 128 + w 3 * 2 ^ 192),
    ref := bitsN (w 4) 44 20, part := bitsN (w 4) 38 6, valid := bitN (w 4) 37, lost := bitN (w 4) 36,
    mixed := bitN (w 4) 35, uncnt := bitN (w 4) 34 }

/-- The codeword of a Palette word as read in this step. -/
def PX.rawPal (x : PX) (slot cw : Nat) : BitVec 80 :=
  let i := slot * 8 + cw
  smGet (Config.freePal x.s.nonce x.p i) x.pn.pal i ^^^ ((x.u.pal.find? fun e => e.1 = i).map (·.2)).getD 0

/-- Write one Palette codeword. -/
def PX.setPal (x : PX) (slot cw : Nat) (v : BitVec 64) : PX :=
  x.mod fun n => { n with pal := smSet n.pal (slot * 8 + cw) (encW v) }

/-- The flags of a slot as it stands in the array: VALID, LOST and UNCOUNTED. -/
def PX.slotFlags (x : PX) (slot : Nat) : Bool × Bool × Bool :=
  let n := (decW (smGet (Config.freePal x.s.nonce x.p (slot * 8 + 4)) x.pn.pal (slot * 8 + 4))).data
  (bitN n 37, bitN n 36, bitN n 34)

/-- A slot whose VALID, LOST or UNCOUNTED changes leaves the merge table with its pairs (R423). -/
def PX.dropPairs (x : PX) (slot : Nat) (v : PSlot) : PX :=
  if x.slotFlags slot = (v.valid, v.lost, v.uncnt) then x
  else x.mod fun n => { n with merges := n.merges.filter fun m => m.1 ≠ slot ∧ m.2 ≠ slot }

/-- Write a whole slot. -/
def PX.setSlot (x : PX) (slot : Nat) (v : PSlot) : PX :=
  let x := if x.pn.merges = [] then x else x.dropPairs slot v
  let n := v.vec.toNat
  ((((x.setPal slot 0 (BitVec.ofNat 64 (bitsN n 0 64))).setPal slot 1 (BitVec.ofNat 64 (bitsN n 64 64))).setPal slot 2
    (BitVec.ofNat 64 (bitsN n 128 64))).setPal slot 3 (BitVec.ofNat 64 (bitsN n 192 64))).setPal slot 4 v.word4

/-- Schedule a recount (R424); `pres` when the presence counters take part. -/
def PX.recount (x : PX) (pres : Bool) : PX :=
  x.mod fun n => { n with recount := some (0, pres || (match n.recount with | some r => r.2 | none => false)) }

/-- Read a slot: corrections are logged and written back; an uncorrectable codeword makes the slot lost, and
uncounted when it is codeword 4 (R70, R71, R414). -/
def PX.readSlot (x : PX) (slot : Nat) : PX × PSlot :=
  let d (cw : Nat) : Dec := decW (x.rawPal slot cw)
  let v := PSlot.ofWords fun cw => (d cw).data
  let y := (List.range 5).foldl (fun y cw =>
    match d cw with
    | .ok _ => y
    | .ce w => ((y.eff (.bucket (pnBase x.p + 0x60) .ce)).eff (.elog 1 (slot * 8 + cw) false)).setPal slot cw
        (BitVec.ofNat 64 w)
    | .ue _ => ((y.eff (.bucket (pnBase x.p + 0x60) .ue)).eff (.elog 1 (slot * 8 + cw) true)).eff
        (.cal (0xB0000000 + 2 ^ 24 + x.p * 2 ^ 16 + slot % 2 ^ 15))) x
  let ue (cw : Nat) : Bool := match d cw with | .ue _ => true | _ => false
  if ue 4 then
    let v' := { v with lost := true, mixed := true, uncnt := true, valid := true, ref := 0, fresh := true }
    (((y.setSlot slot v').eff (.stage 0x78 1)).recount false, v')
  else if (List.range 4).any ue ∧ ¬ v.lost then
    let v' := { v with lost := true }
    ((y.setSlot slot v').eff (.stage 0x78 1), v')
  else (y, v)

/-- The Palette set of a vector (R59). -/
def PX.palSet (x : PX) (v : Vec) : Nat :=
  let f := (List.range 16).foldl (fun a i => a ^^^ bitsN v.toNat (16 * i) 16) 0
  (f ^^^ (f >>> 12)) % x.s.build.palSets

/-- A count of a slot under recount changes only for a set the pass has stepped (R424). -/
def PX.counts (x : PX) (v : PSlot) (set : Nat) : Bool :=
  if v.uncnt then (match x.pn.recount with | some r => decide (set < r.1) | none => true) else true

/-- An entry of directory set `set` stops naming a slot (R63, R72). -/
def PX.release (x : PX) (slot set : Nat) : PX :=
  let (x, v) := x.readSlot slot
  let r := if x.counts v set then v.ref - 1 else v.ref
  if v.uncnt then x.setSlot slot { v with ref := r }
  else if r = 0 then x.setSlot slot (if v.lost then {} else { v with ref := 0, valid := false })
  else x.setSlot slot { v with ref := r }

/-- The partition an agent was admitted with. -/
def PX.partOf (x : PX) (a : Nat) : Nat := (x.s.portOf a).part

/-- PART and MIXED of a vector (R61). -/
def PX.partMix (x : PX) (v : Vec) : Nat × Bool :=
  match (members v).map x.partOf with
  | [] => (0, false)
  | q :: r => if r.all (· = q) then (q, false) else (0, true)

/-- Look up a vector of popcount two or more and take a reference (R60); none where the line must be narrowed; `wp` is what the events
carry (R502). -/
def PX.acquire (x : PX) (v : Vec) (set : Nat) (wp : Option (Nat × Nat)) : PX × Option Nat :=
  let base := x.palSet v * 4
  let rd := (List.range 4).foldl (fun (r : PX × List (Nat × PSlot)) w =>
    let (y, c) := r.1.readSlot (base + w)
    (y, r.2 ++ [(base + w, c)])) (x, [])
  let y := rd.1
  match rd.2.find? fun e => e.2.valid && !e.2.lost && decide (e.2.vec = v) with
  | some e =>
    ((y.setSlot e.1 { e.2 with ref := if y.counts e.2 set then e.2.ref + 1 else e.2.ref }).eff (.event 0x09 1 wp),
      some e.1)
  | none =>
    match rd.2.find? fun e => !e.2.valid with
    | some e =>
      let pm := y.partMix v
      ((y.setSlot e.1 { vec := v, ref := 1, part := pm.1, valid := true, mixed := pm.2 }).eff (.event 0x0A 1 wp),
        some e.1)
    | none => (y, none)

/-- The wider set of a lost slot: every admitted caching agent, of the slot's partition unless MIXED (R70, R71). -/
def PX.wider (x : PX) (v : PSlot) : Vec :=
  x.s.caching fun port => v.mixed || v.uncnt || decide (port.part = v.part)

/-! ### Entries of lines -/

/-- An entry with its recorded holders: for a lost slot the wider set, marked. -/
structure Hold' where
  ent : Ent
  vec : Vec
  lost : Bool
  slot : Option Nat
deriving DecidableEq, Repr

/-- Resolve an entry's holders, deciding the leftovers of a running scan as R449 says; `slot` is the Palette slot that
the stored entry names. -/
def PX.holders (x : PX) (e : Ent) : PX × Hold' :=
  if e.st = 5 ∨ e.st = 7 then
    let (x, v) := x.readSlot e.pal
    if v.lost then
      (x, { ent := e, vec := x.wider v, lost := true, slot := some e.pal })
    else
      let n := popc v.vec
      let e' := if e.st = 5 then
          (if n = 0 then { e with st := 0, pal := 0 }
           else if n = 1 then { e with st := 4, agent := (lowest v.vec).getD 0, pal := 0 } else e)
        else if v.vec = vbit e.agent then { e with st := 6, pal := 0 } else e
      (x, { ent := e', vec := v.vec, lost := false, slot := some e.pal })
  else
    (x, { ent := e, vec := if e.st = 0 ∨ e.st = 8 then 0 else vbit e.agent, lost := false, slot := none })

/-- STATE classes of R47. -/
def isU (st : Nat) : Bool := decide (st = 1) || decide (st = 2) || decide (st = 3)
/-- O-solo or O-pal. -/
def isO (st : Nat) : Bool := decide (st = 6) || decide (st = 7)
/-- S-solo or S-pal. -/
def isS (st : Nat) : Bool := decide (st = 4) || decide (st = 5)

/-- The agent that AGENT names as holder in U-any or as owner. -/
def Ent.owner (e : Ent) : Option Nat := if isU e.st || isO e.st then some e.agent else none

/-- The U state a grant to `a` writes: U without dirty hints, else U-dirty or U-clean (R100, R116). -/
def PX.uState (x : PX) (a : Nat) (dirty : Bool) : Nat := if x.s.dh a then (if dirty then 3 else 2) else 1

/-- The agents that the panel holds as dead, but for the owner of a line, whom the line's CLOSE settles (R447, R450). -/
def PX.deadBut (x : PX) (ow : Option Nat) : Vec := x.pn.dead &&& ~~~(match ow with | some a => vbit a | none => 0)

/-! ### Proxy buffer -/

/-- Read proxy slot `k`: what the check of its word found is counted once, and data found uncorrectable are poisoned
(R407, R417, R433). The Bool says that they were. -/
def PX.proxyRead (x : PX) (k : Nat) : PX × Option (Proxy × Bool) :=
  match smFind x.pn.proxy k with
  | none => (x, none)
  | some v =>
    let e := ((x.u.prx.find? fun (e : Nat × Ecc) => e.1 = k).map (·.2)).getD .ok
    let bad := decide (e = .ue)
    let v := { v with poison := v.poison || bad }
    let x := { x with u := { x.u with prx := x.u.prx.filter fun (e : Nat × Ecc) => e.1 ≠ k } }
    let x := if e = .ok then x else x.eff (.bucket (pnBase x.p + 0xA0) e)
    (x.mod fun n => { n with proxy := smSet n.proxy k v }, some (v, bad))

/-- Write an H line to memory from its proxy slot with its covered writers, for the request `h`, and keep the slot (R244,
R321). -/
def PX.proxyWrite (x : PX) (k : Nat) (h : Hdr) (reg : Option Attr) (ev : Option (Nat × Nat) := some (h.world, h.part)) : PX :=
  match x.proxyRead k with
  | (x, none) => x
  | (x, some (v, _)) =>
    let x := x.writeLine h v.line reg { data := v.data, poison := v.poison } v.who false ev
    x.mod fun n => { n with proxy := smMod { line := 0, data := 0 } n.proxy k fun w => { w with who := [] } }

/-- Free a proxy slot. -/
def PX.proxyFree (x : PX) (k : Nat) : PX := x.mod fun n => { n with proxy := smErase n.proxy k }

/-- The region of a line by the panel's decode, changing no lookaside entry. -/
def PX.regOf (x : PX) (l : Nat) : Option Attr :=
  match decodeIn x.pn.look (l * 64) with
  | some r => some r
  | none => x.s.decode (l * 64)

/-- HTC `h` is for a Device line, of which R311's set and TAG serve only the bucket: it belongs to no directory set (R312). -/
def PX.device (x : PX) (h : Htc) : Bool := (h.reg.or (x.regOf h.line)).any fun r => decide (r.kind = 2)

/-- HTC `h` is for a line of directory set `set` (R312). -/
def PX.ofSet (x : PX) (h : Htc) (set : Nat) : Bool := decide ((x.s.hash h.line).set = set) && !x.device h

/-- Line `l` is of a set that is being swept (R312, R426). -/
def PX.swept (x : PX) (l : Nat) : Bool :=
  decide ((x.s.hash l).set ∈ x.pn.sweeping) && !(x.regOf l).any fun r => decide (r.kind = 2)

/-! ### Presence (R300, glossary) -/

/-- Agents that an HTC involves: its requester, its owner snoop, its targets whose acknowledgement is not yet summed
(R252), its victim. -/
def Htc.names (h : Htc) : Vec :=
  (if h.job = .req ∨ h.job = .wbk ∨ h.job = .ebar ∨ h.job = .tiv ∨ h.job = .tsy then vbit h.pkt.hdr.src else 0) |||
  (match h.ow with | some a => if h.owAck then 0 else vbit a | none => 0) |||
  (if h.sum < h.expect then h.tset &&& ~~~h.acked else 0) ||| (match h.vict with | some v => if v.ent.st = 8 then 0 else v.vec | none => 0)

/-- The presence counter of agent `a` at panel `p` is not zero: a written directory entry or an HTC involves it, or the
counters are under recount (R424). The sharers of a lost slot do not count through it: nothing records who they are
(DEDUCED, log entry 59). -/
def State.present (s : State) (p a : Nat) : Bool :=
  let n := s.panel p
  (match n.recount with | some r => r.2 | none => false) ||
  n.htcs.any (fun e => e.2.names.getLsbD a) ||
  n.dir.any fun e =>
    let d := Ent.ofPay (strongDec 56 e.2.toNat).data
    if d.st = 5 ∨ d.st = 7 then
      let w (cw : Nat) : Nat := (decW (smGet (Config.freePal s.nonce p (d.pal * 8 + cw)) n.pal (d.pal * 8 + cw))).data
      let v := PSlot.ofWords w
      (!v.lost && v.vec.getLsbD a) || (decide (d.st = 7) && decide (d.agent = a))
    else decide (d.st ≠ 0) && decide (d.st ≠ 8) && decide (d.agent = a)

end Sys2Proof.Machine
end

