-- ==== Sys2Proof/Machine/Htc.lean ====
section
/-! DEFINITION. The life of a home transaction: snoops, the decision rows as plain data, leaving COLLECT and GRANT,
recalls, and forming the entry at CLOSE (R88 to R97, R112 to R136, R166, R448). -/

namespace Sys2Proof.Machine

/-! ### Snoops -/

/-- Snoop header of HTC `i` (R76, R86, R460): a management HTC's snoop travels as MGT with WORLD 0. -/
def PX.snpHdr (x : PX) (i : Nat) (h : Htc) (opc line dst : Nat) : Hdr :=
  let mg := decide (h.pool = 2)
  let owner := decide (opc = oSnpS) || decide (opc = oSnpU)
  { cls := if mg then cMGT else cSNP, opc := opc, prio := if mg then 0 else h.pkt.hdr.prio,
    src := if owner && !mg then h.pkt.hdr.src else nPanel0 + x.p, dst := dst,
    tag := if owner && !mg then h.pkt.hdr.tag else 0, htc := x.htcField i, addr := line,
    world := if mg then 0 else h.pkt.hdr.world, part := h.pkt.hdr.part }

/-- Opcode and MODE of an owner snoop (R82, R117). -/
def owMode : Nat → Nat × Nat
  | 1 => (oSnpS, 0) | 2 => (oSnpS, 1) | 3 => (oSnpS, 2) | 4 => (oSnpU, 0) | 5 => (oSnpU, 1) | 6 => (oSnpS, 3)
  | _ => (oSnpInv, 0)

/-- World and partition that an HTC's events carry (R502). -/
def Htc.wp (h : Htc) : Option (Nat × Nat) := if h.pool = 2 then none else wpOf h.pkt

/-- Note the first time of a comet stage, or its last when `over` (R507). -/
def Htc.stamp (h : Htc) (k cyc : Nat) (again : Bool) : Htc :=
  if (smFind h.stamps k).isSome && !again then h else { h with stamps := smSet h.stamps k cyc }

/-- Send the snoops of HTC `i` for a line: an owner snoop of mode `m` when `ow` is given, and SnpInv to a set (R117,
R132, R136). -/
def PX.snoop (x : PX) (i : Nat) (h : Htc) (line : Nat) (ow : Option Nat) (m : Nat) (inv : Vec) : PX × Htc :=
  let n := popc inv
  let x := match ow with
    | some a =>
      let om := owMode m
      ((x.send { hdr := { x.snpHdr i h om.1 line a with marks := om.2 } })).eff (.event 0x0C 1 h.wp)
    | none => x
  let x := if n = 0 then x
    else if n = 1 then (x.send { hdr := x.snpHdr i h oSnpInv line ((lowest inv).getD 0) }).eff (.event 0x0C 1 h.wp)
    else (x.send { hdr := x.snpHdr i h oSnpInv line nMulti, vec := inv }).eff (.event 0x0B 1 h.wp)
  let h := if n = 0 ∧ ow.isNone then h else h.stamp 4 x.s.clk.cyc false
  let h := if n < 2 then h else h.stamp 8 n true
  (x, { h with
    tset := inv, acked := 0, expect := n, sum := 0, ow := ow, fwd := none, owSnp := m, owAck := ow.isNone, owNeed := false,
    owEvict := false, owLost := false, owFwdSeen := false, fwdCut := false, owKept := false })

/-- A snoop to the wider set of a lost slot is an event (R126, R502). -/
def PX.widerEv (x : PX) (lost : Bool) (inv : Vec) (wp : Option (Nat × Nat)) : PX :=
  if lost ∧ inv ≠ 0 then x.eff (.event 0x0E 1 wp) else x

/-- A comet's mark that its HTC snooped a wider set (R509). -/
def Htc.widerMark (h : Htc) (lost : Bool) (inv : Vec) : Htc :=
  if lost ∧ inv ≠ 0 then { h with tflags := h.tflags ||| 1 } else h

/-! ### Decision rows -/

/-- What a decision row gives (R118 to R123, R125): the owner snoop, the SnpInv set, whether memory is read, and the
plan for the rest. -/
structure Row where
  ow : Option Nat := none
  mode : Nat := 0
  inv : Vec := 0
  mrd : Bool := false
  plan : Plan := {}
deriving DecidableEq, Repr

/-- What a decision looks at: the state, the owner, the recorded holders (the wider set when `lost`), the requester,
and the settled modes (R117). -/
structure View where
  st : Nat
  ow : Nat
  vec : Vec
  lost : Bool
  rq : Nat
  ownOw : Bool
  ownRq : Bool
deriving DecidableEq, Repr

/-- The stable state is one of those R100 and R116 call dirty. -/
def dirtyBefore (st : Nat) : Bool := decide (st = 1) || decide (st = 3) || isO st

/-- Who keeps a copy: nobody is known to on a lost slot (R126). -/
def View.keepAll (v : View) : Vec := if v.lost then 0 else v.vec

/-- The decision row for RdS (R117, R118, R126). On a lost slot the holders outside {Ow, Rq} are invalidated, since
none of them stays recorded. -/
def rowRdS (v : View) : Row :=
  let others := v.vec &&& ~~~(vbit v.rq)
  let sharers := others &&& ~~~(vbit v.ow)
  if v.st = 0 then { mrd := true, plan := { comp := oCompE, dsrc := 0 } }
  else if isS v.st then
    { inv := if v.lost then others else 0, mrd := true, plan := { comp := oCompS, dsrc := 0, keep := v.keepAll } }
  else if isU v.st then
    if v.ownOw then { ow := some v.ow, mode := 1, plan := { comp := oCompS, dsrc := 2, owKeep := 1 } }
    else if v.ownRq then { ow := some v.ow, mode := 2, plan := { comp := oCompS, dsrc := 2, owKeep := 2 } }
    else if v.st = 3 then { ow := some v.ow, mode := 3, plan := { comp := oCompS, dsrc := 2, owKeep := 2 } }
    else { ow := some v.ow, mode := 5, mrd := true, plan := { comp := oCompE, dsrc := 1 } }
  else if isO v.st then
    { ow := some v.ow, mode := 1, inv := if v.lost then sharers else 0,
      plan := { comp := oCompS, dsrc := 2, keep := v.keepAll &&& ~~~(vbit v.ow), owKeep := 3 } }
  else { plan := { comp := oCompE, dsrc := 1, fromH := true } }

/-- The narrowing row for RdS (R66, R125); on a lost slot the wider set is taken less Rq and Ow (R126). -/
def rowNarrow (v : View) : Row :=
  let n : Plan := { narrow := true }
  if isS v.st then { inv := v.vec, mrd := true, plan := { n with comp := oCompS, dsrc := 0 } }
  else if isU v.st then { ow := some v.ow, mode := 5, mrd := true, plan := { n with comp := oCompS, dsrc := 1 } }
  else { ow := some v.ow, mode := 5, inv := v.vec &&& ~~~(vbit v.ow ||| vbit v.rq), plan := { n with comp := oCompS, dsrc := 1 } }

/-- The decision row for RdU (R119). -/
def rowRdU (v : View) : Row :=
  let others := v.vec &&& ~~~(vbit v.rq)
  if v.st = 0 then { mrd := true, plan := { comp := oCompU, dsrc := 0 } }
  else if isS v.st then { inv := others, mrd := true, plan := { comp := oCompU, dsrc := 0 } }
  else if v.st = 8 then { plan := { comp := oCompU, dsrc := 1, fromH := true } }
  else { ow := some v.ow, mode := 4, inv := if v.st = 7 then others &&& ~~~(vbit v.ow) else 0,
         plan := { comp := oCompU, dsrc := 2 } }

/-- The decision row for Upg (R120). -/
def rowUpg (v : View) : Row :=
  let isOw := isO v.st && decide (v.ow = v.rq)
  let others := v.vec &&& ~~~(vbit v.rq)
  if isOw then { inv := if v.st = 7 then others else 0, plan := { comp := oCompU, dsrc := 3 } }
  else if v.lost ∨ ¬ v.vec.getLsbD v.rq then rowRdU v
  else if isS v.st then { inv := others, plan := { comp := oCompU, dsrc := 3 } }
  else if v.st = 7 then
    { ow := some v.ow, mode := 5, inv := others &&& ~~~(vbit v.ow), plan := { comp := oCompU, dsrc := 3 } }
  else rowRdU v

/-- The decision row for RdO (R121); the recorded owner's own RdO reads memory (R147). -/
def rowRdO (v : View) : Row :=
  let keep : Plan := { unchanged := true, keep := v.keepAll &&& ~~~(if isU v.st || isO v.st then vbit v.ow else 0),
                       owKeep := 4 }
  if v.st = 8 then { plan := { keep with dsrc := 1 } }
  else if (isU v.st || isO v.st) && decide (v.ow ≠ v.rq) then
    { ow := some v.ow, mode := 6, plan := { keep with dsrc := 2 } }
  else { mrd := true, plan := { keep with dsrc := 0 } }

/-- The decision row for WrU, and the snoops of AtP on a line not in H (R122, R123); on a lost slot the wider set is taken
less Rq and Ow (R126). -/
def rowWrU (v : View) (atp : Bool) : Row :=
  let pl : Plan := { toH := atp }
  let vec := if v.lost then v.vec &&& ~~~(vbit v.rq) else v.vec
  if v.st = 8 then { plan := { pl with toH := true } }
  else if v.st = 0 then { mrd := atp, plan := pl }
  else if isS v.st then { inv := vec, mrd := atp, plan := pl }
  else { ow := some v.ow, mode := 5, inv := if v.st = 7 then vec &&& ~~~(vbit v.ow) else 0, plan := pl }

/-- The decision row of a request (R118 to R123), with what the stable state was (R116). -/
def rowOf (opc : Nat) (v : View) : Row :=
  let r := match opc with
    | 1 => rowRdS v | 2 => rowRdU v | 3 => rowUpg v | 4 => rowRdO v | 5 => rowWrU v false | _ => rowWrU v true
  { r with plan := { r.plan with wasDirty := dirtyBefore v.st } }

/-- The snoops of a recall (R124). -/
def rowRecall (st ow : Nat) (vec : Vec) : Row :=
  if isS st then { inv := vec }
  else if st = 2 then { ow := some ow, mode := 7 }
  else if st = 7 then { ow := some ow, mode := 5, inv := vec &&& ~~~(vbit ow) }
  else if st = 0 ∨ st = 8 then {}
  else { ow := some ow, mode := 5 }

/-- A decision row that cannot occur for RdS, RdU or Upg (R147): the requester is recorded as owner, or, for RdS, as a
sharer. -/
def cannotOccur (opc : Nat) (v : View) : Bool :=
  let isOw := (isU v.st || isO v.st) && decide (v.ow = v.rq)
  match opc with
  | 1 => isOw || (!v.lost && (isS v.st || decide (v.st = 7)) && v.vec.getLsbD v.rq)
  | 2 => isOw
  | 3 => isU v.st && decide (v.ow = v.rq)
  | _ => false

/-! ### Atomics (R101) -/

/-- A value of `n` bits as a signed integer. -/
def signed (n v : Nat) : Int := if v < 2 ^ (n - 1) then v else (v : Int) - 2 ^ n

/-- The new value of an atomic on `n` bits (R101). -/
def atpResult (op n old opd cmp : Nat) : Nat :=
  match op with
  | 0 => opd
  | 1 => if old = cmp then opd else old
  | 2 => (old + opd) % 2 ^ n
  | 3 => old &&& opd
  | 4 => old ||| opd
  | 5 => old ^^^ opd
  | 6 => if signed n old < signed n opd then opd else old
  | 7 => if signed n opd < signed n old then opd else old
  | 8 => max old opd
  | _ => min old opd

/-- Perform an atomic on a line: the new line, and DataHome's line with the old value at byte 0 (R101, R103). -/
def atpLine (h : Hdr) (opd line : BitVec 512) : BitVec 512 × BitVec 512 :=
  let n := 8 * 2 ^ h.size
  let off := h.htc % 64
  let old := bitsN line.toNat (8 * off) n
  let new := atpResult (h.htc / 1024) n old (bitsN opd.toNat 0 n) (bitsN opd.toNat 64 n)
  ((line &&& ~~~(byteSpan off (2 ^ h.size))) ||| BitVec.ofNat 512 (new <<< (8 * off)), BitVec.ofNat 512 old)

/-- The bytes a WrU writes (R266, R267, R321). -/
def wruMask (k : Packet) : BitVec 64 :=
  if k.hdr.size = 7 then k.be
  else if k.hdr.size = 6 then BitVec.allOnes 64
  else BitVec.ofNat 64 ((2 ^ 2 ^ k.hdr.size - 1) <<< (k.hdr.htc % 64))

/-! ### Closing -/

/-- Take the vector of two or more holders that a line is left with: keep, rewrite in place, or look up (R62 to R67);
none where the line must be narrowed; `wp` is what the events carry. -/
def PX.placeVec (x : PX) (cur : Option Nat) (v : Vec) (set : Nat) (wp : Option (Nat × Nat)) : PX × Option Nat :=
  match cur with
  | none => x.acquire v set wp
  | some k =>
    let (x, sl) := x.readSlot k
    if sl.valid ∧ ¬ sl.lost ∧ sl.vec = v then (x, some k)
    else if sl.ref = 1 ∧ ¬ sl.lost ∧ ¬ sl.uncnt ∧ v &&& sl.vec = v then
      let pm := x.partMix v
      (x.setSlot k { sl with vec := v, part := pm.1, mixed := pm.2 }, some k)
    else (x.release k set).acquire v set wp

/-- Form the entry of a line with owner `ow` (when it stays) and holders `v`, releasing or placing the Palette
reference `cur`; the set returned must be invalidated before the entry is written (R64, R67). `wp` is what the event of
a narrowing carries (R68, R502). -/
def PX.formEnt (x : PX) (cur : Option Nat) (ow : Option Nat) (v : Vec) (set : Nat) (wp : Option (Nat × Nat)) :
    PX × Ent × Vec :=
  let rel (x : PX) : PX := match cur with | some k => x.release k set | none => x
  if popc v = 0 then (rel x, {}, 0)
  else if popc v = 1 then
    (rel x, { st := if ow.isSome then 6 else 4, agent := (lowest v).getD 0 }, 0)
  else
    match x.placeVec cur v set wp with
    | (x, some k) => (x, { st := if ow.isSome then 7 else 5, agent := ow.getD 0, pal := k }, 0)
    | (x, none) =>
      let a := match ow with | some o => o | none => (lowest v).getD 0
      (x.eff (.event 0x08 1 wp), { st := if ow.isSome then 6 else 4, agent := a }, v &&& ~~~(vbit a))

/-- The set number of a line. -/
def PX.setOf (x : PX) (l : Nat) : Nat := (x.s.hash l).set

/-- Start CLOSE with entry `fin` and, when `inv` is not empty, the narrowing's invalidations (R67, R112); the data-buffer
lines are free again. -/
def PX.startClose (x : PX) (i : Nat) (h : Htc) (fin : Ent) (inv : Vec) : PX :=
  let h := { h with bufs := 0 }
  let (x, h) := if inv = 0 then (x, { h with ow := none, owAck := true, expect := 0, sum := 0, tset := 0, acked := 0 })
    else x.snoop i h h.line none 0 inv
  x.setHtc i { h with phase := .close, fin := fin, closeAt := x.s.clk.cyc }

/-- The requester's part of the entry: 0 none, 1 sharer, 2 owner, 3 holder in U-any (R116, R556). -/
def Htc.rqPart (h : Htc) : Nat :=
  if h.deadRq then 0
  else match h.cack with
    | none => 0
    | some 4 => 2
    | some 1 => 1
    | some 2 => 3
    | some 3 => 3
    | some _ =>
      if h.plan.oComp ∨ (h.plan.comp = oCompS ∧ h.owSnp = 2) then 2
      else if h.plan.comp = oCompS then 1 else 3

/-- The U state of the requester at CLOSE (R116, R556). -/
def PX.rqState (x : PX) (h : Htc) : Nat :=
  let bad := match h.cack with | some m => decide (m ∉ [1, 2, 3, 4]) | none => false
  x.uState h.pkt.hdr.src (bad || h.cack = some 3 || h.hint || h.plan.wasDirty)

/-- The entry of a request that leaves the line as it was: AGE is 0 (R54), and a slot that the resolved entry no longer
names is released (R51, R63, R449). -/
def PX.keepEnt (x : PX) (h : Htc) : PX × Ent :=
  (match h.oldPal with
    | some k => if h.ent.st = 5 ∨ h.ent.st = 7 then x else x.release k (x.setOf h.line)
    | none => x, { h.ent with age := 0 })

/-- Enter CLOSE for a request under the decision rows: form the next state from the row, the owner's outcome and
CompAck (R112, R116, R126, R131, R448, R450). A line of a lost slot that a RdS or a RdO would leave as it was, and whose owner has left,
has no row of R126: SnpInv goes to the wider set, a RdO's Rq with it, and the entry becomes I (DESIGN CHOICE, log entry 30). -/
def PX.closeReq (x : PX) (i : Nat) (h : Htc) : PX :=
  let rq := h.pkt.hdr.src
  let set := x.setOf h.line
  let own := if h.plan.comp = 0 then h.ent.owner else h.ow.or h.ent.owner
  let grantU := decide (h.plan.comp = oCompE) || decide (h.plan.comp = oCompU) || h.plan.oComp
  let x := if h.deadRq ∧ grantU then x.poisonLine h.pkt.hdr h.line h.reg [] else x
  let cur := h.plan.slot.or h.oldPal
  let rel (x : PX) : PX := match cur with | some k => x.release k set | none => x
  let x := if h.plan.fromH then (match h.pslot with | some k => x.proxyFree k | none => x) else x
  let out := h.gone ||| x.pn.dead
  if h.plan.toH then
    match h.pslot with
    | some k => (rel x).startClose i h { st := 8, agent := k } 0
    | none => (rel x).startClose i h {} 0
  else if h.plan.unchanged && (match own with | some a => !h.gone.getLsbD a | none => true) then
    let r := x.keepEnt h
    r.1.startClose i h r.2 0
  else
    let keep := h.plan.keep &&& ~~~out
    let owStays := match own with
      | some a => h.plan.owKeep ≠ 0 && !h.gone.getLsbD a
      | none => false
    let owDead := owStays && (match own with | some a => x.pn.dead.getLsbD a | none => false)
    let asOwner := owStays && (h.plan.owKeep = 3 || h.plan.owKeep = 4 || (h.plan.owKeep = 1 && h.owKept))
    let ob := match own with | some a => if owStays then vbit a else 0 | none => 0
    let rp := h.rqPart
    let all := keep ||| ob ||| (if rp = 0 then 0 else vbit rq)
    if rp = 3 then (rel x).startClose i h { st := x.rqState h, agent := rq } 0
    else if owDead ∧ asOwner then
      let x := (rel x).poisonLine h.pkt.hdr h.line h.reg []
      x.startClose i h {} (all &&& ~~~out)
    else if h.plan.unchanged ∧ h.lost then
      let inv := h.vec &&& ~~~out
      ((rel x).widerEv true inv h.wp).startClose i (h.widerMark true inv) {} inv
    else
      let o := if rp = 2 then some rq else if asOwner then own else none
      let r := x.formEnt cur o (all &&& ~~~(x.pn.dead &&& ob)) set h.wp
      r.1.startClose i (if r.2.2 = 0 then h else { h with tflags := h.tflags ||| 4 }) r.2.1 r.2.2

/-! ### Leaving COLLECT and GRANT -/

/-- The owner has answered and every dirty line it announced, or the WBK it is evicting with, is here (R113, R114). -/
def Htc.owDone (h : Htc) : Bool := h.owAck && !h.owNeed && !h.owEvict

/-- The multicast is complete (R133). -/
def Htc.multi (h : Htc) : Bool := decide (h.expect ≤ h.sum)

/-- Data of memory for the line of HTC `h`: poisoned while the lost-line table names the line (R332). -/
def PX.ofMem (x : PX) (h : Htc) (b : Buf) : Buf := { b with poison := b.poison || x.lostLine h.line }

/-- The line the home can send, and the opcode it is sent under (R92, R131, R332). -/
def PX.homeData (x : PX) (h : Htc) : Option (Nat × Buf) :=
  match h.buf with
  | some b => some (oDataHome, b)
  | none =>
    let left : Bool := match h.ow with | some a => h.gone.getLsbD a | none => false
    h.md.map fun b => (if h.plan.dsrc = 1 ∧ ¬ left then oDataHome else oDataMem, x.ofMem h b)

/-- The home owes the requester data that its owner did not forward (R131, R446). -/
def Htc.owes (h : Htc) : Bool :=
  decide (h.plan.dsrc = 2) && h.owAck && !h.sentData && !h.owFwdSeen &&
    (match h.ow with | some a => h.gone.getLsbD a | none => false)

/-- Send the requester its line. -/
def PX.sendLine (x : PX) (i : Nat) (h : Htc) (opc : Nat) (b : Buf) : PX × Htc :=
  let b := if h.pkt.hdr.opc = oRdO then { b with data := rdoData h.pkt.hdr b.data } else b
  let buf := decide (h.ent.st ≠ 8)
  let h := (h.stamp 6 x.s.clk.cyc true)
  let bad := b.poison || decide (x.bufCheck buf = .ue)
  (x.sendData i h.pkt.hdr opc b buf, { h with sentData := true, tflags := if bad then h.tflags ||| 2 else h.tflags })

/-- Send the Comp with its DSRC (R91); a narrowing of a line that was owned, or whose owner's dirty data was absorbed,
grants O to a requester with owned state (R125). -/
def PX.sendComp (x : PX) (i : Nat) (h : Htc) : PX × Htc :=
  let dirty := isO h.ent.st || (h.buf.isSome && !h.owLost)
  let o := h.plan.narrow && dirty && x.s.own h.pkt.hdr.src && decide (h.plan.dsrc = 1)
  let comp := if o then oCompO else h.plan.comp
  (x.sendRsp i h.pkt.hdr comp h.plan.dsrc 0,
    { (h.stamp 6 x.s.clk.cyc false) with sentComp := true, plan := { h.plan with oComp := o }, phase := .grant })

/-- GRANT: send what is owed, and enter CLOSE when R114 holds. -/
def PX.grantStep (x : PX) (i : Nat) (h : Htc) : PX :=
  let (x, h) := if h.owes ∧ h.owDone then
      match x.homeData h with
      | some (o, b) => x.sendLine i h o b
      | none => (x, h)
    else (x, h)
  let needAck := decide (h.pkt.hdr.opc ≤ 3) && !h.deadRq
  if (h.cack.isSome ∨ ¬ needAck) ∧ h.owDone ∧ ¬ h.owes then
    if h.tabled then x.closeReq i h else x.startClose i h {} 0
  else x.setHtc i h

/-- The write of a WrU, and whether its WrAcc carries ERR (R122, R131, R330). -/
def PX.doWrU (x : PX) (h : Htc) : PX × Nat :=
  let m := wruMask h.pkt
  let who := [(h.pkt.hdr.src, h.seq)]
  let full := decide (m = BitVec.allOnes 64)
  if h.pkt.hdr.poison then (x.poisonLine h.pkt.hdr h.line h.reg who, 0)
  else if h.owLost ∧ ¬ full then (x, 1)
  else match h.buf with
    | some b =>
      if full ∨ h.wrIssued then
        (x.issueWr h.pkt.hdr h.line h.reg { data := h.pkt.data } m 6 0 who none, 0)
      else
        (x.writeLine h.pkt.hdr h.line h.reg { data := mergeLine b.data h.pkt.data m, poison := b.poison } who, 0)
    | none =>
      (x.issueWr h.pkt.hdr h.line h.reg { data := h.pkt.data } m 6 0 who none, 0)

/-- Perform an AtP in a proxy slot on a line's data, and answer it (R103, R104). A poisoned old value performs nothing and
the slot holds the line as it was (R434). -/
def PX.doAtP (x : PX) (i : Nat) (h : Htc) (k : Nat) (b : Buf) : PX × Htc :=
  let buf := decide (h.ent.st ≠ 8)
  let r := atpLine h.pkt.hdr h.pkt.data b.data
  let old := ((smFind x.pn.proxy k).map (·.who)).getD []
  let bad := b.poison || decide (x.bufCheck buf = .ue)
  let v : Proxy :=
    if bad then { line := h.line, data := b.data, poison := true, who := old }
    else { line := h.line, data := r.1, who := old ++ [(h.pkt.hdr.src, h.seq)] }
  let x := x.mod fun n => { n with proxy := smSet n.proxy k v }
  let x := if bad then x else x.eff (.event 0x15 1 (wpOf h.pkt))
  x.sendLine i h oDataHome { data := r.2, poison := bad }

/-- COLLECT under the decision rows: answer when R113 holds. -/
def PX.collectStep (x : PX) (i : Nat) (h : Htc) : PX :=
  let go (r : PX × Htc) : PX := r.1.grantStep i { r.2 with phase := .grant }
  if ¬ h.multi then x.setHtc i h
  else if h.pkt.hdr.opc ≤ 3 then
    if h.plan.dsrc = 2 then go (x.sendComp i h)
    else if ¬ h.owDone then x.setHtc i h
    else if h.plan.dsrc = 3 then go (x.sendComp i h)
    else match x.homeData h with
      | some (o, b) => let r := x.sendComp i h; go (r.1.sendLine i r.2 o b)
      | none => x.setHtc i h
  else if h.pkt.hdr.opc = oRdO then
    if ¬ h.owDone then x.setHtc i h
    else if h.plan.dsrc = 2 ∧ ¬ h.owes then go (x, h)
    else match x.homeData h with
      | some (o, b) => go (x.sendLine i h o b)
      | none => x.setHtc i h
  else if ¬ h.owDone then x.setHtc i h
  else if h.pkt.hdr.opc = oWrU then
    let r := x.doWrU h
    go (r.1.sendRsp i h.pkt.hdr oWrAcc 0 r.2, { (h.stamp 6 x.s.clk.cyc false) with wrIssued := true })
  else if h.owLost then
    let (x, h) := x.sendLine i h oDataHome { data := 0, poison := true }
    let x := match h.pslot with | some k => x.proxyFree k | none => x
    go (x, { h with pslot := none })
  else match x.homeData h, h.pslot with
    | some (_, b), some k => go (x.doAtP i h k b)
    | none, _ =>
      match h.rd, h.reg with
      | false, some r => (x.issueRd h.seq h.pkt.hdr h.line r 6 0).setHtc i { h with rd := true }
      | _, _ => x.setHtc i h
    | some _, none => x.setHtc i h

/-- COLLECT of a request outside the directory (R110, R239). -/
def PX.plainStep (x : PX) (i : Nat) (h : Htc) : PX :=
  let o := h.pkt.hdr.opc
  match h.md with
  | none => x.setHtc i h
  | some b =>
    let b := x.ofMem h b
    if o ≤ 2 then
      let x := x.sendRsp i h.pkt.hdr (if o = 1 then oCompS else oCompU) 0 0
      let r := x.sendLine i { h with plan := { h.plan with dsrc := 0 } } oDataMem b
      r.1.grantStep i { r.2 with phase := .grant, sentComp := true }
    else if o = oRdO then
      let r := x.sendLine i h oDataMem b
      r.1.startClose i r.2 {} 0
    else match h.pslot with
      | some k =>
        let r := x.doAtP i h k b
        let x := if b.poison ∨ x.u.dat = .ue then r.1 else r.1.proxyWrite k h.pkt.hdr h.reg
        (x.proxyFree k).startClose i r.2 {} 0
      | none => x.setHtc i h

/-- Send the acknowledgements withheld until the owner's SnpAck (R164); from then on barriers count their writes. -/
def PX.sendWithheld (x : PX) (i : Nat) (h : Htc) : PX × Htc :=
  let x := h.withheld.foldl (fun x k =>
    let x := x.sendRsp i k.hdr (if k.hdr.opc = oEvC then oEvAck else oWbAck) 0 0
    let big := 2 ^ 64 + k.hdr.src
    x.mod fun n => { n with
      wrs := n.wrs.map fun e => (e.1, { e.2 with who := e.2.who.map fun w => if w = (k.hdr.src, big) then (w.1, n.seq) else w }) }) x
  (x, { h with withheld := [] })

/-! ### Recalls -/

/-- Begin recalling a line for HTC `i`, a victim of R55 or the requester's own copy (R124, R147, R166, R502); what was absorbed for
the line before its snoops stays. -/
def PX.recallStart (x : PX) (i : Nat) (h : Htc) (v : Vict) : PX :=
  let reg := x.regOf v.line
  let x := if v.ent.st = 8 then (x.proxyWrite v.ent.agent h.pkt.hdr reg).proxyFree v.ent.agent else x
  let r := rowRecall v.ent.st v.ent.agent v.vec
  let (x, h) := (x.widerEv v.lost r.inv h.wp).snoop i (h.widerMark v.lost r.inv) v.line r.ow r.mode r.inv
  let own := decide (v.line = h.line)
  (if own then x else x.eff (.event 0x07 1 h.wp)).setHtc i
    { h with phase := .recall, vict := some v, pick := none, tflags := if own then h.tflags else h.tflags ||| 8 }

/-! ### Comet tails (R507 to R510) -/

/-- The comet tail of an HTC that is freed in HCLK `cyc` (R507 to R510). -/
def Htc.tail (h : Htc) (p i cyc : Nat) : List (BitVec 64) :=
  let b : Nat := smGet h.acc h.stamps 0
  let d (k : Nat) : Nat := match smFind h.stamps k with | some c => min 0xFFFE (c - b) | none => 0xFFFF
  let q := h.pkt.hdr
  [BitVec.ofNat 64 (1 * 2 ^ 60 + p * 2 ^ 56 + i * 2 ^ 46 + q.world * 2 ^ 45 + q.part * 2 ^ 39 + q.src % 256 * 2 ^ 31 +
      q.opc * 2 ^ 25 + (if h.sentComp then h.plan.dsrc else 7) * 2 ^ 22 + h.tflags % 16 * 2 ^ 18 + q.tag),
   BitVec.ofNat 64 (q.addr * 64),
   BitVec.ofNat 64 b,
   BitVec.ofNat 64 (d 1 * 2 ^ 48 + d 2 * 2 ^ 32 + d 3 * 2 ^ 16 + d 4),
   BitVec.ofNat 64 (d 5 * 2 ^ 48 + d 6 * 2 ^ 32 + min 0xFFFE (cyc - b) * 2 ^ 16 + smGet 0 h.stamps 8)]

/-- HTC `i` is freed: a comet's tail goes into the trace (R463, R507, R508). -/
def PX.endHtc (x : PX) (i : Nat) (h : Htc) : PX :=
  (if h.comet && x.s.dbgOn h.pkt.hdr.world then x.eff (.trace false (h.tail x.p i x.s.clk.cyc)) else x).dropHtc i

/-! ### The end of recalls -/

/-- The recall's answers are all in. -/
def Htc.recalled (h : Htc) : Bool := h.multi && h.owDone

/-- End a recall: the way is written with the requesting line's TAG and STATE I, and the victim's Palette reference is
released (R166, R63). -/
def PX.recallEnd (x : PX) (i : Nat) (h : Htc) (v : Vict) : PX × Htc :=
  let set := x.setOf v.line
  let x := match v.slot with | some k => x.release k set | none => x
  let x := x.setWay set v.way { tag := (x.s.hash h.line).tag }
  let h := { h with
    vict := none, way := some v.way, ow := none, owAck := true, expect := 0, sum := 0, tset := 0,
    acked := 0, buf := none, fwd := none, gone := 0, owNeed := false, owEvict := false, owLost := false, owFwdSeen := false, ent := {}, vec := 0,
    lost := false, oldPal := none }
  (x.setHtc i h, h)

end Sys2Proof.Machine
end

