-- ==== Sys2Proof/Machine/Requests.lean ====
section
/-! DEFINITION. Accepting and deciding requests at a panel: acceptance and pools (R148 to R155), the checks of R221,
the zero answers of R225, requests outside the directory (R110), ways and proxy slots (R55, R104), the decision
(R118 to R126), barriers and translation services (R241 to R253). -/

namespace Sys2Proof.Machine

/-! ### Checks (R221) -/

/-- What the checks decide: serve, discard, an answer without access, or the zero answer. -/
inductive Verdict
  | serve | discard | answer (opc : Nat) (proto : Bool) | zero
deriving DecidableEq, Repr

/-- SIZE allowed for an opcode, and OFFSET a multiple of the access size (R79, R80). -/
def sizeOk (h : Hdr) : Bool :=
  let off := h.htc % 64
  match h.opc with
  | 4 => decide (h.size ≤ 6) && decide (if h.size < 6 then off % 2 ^ h.size = 0 else off = 0)
  | 5 => decide (if h.size < 6 then off % 2 ^ h.size = 0 else off = 0)
  | 6 => decide (h.size ≤ 3)
  | _ => decide (h.size = 6)

/-- A malformed AtP (R102). -/
def atpBad (h : Hdr) : Bool :=
  let off := h.htc % 64
  decide (9 < h.htc / 1024) || decide (off % 2 ^ h.size ≠ 0) ||
  (decide (h.htc / 1024 = 1) && decide (h.size = 3) && decide (0x38 < off)) || h.poison

/-- The agent is one the panel holds as admitted, in this partition (row 1 of R221). -/
def PX.admitted (x : PX) (h : Hdr) : Bool :=
  decide (h.src < 256) && !x.pn.dead.getLsbD h.src &&
  (match x.s.slotOfAgent h.src with | some n => decide ((x.s.port n).part = h.part) | none => false)

/-- The checks of R221 in their order, on a decoded region. -/
def PX.check (x : PX) (h : Hdr) (reg : Option Attr) : Verdict :=
  let walk := (decide (h.opc = oRdS) || decide (h.opc = oRdO)) && bitN h.marks 0
  let spec := (decide (h.opc = oRdS) || decide (h.opc = oRdO)) && bitN h.marks 1 && !walk
  if ¬ x.admitted h then .discard
  else if ¬ sizeOk h then .answer oDecodeErr false
  else if h.opc ≤ 3 ∧ (x.s.portOf h.src).mode.kind ≠ 1 then .answer oDecodeErr true
  else match reg with
    | none => .answer (if spec then oDecline else oDecodeErr) false
    | some r =>
      if r.kind = 0 ∧ ¬ x.s.build.inSpan h.addr then .answer (if spec then oDecline else oDecodeErr) false
      else if h.world = 1 ∧ r.world = 0 then .zero
      else if r.kind = 2 ∧ r.home ≠ x.p then .answer oDecodeErr false
      else if walk ∧ r.kind = 2 then .answer oWalkDevErr false
      else if spec ∧ (r.kind = 2 ∨ r.nospec) then .answer oDecline false
      else if r.kind = 2 ∧ h.opc ≠ oRdO ∧ h.opc ≠ oWrU then .answer oDecodeErr false
      else if h.opc = oAtP ∧ atpBad h then .answer oDecline false
      else .serve

/-! ### Ways and proxy slots -/

/-- Some HTC other than `i` holds this way of the set (R161, R166). -/
def PX.wayHeld (x : PX) (i set way : Nat) : Bool :=
  let at' (v : Option Vict) : Bool := match v with | some v => decide (v.way = way) && decide (x.setOf v.line = set) | none => false
  x.pn.htcs.any fun e => e.1 ≠ i &&
    ((decide (e.2.way = some way) && decide (x.setOf e.2.line = set)) || at' e.2.vict || at' e.2.pick)

/-- Victim classes in the order of R55. -/
def victClass (st : Nat) : Nat :=
  if st = 4 then 0 else if st = 5 then 1 else if st = 8 then 3 else 2

/-- Choose a way (R55): a free one, or a victim; none where every way is busy or held (R56). -/
def PX.pickWay (x : PX) (i set : Nat) (ents : List (Nat × Ent)) : Option (Nat × Option Ent) :=
  match ents.find? fun e => decide (e.2.st = 0) && !x.wayHeld i set e.1 with
  | some e => some (e.1, none)
  | none =>
    let cs := ents.filter fun e => decide (e.2.st ≠ 0) && !x.wayHeld i set e.1 &&
      !x.lineBusy (x.s.unhash x.p set e.2.tag)
    let better (a b : Nat × Ent) : Bool :=
      decide (victClass a.2.st < victClass b.2.st) ||
      (decide (victClass a.2.st = victClass b.2.st) && (decide (b.2.age < a.2.age) ||
        (decide (a.2.age = b.2.age) && decide (a.1 ≤ b.1))))
    (cs.find? fun e => cs.all fun y => better e y).map fun e => (e.1, some e.2)

/-- Hold an HTC in DECIDE for a reason. -/
def PX.holdHtc (x : PX) (i : Nat) (h : Htc) (why : Hold) : PX := x.setHtc i { h with phase := .decide, hold := why }

/-- An HTC that is to start again at D0 (R426, R437): what it has read and taken is gone. -/
def Htc.fresh (h : Htc) : Htc :=
  { h with dread := false, tabled := false, way := none, pick := none, pslot := none, bufs := 0, ent := {}, vec := 0, lost := false,
           oldPal := none, reg := none }

/-- HTC `i` goes back to D0 for a sweep of its set (R426), unless it stands there already: it has taken nothing, and owes no
acknowledgement. -/
def PX.backToD0 (x : PX) (i : Nat) (h : Htc) : PX :=
  let x := match h.pslot with | some k => x.proxyFree k | none => x
  if (x.htc? i).any fun g => decide (g.phase = .decide) && decide (g.hold = .sweep) then x
  else
    let (x, h) := x.sendWithheld i h
    x.holdHtc i { h.fresh with gone := 0, buf := none } .sweep

/-- A set begins to be swept: the requests past D2 in DECIDE for its lines go back to D0 (R426). -/
def PX.sweepBegin (x : PX) (set : Nat) : PX :=
  (x.pn.htcs.filter fun e => e.2.job = .req ∧ e.2.phase = .decide ∧ e.2.hold ≠ .go ∧ x.ofSet e.2 set).foldl
    (fun x e => x.backToD0 e.1 e.2)
    (x.mod fun n => { n with sweeping := if set ∈ n.sweeping then n.sweeping else set :: n.sweeping })

/-- Trigger a sweep of a set (R425): `op` 1 names a Restorer step. -/
def PX.sweepTrigger (x : PX) (set op : Nat) : PX :=
  if set ∈ x.pn.sweeping then x
  else (x.sweepBegin set).mod fun n => { n with trigs := n.trigs ++ [(set, op)] }

/-- The directory way that names a line, by a plain search of its set for HTC `me`; an untrusted way starts a sweep of the set
(R425). -/
def PX.findWay (x : PX) (me l : Nat) (wp : Option (Nat × Nat)) : PX × Option (Nat × Ent) :=
  let h := x.s.hash l
  let (x, rd) := x.readSet me h.set wp
  if rd.bad then (x.sweepTrigger h.set 0, none)
  else (x, rd.ents.find? fun e => decide (e.2.st ≠ 0) && decide (e.2.tag = h.tag))

/-- A line of H that an AtP can turn out: its slot, line, way and entry. -/
abbrev HLine := Nat × Nat × Nat × Ent

/-- A proxy slot for the AtP of HTC `i` (R104, R105): a free one, or that of the H line of lowest AGE that is not busy, written to
memory and set to I. -/
def PX.pickProxy (x : PX) (i : Nat) (h : Htc) : PX × Option Nat :=
  match smFree x.pn.proxy 0 32 with
  | some k => (x, some k)
  | none =>
    let rd := x.pn.proxy.foldl (fun (r : PX × List HLine) e =>
      if r.1.busyFor i e.2.line then r
      else match r.1.findWay i e.2.line h.wp with
        | (y, some w) => (y, if w.2.st = 8 ∧ w.2.agent = e.1 then r.2 ++ [(e.1, e.2.line, w.1, w.2)] else r.2)
        | (y, none) => (y, r.2)) (x, [])
    let x := rd.1
    match rd.2.find? fun a => rd.2.all fun b =>
        decide (a.2.2.2.age < b.2.2.2.age) || (decide (a.2.2.2.age = b.2.2.2.age) && decide (a.1 ≤ b.1)) with
    | some (k, l, w, _) =>
      let x := (x.proxyWrite k h.pkt.hdr (x.regOf l)).proxyFree k
      (x.setWay (x.setOf l) w {}, some k)
    | none => (x, none)

/-- The proxy slot of an AtP in HTC `i`: the one it holds, or one it takes (R104, R123). -/
def PX.takeProxy (x : PX) (i : Nat) (h : Htc) : PX × Option Nat :=
  match h.pslot with
  | some k => (x, some k)
  | none =>
    match x.pickProxy i h with
    | (x, none) => (x, none)
    | (x, some k) => (x.mod fun n => { n with proxy := smSet n.proxy k { line := h.line, data := 0, htc := some i } }, some k)

/-! ### The decision -/

/-- An earlier Device request of the same agent has not issued (R237): one past D1 is one as it decoded there. -/
def PX.deviceAhead (x : PX) (h : Htc) : Bool :=
  x.pn.htcs.any fun e => decide (e.2.job = .req) && decide (e.2.pkt.hdr.src = h.pkt.hdr.src) &&
    decide (e.2.seq < h.seq) && (match e.2.reg.or (x.regOf e.2.line) with | some r => decide (r.kind = 2) | none => false) &&
    (decide (e.2.phase = .queued) || decide (e.2.phase = .decide))

/-- Answer a request without access; it closes at once (R223). -/
def PX.answer (x : PX) (i : Nat) (h : Htc) (opc : Nat) : PX :=
  ((x.sendRsp i h.pkt.hdr opc 0 0).eff (.event 0x16 1 (wpOf h.pkt))).startClose i (h.stamp 6 x.s.clk.cyc false) {} 0

/-- The zero answer (R225). -/
def PX.zeroAnswer (x : PX) (i : Nat) (h : Htc) : PX :=
  let x := x.eff (.ctr 0x30 1)
  let o := h.pkt.hdr.opc
  let h := { (h.stamp 6 x.s.clk.cyc false) with plan := { h.plan with dsrc := 1 } }
  let zero : Buf := { data := 0 }
  if o ≤ 3 then
    let x := x.sendRsp i h.pkt.hdr (if o = 1 then oCompS else oCompU) 1 0
    (x.sendData i h.pkt.hdr oDataHome zero false).setHtc i { h with phase := .grant, sentComp := true, sentData := true }
  else if o = oWrU then (x.sendRsp i h.pkt.hdr oWrAcc 0 0).startClose i h {} 0
  else (x.sendData i h.pkt.hdr oDataHome zero false).startClose i h {} 0

/-- A request to a Normal-non-coherent or Device region (R110, R234, R237, R239, R330, R335). -/
def PX.plainServe (x : PX) (i : Nat) (h : Htc) (r : Attr) : PX :=
  let q := h.pkt.hdr
  let o := q.opc
  let said := h.stamp 6 x.s.clk.cyc false
  if o = oUpg then
    (x.sendRsp i q oCompU 3 0).setHtc i { said with phase := .grant, sentComp := true }
  else if o ≠ oWrU ∧ o ≠ oAtP then
    if ¬ x.bufFree then x.holdHtc i h .buffer
    else
      let w := if o = oRdO then (q.size, q.htc % 64) else (6, 0)
      (x.issueRd h.seq q h.line r w.1 w.2).setHtc i { h with phase := .collect, rd := true, bufs := 1 }
  else if o = oWrU then
    let who := [(q.src, h.seq)]
    let said := { said with wrIssued := true }
    if r.kind = 2 then
      if q.poison then (x.sendRsp i q oWrAcc 0 1).startClose i said {} 0
      else if x.u.dat = .ue then ((x.bufCount true).sendRsp i q oWrAcc 0 1).startClose i said {} 0
      else (x.issueWr q h.line (some r) { data := h.pkt.data } (wruMask h.pkt) q.size (q.htc % 64) who (some h.seq)).setHtc i
        { h with phase := .collect, wrIssued := true }
    else
      let x := x.issueWr q h.line (some r) { data := h.pkt.data, poison := q.poison } (wruMask h.pkt) q.size (q.htc % 64)
        who none
      (x.sendRsp i q oWrAcc 0 0).startClose i said {} 0
  else
    match x.takeProxy i h with
    | (x, none) => x.holdHtc i h .proxy
    | (x, some k) =>
      if ¬ x.bufFree then x.holdHtc i { h with pslot := some k } .buffer
      else (x.issueRd h.seq q h.line r 6 0).setHtc i { h with phase := .collect, rd := true, pslot := some k, bufs := 1 }

/-- A line in H whose slot is found uncorrectable leaves H, with MPoison for its writers and these (R330, R433). -/
def PX.leaveH (x : PX) (k : Nat) (h : Htc) (who : List (Nat × Nat)) : PX :=
  let old := ((smFind x.pn.proxy k).map (·.who)).getD []
  (x.poisonLine h.pkt.hdr h.line h.reg (old ++ who)).proxyFree k

/-- Serve a request for a line in H (R105, R106, R118, R119, R121 to R123, R330, R433). -/
def PX.serveH (x : PX) (i : Nat) (h : Htc) : PX :=
  let k := h.ent.agent
  let o := h.pkt.hdr.opc
  let full := decide (o = oWrU) && decide (wruMask h.pkt = BitVec.allOnes 64)
  let rd := if full then (x, (smFind x.pn.proxy k).map fun v => (v, false)) else x.proxyRead k
  match rd with
  | (x, none) => x.startClose i { h with plan := {} } {} 0
  | (x, some (v, bad)) =>
    let h := { h with pslot := some k }
    let said := h.stamp 6 x.s.clk.cyc false
    let b : Buf := { data := v.data, poison := v.poison }
    if o ≤ 3 then
      let x := x.proxyWrite k h.pkt.hdr h.reg
      x.collectStep i { h with buf := some b, phase := .collect }
    else if o = oRdO then
      let r := x.sendLine i h oDataHome b
      if bad then (r.1.leaveH k h []).startClose i { r.2 with pslot := none } {} 0
      else r.1.startClose i r.2 { h.ent with age := 0 } 0
    else if o = oWrU then
      let who := [(h.pkt.hdr.src, h.seq)]
      if h.pkt.hdr.poison ∨ bad then
        ((x.leaveH k h who).sendRsp i h.pkt.hdr oWrAcc 0 0).startClose i said {} 0
      else
        let w : Proxy := { v with
          data := mergeLine v.data h.pkt.data (wruMask h.pkt), who := v.who ++ who, poison := v.poison && !full }
        let x := x.mod fun n => { n with proxy := smSet n.proxy k w }
        (x.sendRsp i h.pkt.hdr oWrAcc 0 0).startClose i said { h.ent with age := 0 } 0
    else if bad then
      let r := x.sendLine i h oDataHome { data := (atpLine h.pkt.hdr h.pkt.data b.data).2, poison := true }
      (r.1.leaveH k h []).startClose i { r.2 with pslot := none } {} 0
    else x.collectStep i { h with buf := some b, phase := .collect }

/-- Carry out a chosen row: its snoops and memory read, then COLLECT (R112, R113). -/
def PX.runRow (x : PX) (i : Nat) (h : Htc) (r : Row) : PX :=
  let h := { h with plan := r.plan, phase := .collect }
  let (x, h) := (x.widerEv h.lost r.inv h.wp).snoop i (h.widerMark h.lost r.inv) h.line r.ow r.mode r.inv
  match r.mrd, h.reg with
  | true, some reg => (x.issueRd h.seq h.pkt.hdr h.line reg 6 0).collectStep i { h with rd := true }
  | _, _ => x.collectStep i h

/-- What HTC `h` looks at when it chooses its row (R117). -/
def PX.view (x : PX) (h : Htc) : View :=
  { st := h.ent.st, ow := h.ent.agent, vec := h.vec, lost := h.lost, rq := h.pkt.hdr.src,
    ownOw := x.s.own h.ent.agent, ownRq := x.s.own h.pkt.hdr.src }

/-- Choose and run the row for a line that has its way, taking the Palette slot of a new vector, or narrowing (R62,
R125). -/
def PX.rowStep (x : PX) (i : Nat) (h : Htc) : PX :=
  let v := x.view h
  let r := rowOf h.pkt.hdr.opc v
  if h.ent.st = 8 then x.serveH i { h with plan := r.plan }
  else
    let new := r.plan.keep ||| (if r.plan.owKeep ≠ 0 then vbit h.ent.agent else 0) ||| vbit v.rq
    if h.pkt.hdr.opc = oRdS ∧ 2 ≤ popc new then
      let set := x.setOf h.line
      let x := match h.oldPal with | some k => x.release k set | none => x
      let h := { h with oldPal := none }
      match x.acquire new set h.wp with
      | (x, some k) => x.runRow i h { r with plan := { r.plan with slot := some k } }
      | (x, none) =>
        let r := rowNarrow v
        (x.eff (.event 0x08 1 (wpOf h.pkt))).runRow i { h with tflags := h.tflags ||| 4 }
          { r with plan := { r.plan with wasDirty := dirtyBefore v.st } }
    else x.runRow i h r

/-- What HTC `h` is about to do, with a victim or without, can bring it data (R189). -/
def PX.bufNeed (x : PX) (h : Htc) (victim : Bool) : Bool :=
  let v := x.view h
  let r := if cannotOccur h.pkt.hdr.opc v then rowRecall v.st v.ow v.vec else rowOf h.pkt.hdr.opc v
  victim || (decide (v.st ≠ 8) && (r.mrd || r.ow.isSome))

/-- D10 of HTC `i`: the recall of its victim, of the requester's own copy, or the row (R124, R147, R161, R167). -/
def PX.launch (x : PX) (i : Nat) (h : Htc) (victim : Option (Nat × Ent)) : PX :=
  let o := h.pkt.hdr.opc
  let v := x.view h
  match victim with
  | some (w, e) =>
    let r := rowOf o v
    let (x, d) := x.holders e
    let h := { h with plan := r.plan }
    let vic : Vict := { way := w, line := x.s.unhash x.p (x.setOf h.line) e.tag, ent := d.ent, vec := d.vec, slot := d.slot, lost := d.lost }
    match r.mrd, h.reg with
    | true, some reg => (x.issueRd h.seq h.pkt.hdr h.line reg 6 0).recallStart i { h with rd := true } vic
    | _, _ => x.recallStart i h vic
  | none =>
    if cannotOccur o v then
      (x.eff (.proto v.rq 1 cREQ o)).recallStart i h
        { way := h.way.getD 0, line := h.line, ent := h.ent, vec := h.vec, slot := h.oldPal, lost := h.lost }
    else if o = oRdO ∧ (isU v.st ∨ isO v.st) ∧ v.ow = v.rq then (x.eff (.proto v.rq 1 cREQ o)).rowStep i h
    else x.rowStep i h

/-- D9 of HTC `i` (R104, R123, R161, R189): the proxy slot of an AtP, then a data-buffer line. A victim in H whose slot the
AtP takes leaves its way free. A search that starts a sweep of the HTC's own set sends it back to D0 (R426). -/
def PX.proxyStep (x : PX) (i : Nat) (h : Htc) (victim : Option (Nat × Ent)) : PX :=
  let go (x : PX) (h : Htc) (victim : Option (Nat × Ent)) : PX :=
    if x.setOf h.line ∈ x.pn.sweeping then x.backToD0 i h
    else if ¬ x.bufNeed h victim.isSome then x.launch i h victim
    else if h.bufs = 0 ∧ ¬ x.bufFree then x.holdHtc i h .buffer
    else x.launch i { h with bufs := 1 } victim
  if h.pkt.hdr.opc = oAtP ∧ h.ent.st ≠ 8 then
    match x.takeProxy i h with
    | (x, none) => if x.setOf h.line ∈ x.pn.sweeping then x.backToD0 i h else x.holdHtc i h .proxy
    | (x, some k) =>
      let h' := { h with pslot := some k }
      match victim with
      | some (w, e) =>
        if e.st = 8 ∧ e.agent = k ∧ h.pslot.isNone then go x { h' with way := some w, pick := none } none else go x h' victim
      | none => go x h' none
  else go x h victim

/-- D7 and D8 of HTC `i` (R55, R56, R161, R166): the way that a line not found takes, where it needs one; a free way, or a victim with
its way, is held from here on. `d8` is the HCLK of its D8, which a comet records (R507). -/
def PX.wayStep (x : PX) (i : Nat) (h : Htc) (ents : List (Nat × Ent)) (d8 : Nat) : PX :=
  let d8 := h.stamp 3 d8 true
  if h.way.isSome ∨ h.pkt.hdr.opc = oRdO ∨ h.pkt.hdr.opc = oWrU then x.proxyStep i d8 none
  else
    let set := x.setOf h.line
    match x.pickWay i set ents with
    | none => x.holdHtc i h .way
    | some (w, none) => x.proxyStep i { d8 with way := some w } none
    | some (w, some e) =>
      x.proxyStep i { d8 with pick := some { way := w, line := x.s.unhash x.p set e.tag, ent := e, vec := 0 } } (some (w, e))

/-- How many corrections at D5 the step has made (R161). -/
def PX.fixes (x : PX) : Nat := (x.effs.filter fun e => match e with | .event c _ _ => decide (c = 0x0F) | _ => false).length

/-- D2 to D6 of HTC `i`: read the set and find the line's entry (R55, R161, R425, R426). Its D8 comes 6 HCLK later, and 4 more when a way
was corrected (R161). -/
def PX.decideLine (x : PX) (i : Nat) (h : Htc) : PX :=
  let hm := x.s.hash h.line
  if hm.set ∈ x.pn.sweeping then x.backToD0 i h
  else
    let n := x.fixes
    let (x, rd) := x.readSet i hm.set h.wp
    let d8 := x.s.clk.cyc + 6 + (if x.fixes = n then 0 else 4)
    if rd.bad then (x.sweepTrigger hm.set 0).backToD0 i h
    else
      let hit := rd.ents.find? fun e => decide (e.2.st ≠ 0) && decide (e.2.tag = hm.tag)
      let x := x.eff (.event (if hit.isSome then 5 else 6) 1 (wpOf h.pkt))
      let h := h.stamp 2 x.s.clk.cyc true
      let (x, hd) := x.holders ((hit.map (·.2)).getD {})
      x.wayStep i { h with dread := true, ent := hd.ent, vec := hd.vec, lost := hd.lost, oldPal := hd.slot,
                           way := (hit.map (·.1)).or h.way } rd.ents d8

/-- HTC `i` goes on from the stage it holds at past D2 (R56, R104, R161): one that still needs a way looks at the set as it
stands now, and one that has chosen a victim at the victim's entry, which a WBK or a DirtyHint may have changed (DEDUCED, log
entry 60). -/
def PX.resumeLine (x : PX) (i : Nat) (h : Htc) : PX :=
  let set := x.setOf h.line
  match h.pick with
  | some v =>
    let (x, rd) := x.readWay i set h.wp (x, { ents := [], bad := false }) v.way
    match rd.ents.head? with
    | none => (x.sweepTrigger set 0).backToD0 i h
    | some (w, e) =>
      if e.st = 0 then x.proxyStep i { h with pick := none, way := some w } none else x.proxyStep i h (some (w, e))
  | none =>
    if h.way.isSome ∨ h.pkt.hdr.opc = oRdO ∨ h.pkt.hdr.opc = oWrU then x.proxyStep i h none
    else
      let (x, rd) := x.readSet i set h.wp
      if rd.bad then (x.sweepTrigger set 0).backToD0 i h else x.wayStep i h rd.ents (x.s.clk.cyc + 1)

/-- A request of a region that is not Normal-coherent goes on (R110, R237). -/
def PX.plainGo (x : PX) (i : Nat) (h : Htc) (r : Attr) : PX :=
  if r.kind = 2 ∧ x.deviceAhead h then x.holdHtc i h .device else x.plainServe i h r

/-- D1 and on of a request (R112, R161, R221, R426): what needs no access is answered there, and the rest passes D2 only while its set is
not swept. -/
def PX.decideReq (x : PX) (i : Nat) (h : Htc) : PX :=
  let (x, reg) := x.lookup (h.line * 64)
  let h := { h with reg := reg }
  let swept := decide (x.setOf h.line ∈ x.pn.sweeping) && !x.device h
  match x.check h.pkt.hdr reg with
  | .discard => (x.eff (.proto h.pkt.hdr.src 2 cREQ h.pkt.hdr.opc)).endHtc i h
  | .answer o pe =>
    let x := if pe then x.eff (.proto h.pkt.hdr.src 1 cREQ h.pkt.hdr.opc) else x
    x.answer i h o
  | .zero => if swept then x.backToD0 i h else x.zeroAnswer i h
  | .serve =>
    match reg with
    | none => x.answer i h oDecodeErr
    | some r =>
      if swept then x.backToD0 i h
      else if r.kind = 0 then x.decideLine i { h with tabled := true } else x.plainGo i h r

/-! ### Management recalls and removals (R124, R384, R387) -/

/-- Finish a management recall or removal whose answers are in (R63, R67, R124, R387). -/
def PX.mgmtFinish (x : PX) (i : Nat) (h : Htc) : PX :=
  let set := x.setOf h.line
  let rel (x : PX) : PX := match h.oldPal with | some k => x.release k set | none => x
  let a := h.pkt.hdr.src
  if h.job = .mInv ∧ ¬ h.lost then
    let ow := if isO h.ent.st ∧ ¬ h.gone.getLsbD h.ent.agent then some h.ent.agent else none
    let r := x.formEnt h.oldPal ow (h.vec &&& ~~~(vbit a ||| h.gone ||| x.deadBut ow)) set h.wp
    r.1.startClose i h { r.2.1 with age := h.ent.age } r.2.2
  else if h.job = .mInv then x.startClose i h h.ent 0
  else (rel x).startClose i h {} 0

/-- D1 and on of a management recall or removal (R124, R161, R189, R256, R387, R426). -/
def PX.mgmtGo (x : PX) (i : Nat) (h : Htc) : PX :=
  let hm := x.s.hash h.line
  let (x, reg) := x.lookup (h.line * 64)
  let h := { h with hold := .go, reg := reg }
  if hm.set ∈ x.pn.sweeping then x.holdHtc i h .sweep
  else
    let (x, rd) := x.readSet i hm.set
    if rd.bad then (x.sweepTrigger hm.set 0).holdHtc i h .sweep
    else
    let h := { h with tabled := true }
    match rd.ents.find? fun e => decide (e.2.st ≠ 0) && decide (e.2.tag = hm.tag) with
    | none => x.startClose i { h with way := none } {} 0
    | some (w, e) =>
      let (x, d) := x.holders e
      let h := { h with way := some w, ent := d.ent, vec := d.vec, lost := d.lost, oldPal := d.slot, phase := .collect }
      let a := h.pkt.hdr.src
      let sole := (isU d.ent.st || decide (d.ent.st = 4) || isO d.ent.st) && decide (d.ent.agent = a)
      if h.job = .mInv ∧ ¬ sole then
        if d.vec.getLsbD a then
          let r := x.snoop i h h.line none 0 (vbit a)
          r.1.setHtc i r.2
        else x.startClose i { h with way := none } {} 0
      else
        let r := rowRecall d.ent.st d.ent.agent d.vec
        if r.ow.isSome ∧ ¬ x.bufFree then x.holdHtc i { h with way := none } .buffer
        else
        let h := { h with job := .mRecall, bufs := if r.ow.isSome then 1 else 0 }
        let x := if d.ent.st = 8 then (x.proxyWrite d.ent.agent h.pkt.hdr h.reg none).proxyFree d.ent.agent else x
        let (x, h) := (x.widerEv d.lost r.inv h.wp).snoop i h h.line r.ow r.mode r.inv
        if h.multi ∧ h.owDone then x.mgmtFinish i h else x.setHtc i h

/-! ### D0 to D2 (R161 to R163) -/

/-- D0 of HTC `i`: its decision follows at D2. `again` says that it starts from its wait queue or once more (R159, R426, R437, R507). -/
def PX.enterD0 (x : PX) (i : Nat) (h : Htc) (again : Bool) : PX :=
  x.setHtc i { (h.fresh.stamp 1 (if again then x.s.clk.cyc else smGet h.acc h.stamps 0) true) with
    phase := .decide, hold := .go, start := x.s.clk.cyc }

/-- The HCLK of D2 of an HTC that entered D0 at `h.start`: a lookaside miss inserts 4 HCLK at D1 (R161). -/
def PX.d2At (x : PX) (h : Htc) : Nat := h.start + if (decodeIn x.pn.look (h.line * 64)).isSome then 2 else 6

/-- Every other HTC of the line of HTC `i` waits in its queue. -/
def PX.alone (x : PX) (i : Nat) (l : Nat) : Bool :=
  x.pn.htcs.all fun e => decide (e.1 = i) || !e.2.onLine l || decide (e.2.phase = .queued)

/-- A DirtyHint for the line of HTC `h`, captured at its D1 or earlier, still stands in the panel input: the directory read follows it
(R163). -/
def PX.hintAhead (x : PX) (h : Htc) : Bool :=
  (x.s.q (.panelIn x.p) cRSP).any fun k => decide (k.hdr.opc = oDirtyHint) && decide (k.hdr.addr = h.line) && decide (k.capt < x.d2At h)

/-- An HTC that reads the directory at D2 stands before it. -/
def Htc.undecided (h : Htc) : Bool :=
  (decide (h.job = .req) || decide (h.job = .mRecall) || decide (h.job = .mInv)) && decide (h.phase = .decide) && decide (h.hold = .go)

/-- The D2 of HTC `i` has come: nothing stands between it and its decision but the rest of this HCLK. -/
def PX.due (x : PX) (i : Nat) (h : Htc) : Bool :=
  h.undecided && decide (x.d2At h ≤ x.s.clk.cyc) && x.alone i h.line && !x.hintAhead h

/-- The lookaside entry that HTC `h` decodes with fails its parity at D1: its refill puts D2 off by 4 HCLK (R161, R407). -/
def PX.refills (x : PX) (h : Htc) : Bool := x.u.look && h.undecided && (decodeIn x.pn.look (h.line * 64)).isSome

/-- Decide for HTC `i`, which has reached D2 unless a refill puts it off. -/
def PX.atD2 (x : PX) (i : Nat) (h : Htc) : PX :=
  if x.refills h then (x.lookup (h.line * 64)).1.setHtc i { h with start := h.start + 4 }
  else if h.job = .req then x.decideReq i h else x.mgmtGo i h

/-- The HTCs that have reached D2 take their decisions, in the order of their D2, before a message of this HCLK acts (R162, R163). -/
def PX.pumpGo (x : PX) : PX :=
  let key (h : Htc) : Nat := x.d2At h * 2 ^ 64 + h.seq
  ((x.pn.htcs.filter fun e => x.due e.1 e.2).insertionSort fun a b => key a.2 ≤ key b.2).foldl
    (fun x e => match x.htc? e.1 with
      | some h => if x.due e.1 h then x.atD2 e.1 h else x
      | none => x) x

/-- An HTC in DECIDE goes on from where it holds (R56, R104, R161, R237, R426). -/
def PX.resumeHtc (x : PX) (i : Nat) (h : Htc) : PX :=
  match h.hold, h.reg with
  | .sweep, _ => x.enterD0 i h true
  | .go, _ => x.atD2 i h
  | _, none => x.atD2 i h
  | .way, _ => x.resumeLine i h
  | .device, some r => x.plainGo i h r
  | .proxy, some r | .buffer, some r =>
    if h.job ≠ .req then x.mgmtGo i h else if h.tabled then x.resumeLine i h else x.plainServe i h r

/-! ### Acceptance -/

/-- The panel can accept another message in this HCLK: one a HCLK, one every 2 HCLK during a scan (R148, R449). -/
def PX.acceptTime (x : PX) : Bool :=
  match x.pn.lastAcc with
  | none => true
  | some c => decide (c + (if x.pn.scan.isSome then 2 else 1) ≤ x.s.clk.cyc)

/-- The pool a REQ draws from: the bounded reserve first when it came in a slot (R153, R155). -/
def PX.reqPool (x : PX) (k : Packet) : Option Nat :=
  if k.aux = 1 ∧ x.poolUse 3 < x.pn.bhtc then some 3
  else if x.poolUse 0 < 896 - x.pn.bhtc then some 0 else none

/-- Step the comet LFSR for an accepted request, and tag it when its low K bits are zero (R340, R506). -/
def lfsrStep (v : BitVec 32) : BitVec 32 :=
  let n := v.toNat
  let b := (b2n (bitN n 31) + b2n (bitN n 21) + b2n (bitN n 1) + b2n (bitN n 0)) % 2
  (v <<< 1) ||| BitVec.ofNat 32 b

/-- Comet tagging (R463, R506). -/
def PX.comet (x : PX) (k : Packet) : PX × Bool :=
  let ctl := (x.s.w4g (0x100 * x.p + 8)).toNat
  let v := lfsrStep ((x.s.w4g (0x100 * x.p + 0x10)).setWidth 32)
  let kk := min 16 (bitsN ctl 0 5)
  let tag := bitN ctl 8 && decide (v.toNat % 2 ^ kk = 0) && x.s.dbgOn k.hdr.world
  let x := x.eff (.lfsr v)
  (if tag then x.eff (.event 0x18 1 (wpOf k)) else x, tag)

/-- A message of an agent that the panel holds as dead fails row 1 of R221 and is discarded (R221, R403). -/
def PX.refuseDead (x : PX) (k : Packet) : PX :=
  (x.mod fun n => { n with lastAcc := some x.s.clk.cyc }).eff (.proto k.hdr.src 2 k.hdr.cls k.hdr.opc)

/-- Accept a REQ into an HTC: it joins its line's list, or enters DECIDE (R43, R54, R158). The data of a WrU or an AtP stand in the HTC's
packet, beside the panel's 256 data-buffer lines: no rule reserves a line for them (DESIGN CHOICE, log entry 46). -/
def PX.acceptReq (x : PX) (k : Packet) (pool i : Nat) : PX :=
  let (x, tag) := x.comet k
  let h : Htc := { job := .req, pool := pool, phase := .queued, seq := x.pn.seq, acc := x.s.clk.cyc, pkt := k,
                   line := k.hdr.addr, comet := tag, stamps := [(0, k.capt)] }
  let x := (x.mod fun n => { n with seq := n.seq + 1, lastAcc := some x.s.clk.cyc }).eff (.event 1 1 (wpOf k))
  if x.lineBusy h.line then (x.eff (.event 3 1 (wpOf k))).setHtc i h
  else x.enterD0 i h false

/-! ### Barriers (R241 to R247) -/

/-- A covered writer of the copy of agent `a` accepted as number `n`. -/
def covers (a n : Nat) (who : List (Nat × Nat)) : Bool := who.any fun w => decide (w.1 = a) && decide (w.2 ≤ n)

/-- Write out the proxy lines a copy covers as soon as they are not busy (R244); a line found uncorrectable leaves H
(R433). -/
def PX.ebarProxies (x : PX) (h : Hdr) (a n : Nat) : PX :=
  (x.pn.proxy.filter fun e => covers a n e.2.who).foldl (fun x e =>
    if x.lineBusy e.2.line then x
    else
      let bad := x.u.prx.any fun (u : Nat × Ecc) => decide (u.1 = e.1) && decide (u.2 = .ue)
      let x := x.proxyWrite e.1 h (x.regOf e.2.line)
      if bad then
        match x.findWay noHtc e.2.line (some (h.world, h.part)) with
        | (x, some (w, d)) => if d.st = 8 ∧ d.agent = e.1 then (x.setWay (x.setOf e.2.line) w {}).proxyFree e.1 else x
        | (x, none) => x
      else x) x

/-- A barrier copy is complete at this panel (R243). -/
def PX.ebarDone (x : PX) (a n : Nat) : Bool :=
  !(x.pn.htcs.any fun e => decide (e.2.job = .req) && decide (e.2.pkt.hdr.src = a) &&
      (decide (e.2.pkt.hdr.opc = oWrU) || decide (e.2.pkt.hdr.opc = oAtP)) && decide (e.2.seq < n) &&
      decide (e.2.phase ≠ .close)) &&
  !(x.pn.wrs.any fun e => covers a n e.2.who) && !(x.pn.proxy.any fun e => covers a n e.2.who)

/-- Advance every barrier copy: write covered proxy lines, and send the completions that are due (R243 to R245). -/
def PX.pumpEbar (x : PX) : PX :=
  (x.pn.htcs.filter fun e => e.2.job = .ebar ∧ e.2.phase = .collect).foldl (fun x e =>
    let a := e.2.pkt.hdr.src
    let x := x.ebarProxies e.2.pkt.hdr a e.2.seq
    if x.ebarDone a e.2.seq then
      let err := x.pn.errs.getLsbD a
      let x := x.mod fun n => { n with errs := n.errs &&& ~~~(vbit a) }
      let r : Hdr := { cls := cRSP, opc := oEBarDone, prio := e.2.pkt.hdr.prio, src := nPanel0 + x.p, dst := nRoot,
                       tag := e.2.pkt.hdr.tag, htc := 1, world := e.2.pkt.hdr.world, part := e.2.pkt.hdr.part,
                       err := if err then 1 else 0 }
      (x.send { hdr := r, aux := a }).startClose e.1 e.2 {} 0
    else x) x

/-- Accept a barrier copy in an HTC outside every wait queue (R243). -/
def PX.acceptEbar (x : PX) (k : Packet) (pool i : Nat) : PX :=
  let h : Htc := { job := .ebar, pool := pool, phase := .collect, seq := x.pn.seq, acc := x.s.clk.cyc, pkt := k, line := 0,
                   stamps := [(0, k.capt)] }
  (((x.mod fun n => { n with seq := n.seq + 1, lastAcc := some x.s.clk.cyc }).eff (.event 1 1 (wpOf k))).setHtc i h).pumpEbar

/-! ### Translation services (R249 to R253) -/

/-- The descriptor as Dreavo sends it on: reserved bits zero and WORLD from the request (R250). -/
def tivDesc (d : BitVec 256) (world : Nat) : BitVec 256 :=
  let n := d.toNat
  BitVec.ofNat 256 (bitsN n 0 128 + bitsN n 128 4 * 2 ^ 128 + world % 2 * 2 ^ 136)

/-- TIvDone and the TSyDone that waited for it (R252, R253). -/
def PX.tivDone (x : PX) (i : Nat) (h : Htc) : PX :=
  let x := (x.sendRsp i h.pkt.hdr oTIvDone 0 0).startClose i h {} 0
  let a := h.pkt.hdr.src
  (x.pn.htcs.filter fun e => e.2.job = .tsy ∧ e.2.phase = .collect ∧ e.2.pkt.hdr.src = a).foldl (fun x e =>
    if x.pn.htcs.any fun t => decide (t.2.job = .tiv) && decide (t.2.pkt.hdr.src = a) && decide (t.2.seq < e.2.seq) &&
        decide (t.2.phase ≠ .close)
    then x else (x.sendRsp e.1 e.2.pkt.hdr oTSyDone 0 0).startClose e.1 e.2 {} 0) x

/-- Accept a TIv: the targets are the translation mask of the sender's partition less the sender (R251). -/
def PX.acceptTiv (x : PX) (k : Packet) (pool i : Nat) : PX :=
  let set := x.s.caching (fun p => decide (p.part = k.hdr.part) && bitN p.mode.feats 4) &&& ~~~(vbit k.hdr.src)
  let n := popc set
  let h : Htc := { job := .tiv, pool := pool, phase := .collect, seq := x.pn.seq, acc := x.s.clk.cyc, pkt := k, line := 0,
                   tset := set, expect := n, stamps := [(0, k.capt)] }
  let x := x.mod fun p => { p with seq := p.seq + 1, lastAcc := some x.s.clk.cyc }
  let d := tivDesc k.desc k.hdr.world
  let hd : Hdr := { cls := cSNP, opc := oSnpTIv, prio := k.hdr.prio, src := nPanel0 + x.p, htc := x.htcField i,
                    world := k.hdr.world, part := k.hdr.part,
                    dst := if n = 1 then (lowest set).getD 0 else nMulti }
  if n = 0 then x.tivDone i h
  else ((x.send { hdr := hd, vec := set, desc := d }).eff (.event (if n = 1 then 0x0C else 0x0B) 1 (wpOf k))).setHtc i h

/-- Accept a TSy (R253). -/
def PX.acceptTsy (x : PX) (k : Packet) (pool i : Nat) : PX :=
  let h : Htc := { job := .tsy, pool := pool, phase := .collect, seq := x.pn.seq, acc := x.s.clk.cyc, pkt := k, line := 0,
                   stamps := [(0, k.capt)] }
  let x := x.mod fun p => { p with seq := p.seq + 1, lastAcc := some x.s.clk.cyc }
  if x.pn.htcs.any fun t => decide (t.2.job = .tiv) && decide (t.2.pkt.hdr.src = k.hdr.src) && decide (t.2.phase ≠ .close)
  then x.setHtc i h
  else (x.sendRsp i k.hdr oTSyDone 0 0).startClose i h {} 0

end Sys2Proof.Machine
end

