-- ==== Sys2Proof/Machine/Evict.lean ====
section
/-! DEFINITION. Evictions at a panel (R127 to R129, R147, R148, R153, R154, R162, R164, R222) and the outcomes of an
owner's answer (R131, R446, R447). -/

namespace Sys2Proof.Machine

/-! ### The owner of a line in transaction -/

/-- The entry whose owner an HTC snoops: the victim's in RECALL, its own line's elsewhere. -/
def Htc.subject (h : Htc) : Ent :=
  match h.phase, h.vict with
  | .recall, some v => v.ent
  | _, _ => h.ent

/-- The line an HTC snoops. -/
def Htc.subjectLine (h : Htc) : Nat :=
  match h.phase, h.vict with
  | .recall, some v => v.line
  | _, _ => h.line

/-- The region through which an HTC writes the line it snoops. -/
def PX.subjectReg (x : PX) (h : Htc) : Option Attr :=
  match h.phase, h.vict with
  | .recall, some v => x.regOf v.line
  | _, _ => h.reg.or (x.regOf h.line)

/-- The HTC sends its requester a line (it is no recall, WrU or AtP). -/
def Htc.owesLine (h : Htc) : Bool :=
  decide (h.job = .req) && decide (h.phase ≠ .recall) && decide (h.pkt.hdr.opc ≤ 4) && decide (h.plan.dsrc ≠ 3)

/-- Read memory for an HTC whose owner returns nothing and that has no line to send (R131). -/
def PX.readFor (x : PX) (h : Htc) : PX × Htc :=
  if h.owesLine ∧ ¬ h.rd ∧ ¬ h.sentData ∧ ¬ h.owFwdSeen then
    match h.reg with
    | some r => (x.issueRd h.seq h.pkt.hdr h.line r 6 0 h.wp, { h with rd := true })
    | none => (x, h)
  else (x, h)

/-- The HTC serves a WrU with its row (R122). -/
def Htc.writes (h : Htc) : Bool := decide (h.job = .req) && decide (h.phase ≠ .recall) && decide (h.pkt.hdr.opc = oWrU)

/-- The Lost outcome of R131 for owner `a`: no DataFwd of it is awaited or kept any more (R446). The MPoison in which a masked WrU ends
covers its writer (R131, R243, R452). -/
def PX.ownerLost (x : PX) (h : Htc) (a : Nat) : PX × Htc :=
  let who := if h.writes ∧ wruMask h.pkt ≠ BitVec.allOnes 64 then [(h.pkt.hdr.src, h.seq)] else []
  let snp := if h.owSnp ∈ [3, 5, 7] then 0 else h.owSnp
  let h := { h with gone := h.gone ||| vbit a, owNeed := false, owEvict := false, owSnp := snp, fwd := none }
  if h.subject.st = 2 then x.readFor h
  else
    let x := x.poisonLine h.pkt.hdr h.subjectLine (x.subjectReg h) who h.wp
    let bad : Buf := { data := 0, poison := true }
    (x, { h with owLost := true, buf := if h.owesLine then some bad else none })

/-- The line that the home waited for is here: it is written to memory, but for a WrU, which merges it (R96, R122,
R131). -/
def PX.takeFwd (x : PX) (h : Htc) (b : Buf) : PX × Htc :=
  (if h.writes then x else x.writeLine h.pkt.hdr h.subjectLine (x.subjectReg h) b [] true h.wp, { h with buf := some b, owNeed := false })

/-- A DataFwd of owner `a` that came before its SnpAck and that the SnpAck does not announce: no HTC awaited it (R147). -/
def PX.dropFwd (x : PX) (a : Nat) (b : Option Buf) : PX := if b.isSome then x.eff (.proto a 1 cDAT oDataFwd) else x

/-- Agent `a` is dead: the panel holds it so, or its port has entered DEAD (R445, R447). -/
def PX.isDead (x : PX) (a : Nat) : Bool :=
  x.pn.dead.getLsbD a || (match x.s.slotOfAgent a with | some n => decide ((x.s.port n).lstate = .dead) | none => false)

/-- The owner's SnpAck with flags of R84 (R131). Under Lost, and of an owner that is dead, a DataFwd that came before is discarded and is
no error (R128, R446). -/
def PX.ownerAck (x : PX) (i : Nat) (h : Htc) (a marks : Nat) (notHeld : Bool) : PX × Htc :=
  let fwd := bitN marks 2
  let held := h.fwd
  let (x, h) := x.sendWithheld i
    { h with owAck := true, owKept := bitN marks 3, owFwdSeen := fwd && decide (h.plan.dsrc = 2), fwd := none }
  if notHeld then ((x.dropFwd a held).eff (.proto a 5 cRSP oSnpAck)).ownerLost h a
  else if bitN marks 0 then x.ownerLost h a
  else if h.fwdCut ∧ h.owFwdSeen then x.ownerLost { h with owFwdSeen := false } a
  else if bitN marks 1 then
    let x := x.dropFwd a held
    if h.gone.getLsbD a then (if h.buf.isSome then (x, h) else x.readFor h)
    else if x.pn.dead.getLsbD a then x.ownerLost h a
    else (x, { h with owEvict := true })
  else if fwd ∧ h.owSnp ∈ [3, 5, 7] ∧ h.buf.isNone then
    if x.pn.dead.getLsbD a then x.ownerLost h a else
    match held with
    | some b => x.takeFwd h b
    | none => (x, { h with owNeed := true })
  else (x.dropFwd a held, h)

/-! ### Absorbing -/

/-- The owner has answered its snoop, and sends nothing that the answer announced. -/
def Htc.answered (h : Htc) (a : Nat) : Bool := decide (h.ow = some a) && h.owAck && !h.owEvict

/-- The owner has answered a snoop after which it holds nothing: it is no holder any more (R117, R128, R147). -/
def Htc.leftBy (h : Htc) (a : Nat) : Bool := h.answered a && decide (h.owSnp ∈ [4, 5, 7])

/-- Agent `a` still owns the line that the HTC snoops: its answer has not made it a sharer (R117, R131). -/
def Htc.owns (h : Htc) (a : Nat) : Bool :=
  (decide (h.ow = some a) || decide (h.subject.owner = some a)) &&
  !(h.answered a && (decide (h.owSnp ∈ [2, 3]) || (decide (h.owSnp = 1) && !h.owKept)))

/-- Absorb a WBK in the HTC that holds its line (R129, R131, R147, R164, R321): of an owner that has still to answer a snoop
the acknowledgement is withheld, of one in DECIDE too, whom the row will snoop. A WBK of the requester, recorded as owner,
cannot occur. The data stands in the HTC's line of the data buffer, which an HTC that has reserved none has beside the 256 (DESIGN
CHOICE, log entry 46). -/
def PX.absorb (x : PX) (i : Nat) (h : Htc) (k : Packet) : PX × Htc :=
  let a := k.hdr.src
  let rq := decide (h.job = .req) && decide (a = h.pkt.hdr.src) && decide (h.phase ≠ .recall)
  let isOw := h.owns a
  let late := (decide (h.ow = some a) && !h.owAck) || (decide (h.phase = .decide) && decide (h.ent.owner = some a) && !rq)
  let line := h.subjectLine
  let mark := if late then 2 ^ 64 + a else x.pn.seq
  let dirty := k.hdr.opc ≠ oEvC
  let odd := dirty && !isOw
  let x := if rq ∨ odd then x.eff (.proto a 1 cWBK k.hdr.opc) else x
  let h := if odd ∧ ¬ h.tset.getLsbD a then h else { h with gone := h.gone ||| vbit a }
  let (x, h) :=
    if dirty ∧ isOw then
      let b : Buf := { data := k.data, poison := k.hdr.poison }
      (x.writeLine h.pkt.hdr line (x.subjectReg h) b [(a, mark)] true h.wp,
        { h with buf := some b, wrIssued := h.wrIssued || decide (h.pkt.hdr.opc = oWrU), owEvict := false })
    else if rq ∧ isOw ∧ (h.ent.st = 3 ∨ isO h.ent.st) then
      (x.poisonLine h.pkt.hdr line (x.subjectReg h) [] h.wp, { h with owEvict := false })
    else if isOw ∧ h.owEvict then x.readFor { h with owEvict := false }
    else (x, h)
  if late then (x, { h with withheld := h.withheld ++ [k] })
  else (x.sendRsp i k.hdr (if k.hdr.opc = oEvC then oEvAck else oWbAck) 0 0, h)

/-! ### Processing under R127 -/

/-- Acknowledge a WBK. -/
def PX.ackWbk (x : PX) (i : Nat) (k : Packet) : PX :=
  x.sendRsp i k.hdr (if k.hdr.opc = oEvC then oEvAck else oWbAck) 0 0

/-- Close a writeback HTC with an entry to write, after the invalidations that `inv` needs (R67, R160). -/
def PX.wbkClose (x : PX) (i : Nat) (h : Htc) (way : Option Nat) (fin : Ent) (inv : Vec) : PX :=
  let (x, h) := if inv = 0 then (x, { h with expect := 0, sum := 0, tset := 0, acked := 0 })
    else x.snoop i h h.line none 0 inv
  x.setHtc i { h with phase := .close, way := way, fin := fin, closeAt := x.s.clk.cyc }

/-- The removal of agent `a`, holder but not sole owner, from an entry, and of dead agents with it (R63 to R67, R97, R127, R450). -/
def PX.removeHolder (x : PX) (i : Nat) (h : Htc) (way : Nat) (d : Hold') (a : Nat) : PX :=
  let set := x.setOf h.line
  let ow := if isO d.ent.st ∧ d.ent.agent ≠ a then some d.ent.agent else none
  let r := x.formEnt d.slot ow (d.vec &&& ~~~(vbit a ||| x.deadBut ow)) set h.wp
  r.1.wbkClose i h (some way) { r.2.1 with age := d.ent.age } r.2.2

/-- An owner of an O-pal line leaves, on a trusted or a lost slot (R97, R127). -/
def PX.ownerLeaves (x : PX) (i : Nat) (h : Htc) (way : Nat) (d : Hold') (a : Nat) : PX :=
  if d.lost then
    let x := match d.slot with | some k => x.release k (x.setOf h.line) | none => x
    let inv := d.vec &&& ~~~(vbit a)
    (x.widerEv true inv h.wp).wbkClose i h (some way) {} inv
  else x.removeHolder i h way d a

/-- What the checks make of a WBK, before its line's entry counts (R110, R147, R222). -/
inductive WbkCheck
  | discard | ack (ctr odd : Bool) | write (r : Attr) | entry (r : Attr)
deriving DecidableEq, Repr

/-- The checks of a WBK: rows 1, 4 and 5 of R221, the sender's kind, and the region. One that came before its sender's death
marker is checked as if the agent lived (R447). One for a Device line, of which no rule speaks, is acknowledged, its data discarded, and no
error (DESIGN CHOICE, log entry 46). -/
def PX.wbkCheck (x : PX) (k : Packet) (reg : Option Attr) (early : Bool) : WbkCheck :=
  let y := if early then x.mod fun n => { n with dead := n.dead &&& ~~~(vbit k.hdr.src) } else x
  if ¬ y.admitted k.hdr then .discard
  else match reg with
    | none => .ack false false
    | some r =>
      if r.kind = 0 ∧ ¬ x.s.build.inSpan k.hdr.addr then .ack false false
      else if k.hdr.world = 1 ∧ r.world = 0 then .ack true false
      else if (x.s.portOf k.hdr.src).mode.kind ≠ 1 then .ack false true
      else if r.kind = 0 then .entry r
      else if r.kind = 2 ∨ k.hdr.opc = oEvC then .ack false false
      else .write r

/-- The effects of a WBK that the checks discard or acknowledge without access (R147, R222, R225); none where it goes on. -/
def PX.wbkRefused (x : PX) (i : Nat) (k : Packet) : WbkCheck → Option PX
  | .discard => some (x.eff (.proto k.hdr.src 2 cWBK k.hdr.opc))
  | .ack ctr odd =>
    let x := if ctr then x.eff (.ctr 0x30 1) else x
    some ((if odd then x.eff (.proto k.hdr.src 1 cWBK k.hdr.opc) else x).ackWbk i k)
  | .write _ | .entry _ => none

/-- Trigger a sweep of the WBK's set and leave the WBK parked for it (R425, R427, R431). -/
def PX.wbkSweep (x : PX) (i : Nat) (h : Htc) : PX :=
  (x.sweepTrigger (x.setOf h.line) 0).setHtc i { h with phase := .queued }

/-- Process a WBK in writeback HTC `i` (R110, R127, R147, R222, R225, R447). With `stale` the sender is no recorded holder of
a line that is busy under another HTC. -/
def PX.processWbk (x : PX) (i : Nat) (h : Htc) (stale : Bool) : PX :=
  let k := h.pkt
  let a := k.hdr.src
  let early := (x.htc? i).isSome
  let (x, reg) := x.lookup (h.line * 64)
  let h := { h with reg := reg, start := x.s.clk.cyc }
  let shut (x : PX) : PX := x.wbkClose i h none {} 0
  let done (x : PX) : PX := shut (x.ackWbk i k)
  let odd (x : PX) : PX := x.eff (.proto a 1 cWBK k.hdr.opc)
  let c := x.wbkCheck k reg early
  let wr (x : PX) (r : Attr) : PX := x.writeLine k.hdr h.line (some r) { data := k.data, poison := k.hdr.poison } [(a, x.pn.seq)]
  match x.wbkRefused i k c, c with
  | some y, .discard => if early then shut y else y
  | some y, _ => shut y
  | none, .write r => done (wr x r)
  | none, .entry r =>
    if stale then done (if k.hdr.opc = oEvC then x else odd x)
    else
      let rd := x.readSet i (x.setOf h.line) h.wp
      let x := rd.1
      let tag := (x.s.hash h.line).tag
      if rd.2.bad then x.wbkSweep i h
      else match rd.2.ents.find? fun e => decide (e.2.st ≠ 0) && decide (e.2.tag = tag) with
      | none => done (if k.hdr.opc = oEvC then x else odd x)
      | some (w, e) =>
        let (x, d) := x.holders e
        let st := d.ent.st
        let owner := (isU st || isO st) && decide (d.ent.agent = a)
        let empty (x : PX) : PX :=
          (match d.slot with | some q => x.release q (x.setOf h.line) | none => x).wbkClose i h (some w) {} 0
        if k.hdr.opc = oEvC then
          if owner ∧ (st = 3 ∨ isO st) then
            let x := ((odd x).ackWbk i k).poisonLine k.hdr h.line (some r) []
            if st = 7 then x.ownerLeaves i h w d a else empty x
          else if owner then (x.ackWbk i k).wbkClose i h (some w) {} 0
          else if d.lost ∨ ¬ d.vec.getLsbD a then done x
          else (x.ackWbk i k).removeHolder i h w d a
        else if owner then
          let x := if (isU st && decide (k.hdr.opc = oWbO)) || (isO st && decide (k.hdr.opc = oWbD)) then odd x else x
          let x := (wr x r).ackWbk i k
          if st = 7 then x.ownerLeaves i h w d a else empty x
        else done (odd x)
  | none, _ => x

/-- A set sweep absorbs a WBK of a line of its set (R147, R222, R225, R427, R430): `q` is the sweep's header. -/
def PX.sweepWbk (x : PX) (i : Nat) (q : Hdr) (k : Packet) (early : Bool) : PX :=
  let reg := x.regOf k.hdr.addr
  match x.wbkRefused i k (x.wbkCheck k reg early) with
  | some y => y
  | none =>
    (if k.hdr.opc = oEvC then x
     else x.writeLine q k.hdr.addr reg { data := k.data, poison := k.hdr.poison } [(k.hdr.src, x.pn.seq)] true none).ackWbk i k

/-! ### Acceptance of a WBK -/

/-- What becomes of a WBK at acceptance (R128, R129, R154). -/
inductive WbkFate
  | absorb (i : Nat) | sweep (i : Nat) | park | process (stale : Bool) | oddAck
deriving DecidableEq, Repr

/-- The sweep HTC of a set. -/
def PX.sweepOf (x : PX) (set : Nat) : Option (Nat × Htc) :=
  x.pn.htcs.find? fun e => decide (e.2.job = .sweep) && decide (e.2.line = set)

/-- The requester of HTC `h` sent the WBK: a cell of R128 that cannot occur before its Comp. -/
def Htc.fromRq (h : Htc) (k : Packet) : Bool := decide (h.job = .req) && decide (h.pkt.hdr.src = k.hdr.src)

/-- The column RECALL of R128 for a WBK naming the line that HTC `i` recalls. Of Rq whose own copy is recalled, whom the table names
twice, it is absorbed as the victim's owner's is, and no error (DESIGN CHOICE, log entry 46). -/
def Htc.recallFate (h : Htc) (i a : Nat) : WbkFate :=
  if h.gone.getLsbD a then .oddAck
  else if h.leftBy a then .process true
  else if h.ow = some a ∨ h.subject.owner = some a ∨ h.tset.getLsbD a then .absorb i
  else if (match h.vict with | some v => v.vec.getLsbD a | none => false) then .park else .process true

/-- The column DECIDE of R128 once the directory has been read: the sets of the row to come take the place of those
sent. An EvC of an Rq recorded as a sharer, which cannot occur and for which R147 has no row, is answered and changes nothing (DESIGN
CHOICE, log entry 46). -/
def PX.decideFate (x : PX) (i : Nat) (h : Htc) (k : Packet) : WbkFate :=
  let a := k.hdr.src
  let owner := decide (h.ent.owner = some a)
  if h.gone.getLsbD a ∨ (h.fromRq k ∧ ¬ owner) then .oddAck
  else if owner ∨ (rowOf h.pkt.hdr.opc (x.view h)).inv.getLsbD a then .absorb i
  else if h.vec.getLsbD a then .park else .process true

/-- The columns COLLECT and GRANT of R128. -/
def Htc.workFate (h : Htc) (i : Nat) (k : Packet) : WbkFate :=
  let a := k.hdr.src
  if h.fromRq k ∧ h.phase = .grant then .park
  else if h.gone.getLsbD a then .oddAck
  else if h.leftBy a then .process true
  else if h.ow = some a ∨ h.subject.owner = some a ∨ h.tset.getLsbD a then .absorb i
  else if h.fromRq k then .oddAck
  else if h.vec.getLsbD a then .park else .process true

/-- A request of HTC `h` that its checks refuse, or that R110 serves (R128). -/
def PX.outside (x : PX) (h : Htc) : Bool :=
  decide (h.job = .req) && !h.tabled &&
  (let reg := h.reg.or (x.regOf h.line)
   decide (x.check h.pkt.hdr reg ≠ .serve) || (match reg with | some r => decide (r.kind ≠ 0) | none => true))

/-- A writeback HTC works on line `l` (R160). -/
def PX.wbkBusy (x : PX) (l : Nat) : Bool :=
  x.pn.htcs.any fun e => decide (e.2.job = .wbk) && decide (e.2.line = l) && decide (e.2.phase ≠ .queued)

/-- The fate of a WBK under R127 to R129, R162, R427. At a line whose head HTC is in CLOSE, or is a writeback HTC in its 8
HCLK of R160, which the table of R128 does not name, it is parked (DESIGN CHOICE, log entry 46); a WBK of the line of a victim that is
chosen and not yet recalled is processed, and the recall finds what it left (DEDUCED, log entry 60). While a writeback HTC still narrows
the line, the next WBK is parked and takes its turn when that HTC is free, before the decision (R129, R160, R162). -/
def PX.wbkFate (x : PX) (k : Packet) : WbkFate :=
  let l := k.hdr.addr
  let set := x.setOf l
  let swept : WbkFate :=
    match x.sweepOf set with
    | some (i, h) => if h.phase = .collect then .sweep i else .park
    | none => .park
  let open' : WbkFate := if x.swept l then swept else if x.wbkBusy l then .park else .process false
  match x.headOf l with
  | none =>
    if x.swept l then swept
    else if x.pn.htcs.any fun e => decide (e.2.job = .wbk) && decide (e.2.line = l) then .park
    else .process false
  | some (i, h) =>
    if h.job = .wbk then .park
    else match h.phase with
      | .decide =>
        if h.line ≠ l then open'
        else if h.dread then x.decideFate i h k
        else if x.outside h then .park
        else open'
      | .recall =>
        if h.subjectLine = l then h.recallFate i k.hdr.src else if h.fromRq k then .oddAck else .process true
      | .collect | .grant => if h.job = .req ∧ ¬ h.tabled then .park else h.workFate i k
      | .queued | .close => .park

/-- Process an accepted WBK in writeback HTC `i`. One accepted before the directory read of the line's head HTC is over when
that HTC reads (R162); one of its requester cannot occur, and is counted so (R128, R147). -/
def PX.processNew (x : PX) (i : Nat) (h : Htc) (stale : Bool) : PX :=
  let head := (x.headOf h.line).filter fun e => decide (e.2.phase = .decide)
  let y := x.processWbk i h stale
  let errs (x : PX) : Nat := (x.effs.filter fun e => match e with | .proto _ _ c _ => decide (c = cWBK) | _ => false).length
  match head with
  | none => y
  | some (_, g) =>
    let y := if g.line = h.line ∧ g.fromRq h.pkt ∧ errs y = errs x then y.eff (.proto h.pkt.hdr.src 1 cWBK h.pkt.hdr.opc) else y
    match y.htc? i with
    | some c =>
      if c.phase = .close ∧ c.multi then
        match c.way with
        | some w =>
          let hm := y.s.hash h.line
          (y.setWay hm.set w (if c.fin.st = 0 then {} else { c.fin with tag := hm.tag })).dropHtc i
        | none => y.dropHtc i
      else y
    | none => y

/-- The HTC that heads the line of a WBK is past its D1 and has not read the directory yet: the WBK, accepted at D2 or later, waits for
its decision (R162). -/
def PX.readsFirst (x : PX) (l : Nat) : Bool :=
  match x.headOf l with
  | some (_, h) => decide (h.line = l) && h.undecided && decide (x.d2At h ≤ x.s.clk.cyc)
  | none => false

/-- Accept a WBK with a fate; none where it must wait for a writeback HTC, or for a decision (R149, R153, R162). -/
def PX.takeWbk (x : PX) (k : Packet) : Option (PX × Option Nat) :=
  let note (x : PX) : PX := (x.mod fun n => { n with lastAcc := some x.s.clk.cyc }).eff (.event 2 1 (wpOf k))
  let fate := x.wbkFate k
  if x.readsFirst k.hdr.addr then none else
  match fate with
  | .absorb i =>
    let y := note x
    match x.htc? i, y.wbkRefused i k (y.wbkCheck k (y.regOf k.hdr.addr) false) with
    | some _, some z => some (z, some i)
    | some h, none =>
      let r := (y.eff (.event 0x13 1 (wpOf k))).absorb i h k
      some (r.1.setHtc i r.2, some i)
    | none, _ => none
  | .sweep i => (x.htc? i).map fun h => (((note x).eff (.event 0x13 1 (wpOf k))).sweepWbk i h.pkt.hdr k false, none)
  | .oddAck =>
    let y := note x
    (match y.wbkRefused 0 k (y.wbkCheck k (y.regOf k.hdr.addr) false) with
      | some z => some (z, none)
      | none => some ((y.eff (.proto k.hdr.src 1 cWBK k.hdr.opc)).ackWbk 0 k, none))
  | .park | .process _ =>
    match x.freeHtc 1 with
    | none => none
    | some i =>
      let h : Htc := { job := .wbk, pool := 1, phase := .queued, seq := x.pn.seq, acc := x.s.clk.cyc, pkt := k,
                       line := k.hdr.addr, stamps := [(0, k.capt)] }
      let x := (note x).mod fun n => { n with seq := n.seq + 1 }
      match fate with
      | .process stale => some (x.processNew i h stale, none)
      | _ => some ((x.eff (.event 0x14 1 (wpOf k))).setHtc i h, none)

/-- Accept a WBK, after the decisions that are due (R149, R153, R162). -/
def PX.acceptWbk (x : PX) (k : Packet) : Option (PX × Option Nat) := x.pumpGo.takeWbk k

/-- The WBK message at the head of the panel input. -/
def State.wbkHead (s : State) (p : Nat) : Option Packet := (s.q (.panelIn p) cWBK).head?

/-- The REQ message at the head of a lane that the panel can accept, with its lane, pool and HTC: of several lanes the
one captured first (R148, R149, R155). -/
def PX.reqReady (x : PX) : Option (Nat × Packet × Nat × Nat) :=
  let c := [cREQ, 8].filterMap fun key =>
    match (x.s.q (.panelIn x.p) key).head? with
    | none => none
    | some k =>
      match x.reqPool k, x.freeHtc 0 with
      | some pool, some i => some (key, k, pool, i)
      | _, _ => none
  c.find? fun a => c.all fun b => decide (a.2.1.capt ≤ b.2.1.capt)

/-- The WBK at the head of the panel input can be accepted in this HCLK. -/
def PX.wbkReady (x : PX) : Option Packet :=
  match x.s.wbkHead x.p with
  | none => none
  | some k => if k.hdr.opc = 63 ∨ (x.acceptWbk k).isSome then some k else none

/-- The REQ that the panel accepts in this HCLK, if any (R148). -/
def PX.reqTurn (x : PX) : Option (Nat × Packet × Nat × Nat) :=
  if ¬ x.acceptTime then none else
  match x.reqReady, x.wbkReady with
  | some r, some w => if w.capt < r.2.1.capt then none else some r
  | some r, none => some r
  | none, _ => none

/-- The WBK that the panel accepts in this HCLK, if any (R148). -/
def PX.wbkTurn (x : PX) : Option Packet :=
  if ¬ x.acceptTime then none else
  match x.wbkReady, x.reqReady with
  | some w, some r => if r.2.1.capt < w.capt then none else some w
  | some w, none => some w
  | none, _ => none

end Sys2Proof.Machine
end

