-- ==== Sys2Proof/Machine/Manage.lean ====
section
/-! DEFINITION. Management HTCs at a panel: recalls and removals for the Easel (R124, R384, R387), set sweeps (R425 to
R430), invalidations of a scan (R450); and `advance`, the one place where an HTC moves on after a message (R112). -/

namespace Sys2Proof.Machine

/-! ### Management HTCs -/

/-- A new management HTC. What it sends, reads and writes carries WORLD 0 and PART 0: R321 names no value for a sweep, a scan or a
management recall (DESIGN CHOICE, log entry 67). -/
def PX.newMgmt (x : PX) (job : Job) (line op agent : Nat) : Htc :=
  { job := job, pool := 2, phase := .queued, seq := x.pn.seq, acc := x.s.clk.cyc,
    pkt := { hdr := { src := agent, addr := line } }, line := line, opId := op }

/-- The panel can take a management request now: it accepts a message in this HCLK, the KCLK has brought it no other, and a management
HTC is free (R148, R152, R153). -/
def PX.mgmtFree (x : PX) : Bool := decide (x.pn.mgmtAt ≠ some x.s.kclk) && (x.freeHtc 2).isSome && x.acceptTime

/-- Note a management request presented to the panel (R152). -/
def PX.mgmtMark (x : PX) : PX := x.mod fun n => { n with mgmtAt := some x.s.kclk }

/-- The panel accepts a management request, which draws a management HTC (R148, R152, R153, R502). -/
def PX.mgmtTake (x : PX) : PX :=
  (x.mgmtMark.mod fun n => { n with seq := n.seq + 1, lastAcc := some x.s.clk.cyc }).eff (.event 0x1A 1 none)

/-- The management HTC of a request whose work is done in one step: it is freed as an HTC in CLOSE is (R153). -/
def PX.mgmtHold (x : PX) (op : Nat) (f : PX → PX) : PX :=
  match x.freeHtc 2 with
  | none => x
  | some i =>
    let h : Htc := { (x.newMgmt .hold 0 op 511) with phase := .close, closeAt := x.s.clk.cyc }
    f (x.mgmtTake.setHtc i h)

/-! ### The set sweep -/

/-- The agents of a set whose settled mode lacks sweep support (R427). -/
def PX.noSweep (x : PX) (v : Vec) : Vec :=
  (members v).foldl (fun a n => if x.s.feat n 2 then a else a ||| vbit n) 0

/-- No other HTC holds a line of the set; those that wait in DECIDE have gone back to D0 (R426, R427). -/
def PX.setClear (x : PX) (i set : Nat) : Bool :=
  !x.pn.htcs.any fun e => e.1 ≠ i &&
    ((e.2.job.ofLine && decide (e.2.phase ≠ .queued) && decide (e.2.phase ≠ .decide) && x.ofSet e.2 set) ||
      (match e.2.vict with | some v => decide (x.setOf v.line = set) | none => false))

/-- The end of a set sweep (R427, R428, R431). -/
def PX.sweepEnd (x : PX) (i : Nat) (h : Htc) : PX :=
  let set := h.line
  let (x, rd) := x.readSet i set
  let held := (rd.ents.filter fun e => e.2.st ≠ 0).length + (16 - rd.ents.length)
  let x := (x.pn.proxy.filter fun e => e.2.htc.isNone && decide (x.setOf e.2.line = set)).foldl (fun x e =>
    (x.proxyWrite e.1 h.pkt.hdr (x.regOf e.2.line) none).proxyFree e.1) x
  let x := rd.ents.foldl (fun x e => if e.2.st = 5 ∨ e.2.st = 7 then x.release e.2.pal set else x) x
  let x := (List.range 16).foldl (fun x w => x.setWay set w {}) x
  let bad := rd.bad || decide (h.tflags = 1)
  let x := if bad then
      ((List.range (4 * x.s.build.palSets)).foldl (fun x k =>
        match smFind x.pn.pal (k * 8 + 4) with
        | none => x
        | some _ =>
          let r := x.readSlot k
          if r.2.valid then r.1.setSlot k { r.2 with uncnt := true, ref := 0 } else r.1) x).recount true
    else x
  let x := ((x.eff (.ctr6 (pnBase x.p + 0x688) 1)).eff (.ctr6 (pnBase x.p + 0x690) held)).eff (.stage 0x70 1)
  let x := if h.cack = some 1 then x.eff (.signal (some 1) none) else x
  (x.mod fun n => { n with sweeping := n.sweeping.filter (· ≠ set) }).startClose i h {} 0

/-- Absorb into sweep `i` the writebacks parked for lines of its set (R427, R430). -/
def PX.sweepParked (x : PX) (i : Nat) (h : Htc) : PX :=
  (x.pn.htcs.filter fun e => e.2.job = .wbk ∧ e.2.phase = .queued ∧ x.ofSet e.2 h.line).foldl (fun x e =>
    (x.sweepWbk i h.pkt.hdr e.2.pkt true).dropHtc e.1) x

/-- Steps 3 to 5 of R427: expel what lacks sweep support when some way is untrusted, then send SnpSweep. -/
def PX.sweepSend (x : PX) (i : Nat) (h : Htc) : PX :=
  let set := h.line
  let bad := (x.readSet i set).2.bad
  let slots := (x.s.ports.filter fun e =>
    e.2.lstate = .admitted ∧ e.2.mode.kind = 1 ∧ ¬ bitN e.2.mode.feats 2).map (·.1)
  let x := if bad then slots.foldl (fun x n => x.eff (.expel n 8)) x else x
  let t := x.s.caching fun p => bitN p.mode.feats 2
  let h := { h with
    phase := .collect, vict := none, ow := none, owAck := true, owNeed := false, owEvict := false, gone := 0,
    tset := t, acked := 0, expect := popc t, sum := 0, fwd := none, tflags := if bad then 1 else 0 }
  let x := x.sweepParked i h
  let hd : Hdr := { cls := cMGT, opc := oSnpSweep, src := nPanel0 + x.p, htc := x.htcField i, addr := set + x.p * 2 ^ 15,
                    dst := if popc t = 1 then (lowest t).getD 0 else nMulti }
  if t = 0 then x.sweepEnd i h
  else ((x.send { hdr := hd, vec := t }).eff (.event (if popc t = 1 then 0x0C else 0x0B) 1 none)).setHtc i h

/-- Step 2 of R427: recall, from the holders without sweep support, the trusted ways from way `h.step` on. -/
def PX.sweepRecall (x : PX) (i : Nat) (h : Htc) : PX :=
  let set := h.line
  let (x, rd) := x.readSet i set
  let cand := rd.ents.foldl (fun (a : PX × Option (Nat × Hold' × Vec)) e =>
    if a.2.isSome ∨ e.1 < h.step ∨ e.2.st = 0 ∨ e.2.st = 8 then a
    else
      let (x, d) := a.1.holders e.2
      let n := x.noSweep d.vec
      let all := if isO d.ent.st ∧ ¬ x.s.feat d.ent.agent 2 then n ||| vbit d.ent.agent else n
      (x, if all = 0 then none else some (e.1, d, all))) (x, none)
  match cand with
  | (x, none) => x.sweepSend i h
  | (x, some (w, d, n)) =>
    let line := x.s.unhash x.p set d.ent.tag
    let r := rowRecall d.ent.st d.ent.agent d.vec
    let ow := match r.ow with | some a => if n.getLsbD a then some a else none | none => none
    let h := { h with
      step := w + 1, phase := .recall, vict := some { way := w, line := line, ent := d.ent, vec := n, lost := d.lost }, gone := 0, buf := none }
    let (x, h) := (x.widerEv d.lost (r.inv &&& n) none).snoop i h line ow r.mode (r.inv &&& n)
    x.setHtc i h

/-- The data-buffer lines that a sweep reserves (R189, R427). -/
abbrev sweepBufs : Nat := 16

/-- A sweep goes on when it can (R427 step 1), its 16 data-buffer lines reserved. -/
def PX.sweepStep (x : PX) (i : Nat) (h : Htc) : PX :=
  match h.phase with
  | .decide =>
    if x.setClear i h.line ∧ (x.pn.htcs.map fun e => e.2.bufs).sum + sweepBufs ≤ 256 then
      x.sweepRecall i { h with bufs := sweepBufs }
    else x.setHtc i h
  | .recall => if h.multi ∧ h.owDone then x.sweepRecall i { h with vict := none, withheld := [] } else x.setHtc i h
  | .collect => if h.multi then x.sweepEnd i h else x.setHtc i h
  | _ => x.setHtc i h

/-- Sweeps that wait for other HTCs of their set look again. -/
def PX.pumpSweeps (x : PX) : PX :=
  (x.pn.htcs.filter fun e => e.2.job = .sweep ∧ e.2.phase = .decide).foldl (fun x e => x.sweepStep e.1 e.2) x

/-- Start the sweep of a set when a trigger waits, the set's last sweep has been freed and a management HTC is free (R425,
R427). -/
def PX.sweepStart (x : PX) (set : Nat) : PX :=
  match x.pn.trigs.find? fun q => q.1 = set with
  | none => x
  | some (_, op) =>
    let rest := x.pn.trigs.filter fun q => q.1 ≠ set
    match x.sweepOf set, x.freeHtc 2 with
    | some e, _ => if e.2.phase = .close then x else x.mod fun n => { n with trigs := rest }
    | none, none => x
    | none, some i =>
      let h : Htc := { (x.newMgmt .sweep set op 511) with phase := .decide, cack := (if op = 1 then some 1 else none) }
      let x := (x.sweepBegin set).mod fun n => { n with seq := n.seq + 1, trigs := rest }
      (x.eff (.event 0x1A 1 none)).sweepStep i h

/-! ### Requests of the Easel (R124, R153, R384, R387, R427) -/

/-- RETIRE at its set: a sweep if a way is untrusted, recalls of what the set still holds, or the empty ways written and the set
remapped (R384). -/
def PX.retireAt (x : PX) (set op : Nat) : PX :=
  let (x, rd) := x.readSet noHtc set
  let held := rd.ents.filter fun e => e.2.st ≠ 0
  if rd.bad then x.sweepTrigger set op
  else if held ≠ [] then x.eff (.ask (held.map fun e => .recall (x.s.unhash x.p set e.2.tag) op false))
  else
    ((((List.range 16).foldl (fun x w => x.setWay set w {}) x).mod fun n => { n with retired := set :: n.retired }).eff (.stage 0x68 1)).eff
      (.opDone op 1)

/-- Corrections and uncorrectable errors that a step found. -/
def found (es : List Eff) : Nat × Nat :=
  es.foldl (fun c e => match e with
    | .elog _ _ ue | .ezlog _ _ ue => if ue then (c.1, c.2 + 1) else (c.1 + 1, c.2)
    | _ => c) (0, 0)

/-- One word of SCRUBQ at a panel: the Restorer reads, checks and corrects it (R384, R390, R421, R425, R543). -/
def PX.scrub (x : PX) (array i : Nat) : PX :=
  let y :=
    if array = 0 then
      let r := x.readWay noHtc (i / 16) none (x, { ents := [], bad := false }) (i % 16)
      if r.2.bad then r.1.sweepTrigger (i / 16) 1 else r.1
    else (x.readSlot i).1
  if (found y.effs).2 = (found x.effs).2 then y else y.eff (.signal (some 1) (some 20))

/-- The panel accepts a request of the Easel in a management HTC (R124, R151 to R153, R387, R425, R502). -/
def PX.presentMgmt (x : PX) (q : MReq) : PX :=
  let start (job : Job) (line op agent : Nat) : PX :=
    match x.freeHtc 2 with
    | none => x
    | some i =>
      let h := x.newMgmt job line op agent
      let x := x.mgmtTake
      if x.lineBusy line then (x.eff (.event 3 1 none)).setHtc i h else x.enterD0 i h false
  match q with
  | .recall line op _ => start .mRecall line op 511
  | .inv line a op => start .mInv line op a
  | .sweep set op =>
    if set ∈ x.pn.sweeping then x.mgmtHold op id
    else ((x.sweepTrigger set op).sweepStart set).mgmtMark.mod fun n => { n with lastAcc := some x.s.clk.cyc }
  | .retire set op => x.mgmtHold op fun x => x.retireAt set op
  | .scrub array i op => x.mgmtHold op fun x => x.scrub array i

/-! ### Moving on -/

/-- An HTC after a message: what its phase and job do next (R112 to R114, R133, R166, R252). In CLOSE only the last acknowledgement of
a narrowing moves the time from which its 3 HCLK count (R112). -/
def PX.advance (x : PX) (i : Nat) (h : Htc) : PX :=
  let x := match h.job, h.phase with
    | .sweep, .close => x.setHtc i h
    | .sweep, _ => x.sweepStep i h
    | .tiv, .collect => if h.multi then x.tivDone i h else x.setHtc i h
    | .mRecall, .collect | .mInv, .collect | .scan, .collect =>
      if h.multi ∧ h.owDone then x.mgmtFinish i h else x.setHtc i h
    | .req, .recall =>
      match h.vict with
      | none => x.setHtc i h
      | some v =>
        if ¬ h.recalled then x.setHtc i h
        else
          let r := x.recallEnd i h v
          if v.line = h.line then r.1.decideLine i { r.2 with phase := .decide }
          else r.1.collectStep i { r.2 with phase := .collect }
    | .req, .collect => if h.tabled then x.collectStep i h else x.plainStep i h
    | .req, .grant => x.grantStep i h
    | _, .close =>
      let late := h.multi && (x.htc? i).any fun (g : Htc) => !g.multi
      x.setHtc i { h with closeAt := if late then x.s.clk.cyc else h.closeAt }
    | _, _ => x.setHtc i h
  x.pumpSweeps.pumpEbar

end Sys2Proof.Machine
end

