-- ==== Sys2Proof/Machine/PanelIn.lean ====
section
/-! DEFINITION. What a panel does with each message at its input, and the life of its HTCs: the meanings of RDS to ATP,
TIV, TSY, EVC, WBD, WBO, WBK_LINE_RELEASE, DIRTYHINT, SNPACK, DATAFWD_TO_HOME, SWEEPDATA, COMPACK, HTC_FREED,
HTC_START_QUEUED, HTC_REPLAY and SET_SWEEP_START. -/

namespace Sys2Proof.Machine

/-- The outcome of a command. -/
abbrev Res := Host.Outcome State Fault Refusal

/-- A command to panel `p`: `t`, and nothing where the build has no such panel, while the block is in reset or while the panel
is frozen (R24, R438, R479). -/
def State.atPanel (s : State) (p : Nat) (t : State) : Res :=
  .next (if s.build.panels ≤ p ∨ s.clk.shut ∨ s.panelFrozen p then s else t)

/-- A command with which panel `p` takes a message from its input: with the root arbiters frozen every panel input is too
(R438). -/
def State.atInput (s : State) (p : Nat) (t : State) : Res := s.atPanel p (if s.clk.frozenRoot then s else t)

/-- A step of panel `p`, after the check of the input record it uses (R407, R438). -/
def State.panelStep (s : State) (p : Nat) (u : Upset) (f : PX → PX) : State :=
  let x := s.px p u
  match u.rcd with
  | .ue => s.commitPx p ((x.eff (.bucket (pnBase p + 0xC0) .ue)).eff (.fatal 3 true false))
  | .ce => s.commitPx p (f (x.eff (.bucket (pnBase p + 0xC0) .ce)))
  | .ok => s.commitPx p (f x)

/-- Take the head of a queue: its buffer is freed and the credit owed (R186). -/
def State.take (s : State) (l : Loc) (key : Nat) : State := (s.setQ l key (s.q l key).tail).owe l key

/-! ### Requests -/

/-- A panel accepts a request of opcode `opc` (R148, R149); of an agent that it holds as dead it discards it (R221, R403). -/
def State.acceptStep (s : State) (p opc : Nat) (u : Upset) : State :=
  match (s.px p u).reqTurn with
  | some (key, k, pool, i) =>
    if k.hdr.opc = opc then
      (s.take (.panelIn p) key).panelStep p u fun x =>
        if x.pn.dead.getLsbD k.hdr.src then x.refuseDead k else (x.acceptReq k pool i).pumpEbar
    else s
  | none => s

/-- RDS (R118). -/
def execRds (p : Nat) (u : Upset) (s : State) : Res := s.atInput p (s.acceptStep p oRdS u)
/-- RDU (R119). -/
def execRdu (p : Nat) (u : Upset) (s : State) : Res := s.atInput p (s.acceptStep p oRdU u)
/-- UPG (R120). -/
def execUpg (p : Nat) (u : Upset) (s : State) : Res := s.atInput p (s.acceptStep p oUpg u)
/-- RDO (R121). -/
def execRdo (p : Nat) (u : Upset) (s : State) : Res := s.atInput p (s.acceptStep p oRdO u)
/-- WRU (R122). -/
def execWru (p : Nat) (u : Upset) (s : State) : Res := s.atInput p (s.acceptStep p oWrU u)
/-- ATP (R123). -/
def execAtp (p : Nat) (u : Upset) (s : State) : Res := s.atInput p (s.acceptStep p oAtP u)

/-- A panel accepts a translation request of opcode `opc`, of a sender that has died too (R221, R249, R251, R253, R448). -/
def State.serviceStep (s : State) (p opc : Nat) : State :=
  match (s.px p {}).reqTurn with
  | some (key, k, pool, i) =>
    if k.hdr.opc = opc then
      (s.take (.panelIn p) key).panelStep p {} fun x =>
        let x := x.eff (.event 1 1 (wpOf k))
        if opc = oTIv then x.acceptTiv k pool i else x.acceptTsy k pool i
    else s
  | none => s

/-- TIV (R251). -/
def execTiv (p : Nat) (s : State) : Res := s.atInput p (s.serviceStep p oTIv)
/-- TSY (R253). -/
def execTsy (p : Nat) (s : State) : Res := s.atInput p (s.serviceStep p oTSy)

/-! ### Evictions -/

/-- A panel accepts a WBK of opcode `opc` (R127 to R129, R148). -/
def State.wbkStep (s : State) (p opc : Nat) (u : Upset) : State :=
  match (s.px p u).wbkTurn with
  | some k =>
    if k.hdr.opc = opc then
      (s.take (.panelIn p) cWBK).panelStep p u fun x =>
        match x.acceptWbk k with
        | some (x, some i) => (match x.htc? i with | some h => x.advance i h | none => x)
        | some (x, none) => x.pumpSweeps.pumpEbar
        | none => x
    else s
  | none => s

/-- EVC (R127). -/
def execEvc (p : Nat) (u : Upset) (s : State) : Res := s.atInput p (s.wbkStep p oEvC u)
/-- WBD (R127). -/
def execWbd (p : Nat) (u : Upset) (s : State) : Res := s.atInput p (s.wbkStep p oWbD u)
/-- WBO (R127). -/
def execWbo (p : Nat) (u : Upset) (s : State) : Res := s.atInput p (s.wbkStep p oWbO u)

/-! ### Responses and data -/

/-- The head of a panel's input queue of a class, when it has this opcode. -/
def State.headIs (s : State) (p cls opc : Nat) : Option Packet :=
  (s.q (.panelIn p) cls).head?.filter fun k => k.hdr.opc = opc

/-- Take the message of this class and opcode at the head of the panel input, and act on it in a panel step. -/
def State.onHead (s : State) (p cls opc : Nat) (u : Upset) (f : Packet → PX → PX) : State :=
  match s.headIs p cls opc with
  | none => s
  | some k => (s.take (.panelIn p) cls).panelStep p u (f k)

/-- A message in a cell marked "cannot occur" is discarded (R147). -/
def PX.discard (x : PX) (k : Packet) (kind : Nat) : PX :=
  if k.hdr.src < 256 then x.eff (.proto k.hdr.src kind k.hdr.cls k.hdr.opc) else x

/-- The HTC a message names. -/
def PX.named (x : PX) (k : Packet) : Option (Nat × Htc) :=
  if k.hdr.htc / 1024 = x.p then (x.htc? (k.hdr.htc % 1024)).map fun h => (k.hdr.htc % 1024, h) else none

/-- Apply a DirtyHint to the entry of its line (R99, R130, R163): one captured after D1 of the line's request finds the
decision taken. An untrusted way starts a sweep of the set (R425). -/
def PX.hint (x : PX) (k : Packet) : PX :=
  let hm := x.s.hash k.hdr.addr
  let late := match x.headOf k.hdr.addr with | some (_, h) => h.undecided && decide (x.d2At h ≤ k.capt) | none => false
  let x := if late then x.pumpGo else x
  let apply (x : PX) : PX :=
    let (x, rd) := x.readSet noHtc hm.set (wpOf k)
    if rd.bad then x.sweepTrigger hm.set 0 else
    match rd.ents.find? fun e => decide (e.2.st = 2) && decide (e.2.tag = hm.tag) with
    | some (w, e) => if e.agent = k.hdr.src then x.setWay hm.set w { e with st := 3 } else x
    | none => x
  match x.headOf k.hdr.addr with
  | none => apply x
  | some (i, h) =>
    if h.phase = .decide ∧ (¬ h.dread ∨ h.line ≠ k.hdr.addr) then apply x
    else if h.job = .req ∧ h.line = k.hdr.addr ∧ (h.phase = .collect ∨ h.phase = .grant) ∧ h.pkt.hdr.src = k.hdr.src then
      x.setHtc i { h with hint := true }
    else x

/-- DIRTYHINT (R130). -/
def execDirtyhint (p : Nat) (u : Upset) (s : State) : Res :=
  s.atInput p (s.onHead p cRSP oDirtyHint u fun k x => x.hint k)

/-- An HTC that may still count an acknowledgement (R128, R147). -/
def Htc.counting (h : Htc) : Bool :=
  decide (h.phase = .recall) || decide (h.phase = .collect) || decide (h.phase = .grant) ||
  (decide (h.phase = .close) && decide (h.sum < h.expect))

/-- A SnpAck at its home: the owner's outcome, or an addition to the sum (R131, R133, R134). -/
def PX.snpAck (x : PX) (k : Packet) : PX :=
  match x.named k with
  | none => x.discard k 1
  | some (i, h) =>
    if ¬ h.counting then x.discard k 1
    else if h.ow = some k.hdr.src ∧ ¬ h.owAck then
      let r := x.ownerAck i h k.hdr.src k.hdr.marks (bitN k.hdr.size 0)
      r.1.advance i (r.2.stamp 5 x.s.clk.cyc true)
    else
      let sum := h.sum + k.hdr.tag % 512
      let x := if h.expect < sum ∧ k.hdr.src < 256 then x.eff (.proto k.hdr.src 6 k.hdr.cls k.hdr.opc) else x
      let x := x.eff (.event 0x0D (k.hdr.tag % 512) h.wp)
      x.advance i ({ h with sum := min sum h.expect, acked := h.acked ||| k.vec }.stamp 5 x.s.clk.cyc true)

/-- SNPACK (R133): an acknowledgement of the RSP class, or of the MGT class (R86). -/
def execSnpack (p : Nat) (mgt : Bool) (u : Upset) (s : State) : Res :=
  s.atInput p (s.onHead p (if mgt then cMGT else cRSP) (if mgt then 32 + oSnpAck else oSnpAck) u fun k x => x.snpAck k)

/-- DataFwd with FSTATE 0b1000 at its home: before its owner's SnpAck it is held, and that SnpAck decides what it is; after it
the HTC waits for it or not (R96, R128, R131, R147, R446). -/
def PX.dataFwd (x : PX) (k : Packet) : PX :=
  let a := k.hdr.src
  if x.isDead a then x
  else match x.named k with
  | none => x.discard k 1
  | some (i, h) =>
    if ¬ (h.phase = .recall ∨ h.phase = .collect ∨ h.phase = .grant) ∨ h.ow ≠ some a ∨ h.owSnp ∉ [3, 5, 7] ∨
        h.buf.isSome ∨ h.fwd.isSome ∨ (h.owAck ∧ ¬ h.owNeed) then x.discard k 1
    else
      let b : Buf := { data := k.data, poison := k.hdr.poison }
      if ¬ h.owAck then x.setHtc i { h with fwd := some b }
      else
        let r := x.takeFwd h b
        r.1.advance i r.2

/-- DATAFWD_TO_HOME (R96). -/
def execDatafwdToHome (p : Nat) (u : Upset) (s : State) : Res :=
  s.atInput p (s.onHead p cDAT oDataFwd u fun k x => x.dataFwd k)

/-- SweepData at its sweep HTC (R430). Its WbAck, and those of the WBKs that the sweep absorbs, travel as RSP, where R86 leaves the class open
(DESIGN CHOICE, log entry 18). -/
def PX.sweepData (x : PX) (k : Packet) : PX :=
  match x.named k with
  | none => x.discard k 1
  | some (i, h) =>
    if h.job ≠ .sweep ∨ h.phase ≠ .collect then x.discard k 1
    else
      let reg := x.regOf k.hdr.addr
      let refused := match reg with
        | none => true
        | some r => decide (k.hdr.world = 1) && decide (r.world = 0)
      let x := if refused then (if reg.isSome then x.eff (.ctr 0x30 1) else x)
        else x.writeLine h.pkt.hdr k.hdr.addr reg { data := k.data, poison := k.hdr.poison } [] true h.wp
      x.sendRsp i { k.hdr with tag := 0 } oWbAck 0 0

/-- Whether a SweepData waits in the panel's DAT input: the directory does not track its line, and no data-buffer line is free
(R189, R427); the panel after the search. -/
def PX.sweepWaits (x : PX) (k : Packet) : PX × Bool :=
  if x.bufFree then (x, false)
  else
    let hm := x.s.hash k.hdr.addr
    let (x, rd) := x.readSet noHtc hm.set
    if rd.bad then (x.sweepTrigger hm.set 0, false)
    else (x, !rd.ents.any fun e => decide (e.2.st ≠ 0) && decide (e.2.tag = hm.tag))

/-- SWEEPDATA (R430). -/
def execSweepdata (p : Nat) (u : Upset) (s : State) : Res :=
  s.atInput p <|
    match s.headIs p cDAT oSweepData with
    | some k =>
      let r := (s.px p u).sweepWaits k
      if r.2 then s.commitPx p r.1 else s.onHead p cDAT oSweepData u fun k x => (x.sweepWaits k).1.sweepData k
    | none => s

/-- CompAck (R114 to R116, R147, R556). -/
def PX.compAck (x : PX) (k : Packet) : PX :=
  match x.named k with
  | none => x.discard k 1
  | some (i, h) =>
    if h.phase ≠ .grant ∨ h.job ≠ .req ∨ 3 < h.pkt.hdr.opc ∨ h.pkt.hdr.src ≠ k.hdr.src ∨ h.cack.isSome then x.discard k 1
    else
      let x := if k.hdr.marks ∈ [1, 2, 3, 4] then x else x.eff (.proto k.hdr.src 1 cRSP oCompAck)
      x.advance i { h with cack := some k.hdr.marks }

/-- COMPACK (R116). -/
def execCompack (p : Nat) (u : Upset) (s : State) : Res :=
  s.atInput p (s.onHead p cRSP oCompAck u fun k x => x.compAck k)

/-! ### The end and the start of HTCs -/

/-- The parked writebacks of a line, oldest first (R129, R159). -/
def PX.parkedOf (x : PX) (l : Nat) : Option (Nat × Htc) :=
  let c := x.pn.htcs.filter fun e => decide (e.2.job = .wbk) && decide (e.2.phase = .queued) && decide (e.2.line = l)
  c.find? fun a => c.all fun b => decide (a.2.seq ≤ b.2.seq)

/-- The parked writebacks of line `l` have their turn: no HTC holds the line, or only one in DECIDE that has not read its entry or that
has chosen it as a victim and not recalled it (R129, R159, R162). -/
def PX.parkTurn (x : PX) (l : Nat) : Bool :=
  !x.swept l && !x.wbkBusy l &&
    (match x.headOf l with | none => true | some (_, h) => decide (h.phase = .decide) && (decide (h.line ≠ l) || !h.dread && !x.outside h))

/-- Process the parked writebacks of a line, oldest first, while they have their turn (R129, R159). -/
def PX.nextParked (x : PX) (l : Nat) : PX :=
  (x.pn.htcs.filter fun e => e.2.job = .wbk ∧ e.2.phase = .queued ∧ e.2.line = l).foldl (fun x _ =>
    match x.parkTurn l, x.parkedOf l with
    | true, some (i, h) => x.processNew i h false
    | _, _ => x) x

/-- What follows when HTC `i` on line `l` has gone: parked writebacks, waiting sweeps, barriers (R159, R243,
R427). -/
def PX.afterFree (x : PX) (l : Nat) : PX := (x.nextParked l).pumpSweeps.pumpEbar

/-- Leave dead agents out of an entry about to be written, by the table of R450, whose last row takes a slot that a scan has emptied
to one holder, or to none: the entry, whether the line is poisoned, the sharers of a dead owner, and whether they are a wider set. -/
def PX.settle (x : PX) (e : Ent) (set : Nat) : PX × Ent × Bool × Vec × Bool :=
  let dead := x.pn.dead.getLsbD e.agent
  if (e.st = 2 ∨ e.st = 4) ∧ dead then (x, {}, false, 0, false)
  else if (e.st = 1 ∨ e.st = 3 ∨ e.st = 6) ∧ dead then (x, {}, true, 0, false)
  else if e.st = 7 ∧ dead then
    let (x, v) := x.readSlot e.pal
    let all := if v.lost then x.wider v else v.vec
    (x.release e.pal set, {}, true, all &&& ~~~(x.pn.dead ||| vbit e.agent), v.lost)
  else if e.st = 5 ∨ e.st = 7 then
    let (x, v) := x.readSlot e.pal
    if v.lost then (x, e, false, 0, false)
    else if e.st = 7 then (if v.vec = vbit e.agent then (x.release e.pal set, { e with st := 6 }, false, 0, false) else (x, e, false, 0, false))
    else match popc v.vec with
      | 0 => (x.release e.pal set, {}, false, 0, false)
      | 1 => (x.release e.pal set, { e with st := 4, agent := (lowest v.vec).getD 0 }, false, 0, false)
      | _ => (x, e, false, 0, false)
  else (x, e, false, 0, false)

/-- The way and the entry that HTC `i` writes as it is freed: those it formed; with none, while some agent is dead, those of its line as
they stand, which a scan has skipped, unless another HTC holds the line (R112, R450). -/
def PX.lastEnt (x : PX) (i : Nat) (h : Htc) : PX × Option (Nat × Ent) :=
  match h.way with
  | some w => (x, some (w, h.fin))
  | none =>
    if x.pn.dead = 0 ∨ ¬ h.job.ofLine ∨ (x.pn.htcs.any fun e => decide (e.1 ≠ i) && e.2.onLine h.line && decide (e.2.phase ≠ .queued)) then
      (x, none)
    else x.findWay noHtc h.line none

/-- Free HTC `i` from CLOSE: its way is written with the entry it formed (R112, R166, R450). -/
def PX.freed (x : PX) (i : Nat) (h : Htc) : PX :=
  let set := x.setOf h.line
  match x.lastEnt i h with
  | (x, none) => (x.endHtc i h).afterFree h.line
  | (x, some (w, fin)) =>
    let (x, e, bad, inv, wide) := x.settle fin set
    let x := if bad then x.poisonLine h.pkt.hdr h.line (h.reg.or (x.regOf h.line)) [] h.wp else x
    if inv ≠ 0 then
      let r := (x.widerEv wide inv h.wp).snoop i { h.widerMark wide inv with way := some w, fin := e } h.line none 0 inv
      r.1.setHtc i { r.2 with closeAt := x.s.clk.cyc }
    else
      let tag := (x.s.hash h.line).tag
      let x := x.setWay set w (if e.st = 0 then {} else { e with tag := tag })
      (x.endHtc i h).afterFree h.line

/-- HTC_FREED (R112): 3 HCLK after CLOSE was entered, or after the narrowing's last acknowledgement. -/
def execHtcFreed (p h : Nat) (u : Upset) (s : State) : Res :=
  s.atPanel p <|
    match smFind (s.panel p).htcs h with
    | some c =>
      if c.phase = .close ∧ c.job ≠ .wbk ∧ c.multi ∧ c.closeAt + 3 ≤ s.clk.cyc then
        s.panelStep p u fun x => if c.job = .hold then (x.dropHtc h).pumpSweeps.pumpEbar else x.freed h c
      else s
    | none => s

/-- WBK_LINE_RELEASE (R160): 8 HCLK after a writeback HTC started, its line is released. -/
def execWbkLineRelease (p h : Nat) (u : Upset) (s : State) : Res :=
  s.atPanel p <|
    match smFind (s.panel p).htcs h with
    | some c =>
      if c.phase = .close ∧ c.job = .wbk ∧ c.multi ∧ c.start + 8 ≤ s.clk.cyc then s.panelStep p u fun x => x.freed h c
      else s
    | none => s

/-- Start an HTC of a line in DECIDE (R158, R159). -/
def PX.startHtc (x : PX) (i : Nat) (h : Htc) : PX :=
  match h.job with
  | .req | .mRecall | .mInv => if h.phase = .queued then x.enterD0 i h true else x.resumeHtc i h
  | .wbk => x.processWbk i h false
  | _ => x

/-- HTC `i` may start: no HTC ahead of it holds its line, no parked writeback precedes it (R159); or it may go on in DECIDE:
its D2 has come, and a sweep that sent it back is over (R161, R426). A parked writeback of a swept set waits for the
sweep, and a chosen victim's line must be free of writebacks at work (R160). -/
def PX.mayStart (x : PX) (i : Nat) (h : Htc) : Bool :=
  let others := x.pn.htcs.filter fun e => e.1 ≠ i && e.2.onLine h.line
  let swept := x.swept h.line
  let victim := match h.pick with | some v => x.wbkBusy v.line | none => false
  h.job.ofLine && others.all (fun e => decide (e.2.phase = .queued)) &&
  (if h.phase = .decide then
     !(swept && decide (h.hold = .sweep)) && !victim && (decide (h.hold ≠ .go) || x.due i h)
   else
     decide (h.phase = .queued) && others.all (fun e => decide (h.seq < e.2.seq)) &&
     (if h.job = .wbk then !swept else (x.parkedOf h.line).isNone))

/-- HTC_START_QUEUED (R159): the next HTC of a line's list starts, or one held in DECIDE looks again (R56, R104, R237,
R426). -/
def execHtcStartQueued (p h : Nat) (u : Upset) (s : State) : Res :=
  s.atPanel p <|
    match smFind (s.panel p).htcs h with
    | some c => s.panelStep p u fun x => if x.mayStart h c then (x.startHtc h c).pumpEbar else x
    | none => s

/-- HTC_REPLAY (R437): a parity error in working state. Before D8, where its row is recorded, an HTC starts again at D0; later it resumes
from its record, and nothing is sent twice. -/
def execHtcReplay (p h : Nat) (uncorrectable : Bool) (u : Upset) (s : State) : Res :=
  s.atPanel p <|
    match smFind (s.panel p).htcs h with
    | none => s
    | some c =>
      s.panelStep p (if uncorrectable then { u with rcd := .ue } else u) fun x =>
        let x := x.eff (.bucket (pnBase p + 0xE0) .ce)
        let held := decide (c.hold = .proxy) || decide (c.hold = .buffer)
        let job := decide (c.job = .req) || decide (c.job = .mRecall) || decide (c.job = .mInv)
        if job ∧ c.phase = .decide ∧ ¬ held ∧ x.alone h c.line ∧ ¬ (c.hold = .sweep ∧ x.swept c.line) then
          x.enterD0 h c true
        else x

/-- SET_SWEEP_START (R427). -/
def execSetSweepStart (p set : Nat) (u : Upset) (s : State) : Res :=
  s.atPanel p (if set < s.build.sets then s.panelStep p u fun x => (x.sweepStart set).pumpEbar else s)

end Sys2Proof.Machine
end

