-- ==== Sys2Proof/Machine/MemPort.lean ====
section
/-! DEFINITION. Memory ports: credits, resets, the grant, what a completion does at a panel, and the meanings of
MP_REQ_CRD, MP_RST_N_ASSERT and MP_RST_N_RELEASE (R314 to R345, R559). -/

namespace Sys2Proof.Machine

/-- A command to memory port `m`: `t`, and nothing where the build has no such port, in reset or while it is frozen (R314,
R327, R438). -/
def State.atMp (s : State) (m : Nat) (t : State) : Res :=
  .next (if s.build.memPorts ≤ m ∨ s.clk.shut ∨ s.clk.frozenRoot ∨ (s.mp m).stopped then s else t)

/-- A memory-port fault (R327): the port freezes and DRV_FATAL is asserted. -/
def State.mpFault (s : State) (m cause : Nat) : State :=
  (s.modMp m fun x => { x with cause := if x.cause = 0 then cause else x.cause }).fatalRow 5

/-- The checks of a header and of data in the buffers of a port (R407): both are counted; an uncorrectable header freezes the
port and asserts DRV_FATAL (R438). -/
def State.mpChecks (s : State) (m : Nat) (hd dat : Ecc) : State :=
  let s := (s.bucket (mpBase m + 0x80) hd).bucket (mpBase m + 0x80) dat
  if hd = .ue then (s.modMp m fun x => { x with frozen := true }).fatalRow 6 else s

/-! ### Completions at a panel -/

/-- A write of panel `p` is complete: covered errors are remembered, a Device WrAcc is sent, and barriers look again
(R239, R243 to R245). -/
def PX.wrDone (x : PX) (wid err : Nat) : PX :=
  match smFind x.pn.wrs wid with
  | none => x
  | some w =>
    let who := w.who.foldl (fun v a => v ||| vbit a.1) 0
    let x := x.mod fun n => { n with
      wrs := smErase n.wrs wid, errs := if err = 1 then n.errs ||| who else n.errs }
    let x := match w.dev with
      | none => x
      | some q =>
        match x.pn.htcs.find? fun (e : Nat × Htc) => decide (e.2.seq = q) && decide (e.2.job = Job.req) && decide (e.2.phase = Phase.collect) with
        | some (i, h) =>
          let h := h.stamp 6 x.s.clk.cyc false
          (x.sendRsp i h.pkt.hdr oWrAcc 0 err).startClose i h {} 0
        | none => x
    x.pumpEbar

/-- MData for the HTC with sequence number `q` (R128, R131). -/
def PX.mData (x : PX) (q : Nat) (b : Buf) : PX :=
  match x.pn.htcs.find? fun e => decide (e.2.seq = q) && e.2.rd with
  | none => x
  | some (i, h) =>
    if h.sentData ∨ h.md.isSome then x.advance i h else x.advance i { h with md := some b }

/-! ### Grants -/

/-- The heads of the requesters' queues at port `m` (R336, R337). -/
def State.raised (s : State) (m : Nat) : List (Nat × MemReq) :=
  let ready (r : Nat) : Bool := decide (smGet 0 (s.mp m).backTo r ≤ s.clk.cyc)
  let pn := (List.range s.build.panels).filterMap fun p =>
    if s.panelFrozen p then none else ((smGet [] (s.panel p).memOut m).head?).map fun r => (p, r)
  let ez := ((smGet [] s.ez.memOut m).head?).toList.map fun r => (17, r)
  let ep := ((smGet [] s.ep.memOut m).head?).toList.map fun r => (18, r)
  (pn ++ ez ++ ep).filter fun e => ready e.1

/-- Tickets of a requester at port `m` (R345). -/
def State.tickets (s : State) (m r : Nat) : Nat :=
  if r < 16 then bitsN (s.w6g (mpBase m)).toNat (4 * r) 4 else bitsN (s.w6g (mpBase m + 8)).toNat (4 * (r - 16)) 4

/-- The walk of a draw (R341). -/
def drawWalk (s : State) (m r : Nat) : List (Nat × MemReq) → Nat → Option (Nat × MemReq)
  | [], _ => none
  | e :: rest, run => if r < run + s.tickets m e.1 then some e else drawWalk s m r rest (run + s.tickets m e.1)

/-- A lottery draw (R340 to R342): the state after it and the winner. After a draw that grants nothing the next comes in the next HCLK. -/
def State.draw (s : State) (m : Nat) (rs : List (Nat × MemReq)) : State × Option (Nat × MemReq) :=
  match rs with
  | [] => (s, none)
  | e :: rest =>
    let v := lfsrStep (s.mp m).lfsr
    let s := s.modMp m fun x => { x with lfsr := v }
    let t := (rs.map fun e => s.tickets m e.1).sum
    if t = 0 then
      if rest = [] then (s, some e) else ((s.ctr6 (mpBase m + 0x28) 1).modMp m fun x => { x with busyUntil := s.clk.cyc + 1 }, none)
    else (s, drawWalk s m (v.toNat % t) rs 0)

/-- The requester that the active slot table names for a slot (R338, R344, R407): an uncorrectable word acts as
VALID 0 from then on. -/
def State.mpSlot (s : State) (m sl : Nat) (e : Ecc) : State × Option Nat :=
  let off := mpBase m + 0x400 + 8 * sl
  let s := s.bucket (mpBase m + 0x80) e
  if e = .ue then (s.w6s off 0, none)
  else (s, (slotOwner (s.w6g off)).filter fun r => decide (r ≤ 18))

/-- Choose the requester to grant (R338, R339). -/
def State.choose (s : State) (m : Nat) (e : Ecc) : State × Option (Nat × MemReq) :=
  let sl := s.clk.cyc % 64
  let rs := (s.raised m).filter fun x => sl ≠ 63 || decide (x.2.mopc ≠ 2)
  let find (n : Nat) : Option (Nat × MemReq) := rs.find? fun x => x.1 = n
  if sl = 0 ∧ (find 18).isSome then (s, find 18)
  else if sl = 0 ∧ (find 17).isSome then (s, find 17)
  else if s.bounded ∧ sl ≠ 0 then
    let (s, o) := s.mpSlot m sl e
    match o.bind find with
    | some x => (s, some x)
    | none => s.draw m rs
  else s.draw m rs

/-- Take the granted packet from its requester. -/
def State.takeMem (s : State) (m r : Nat) : State :=
  if r < 16 then s.modPanel r fun n => { n with memOut := smMod [] n.memOut m List.tail }
  else if r = 17 then { s with ez := { s.ez with memOut := smMod [] s.ez.memOut m List.tail } }
  else { s with ep := { s.ep with memOut := smMod [] s.ep.memOut m List.tail } }

/-- A packet of `n` flits leaves its requester in the HCLK of its grant and those that follow (R337, R339). -/
def State.holdMem (s : State) (m who n : Nat) : State :=
  s.modMp m fun x => { x with busyUntil := s.clk.cyc + n, backTo := smSet x.backTo who (s.clk.cyc + n + 1) }

/-- Send a message under a free tag (R316, R320, R504). -/
def State.driveMem (s : State) (m tag : Nat) (r : MemReq) : State :=
  let bytes := if r.mopc = 2 then 80 else 16
  (s.modMp m fun x => { x with
    credits := x.credits - 1, tags := smSet x.tags tag r, winUp := x.winUp + bytes }).out (.mem m tag r (r.flits tag))

/-- Send a granted message (R316, R320, R337, R504). -/
def State.sendMem (s : State) (m tag who : Nat) (r : MemReq) : State :=
  (s.holdMem m who (if r.mopc = 2 then 2 else 1)).driveMem m tag r

/-- An outbound MWr whose data the port found uncorrectable (R559), its two flits taken from the requester (R337, R339): the
state after the port has sent MPoison, or nothing, and the completion the port gives itself, if it sends nothing. A frozen home panel
writes no lost-line table (R438). -/
def State.badWrite (s : State) (m tag who : Nat) (r : MemReq) : State × Option Nat :=
  let s := s.holdMem m who 2
  let pois : MemReq := { r with mopc := 3, data := 0, be := 0, size := 6, off := 0 }
  let own := match r.own with | .wr _ _ => true | _ => false
  if s.build.devMask.getLsbD m then (s, some 1)
  else if (s.mp m).psnCap then (s.driveMem m tag pois, none)
  else
    let p := (s.hash r.line).panel
    let s := if s.panelFrozen p then s else s.commitPx p ((s.px p {}).addLost r.line (if own then some (r.world, r.part) else none))
    (s, some (if own then 0 else 1))

/-- MP_REQ_CRD (R316, R327). -/
def execMpReqCrd (m : Nat) (s : State) : Res :=
  s.atMp m <|
    if ¬ (s.mp m).svc then s
    else if (s.mp m).credits = 64 then s.mpFault m 3
    else s.modMp m fun x => { x with credits := x.credits + 1 }

/-- The reset of a memory port is asserted (R327, R488). -/
def State.mpReset (s : State) (m : Nat) : State :=
  let s := s.modMp m fun x => { x with rst := true }
  if s.clk.shut || s.clk.frozenRoot || (s.mp m).stopped then s
  else
    let s := s.modMp m fun x => { x with svc := false, credits := 0 }
    if (s.mp m).tags.isEmpty then s else s.mpFault m 4

/-- MP_RST_N_ASSERT (R327, R488). -/
def execMpRstAssert (m : Nat) (s : State) : Res := .next (if m < s.build.memPorts then s.mpReset m else s)

/-- MP_RST_N_RELEASE (R317): the crossing's handshake follows. -/
def execMpRstRelease (m : Nat) (s : State) : Res :=
  .next (if m < s.build.memPorts then s.modMp m fun x => { x with rst := false } else s)

end Sys2Proof.Machine
end

