-- ==== Sys2Proof/Machine/Net.lean ====
section
/-! DEFINITION. The tree network: routing, splitting, combining, arbitration, fences, and the meanings of CREDIT_RETURNED,
COMBINE_ACK, COMBINE_FLUSH and EPOCH_CAPTURED (R176 to R220, R303, R442, R475, R557). -/

namespace Sys2Proof.Machine

/-! ### Where a packet goes (R181) -/

/-- Targets of a packet. -/
inductive Tgt | panel (p : Nat) | agent (a : Nat) | multi | easel | restorer | root | nowhere
deriving DecidableEq, Repr

/-- The target a node number names (R74). -/
def nodeTgt (b : Build) (n : Nat) : Tgt :=
  if n < 256 then .agent n
  else if n < 256 + b.panels then .panel (n - 256)
  else if n = nEasel then .easel
  else if n = nRestorer then .restorer
  else if n = nRoot then .root
  else .nowhere

/-- The panel an HTC field names (R75). -/
def htcTgt (b : Build) (htc : Nat) : Tgt := if htc / 1024 < b.panels then .panel (htc / 1024) else .nowhere

/-- A snoop of the SNP or MGT class. -/
def isSnoop (k : Packet) : Bool := decide (k.hdr.cls = cSNP) || (decide (k.hdr.cls = cMGT) && decide (k.hdr.opc < 32))

/-- An acknowledgement that routers combine (R196). -/
def isAck (k : Packet) : Bool :=
  (decide (k.hdr.cls = cRSP) && decide (k.hdr.opc = oSnpAck)) ||
  (decide (k.hdr.cls = cMGT) && decide (k.hdr.opc = 32 + oSnpAck))

/-- The target of a packet (R181, R249). -/
def tgtOf (b : Build) (k : Packet) : Tgt :=
  let h := k.hdr
  if h.cls = cREQ then
    (if h.src = nEasel then nodeTgt b h.dst
     else if h.opc = oEBar then .root
     else if h.opc = oTIv ∨ h.opc = oTSy then .panel (h.src % b.panels)
     else .panel k.home)
  else if h.cls = cWBK then .panel k.home
  else if isSnoop k then (if h.dst = nMulti then .multi else nodeTgt b h.dst)
  else if h.cls = cMGT then htcTgt b h.htc
  else if h.cls = cRSP then
    (if h.opc = oSnpAck ∨ h.opc = oCompAck then htcTgt b h.htc
     else if h.opc = oDirtyHint then .panel k.home
     else nodeTgt b h.dst)
  else if h.opc = oSweepData ∨ (h.opc = oDataFwd ∧ h.marks = 8) then htcTgt b h.htc
  else nodeTgt b h.dst

/-- The router a place belongs to: leaf q, branch 32 + b, the root 40. -/
def routerAt (b : Build) : Loc → Nat
  | .leafUp s => b.leafOf s
  | .leafDown q => q
  | .branchUp q => 32 + b.branchOf q
  | .branchDown i => 32 + i
  | .synth r => r
  | _ => 40

/-- The child a router's table of epoch `e` maps an agent to (R193, R213). -/
def State.child (s : State) (r e a : Nat) : Option HopOut :=
  let v := (smGet 0 (s.router r).routes (e * 256 + a)).toNat
  if ¬ bitN v 7 then none
  else if r < 32 then ((s.build.leafSlots r)[v % 8]?).map .leafToPort
  else if r < 40 then
    ((List.range s.build.leafN).find? fun q => s.build.leafPos q = some ((r - 32) * 4 + v % 4)).map .branchToLeaf
  else if s.build.hasBranch (v % 8) then some (.rootToBranch (v % 8)) else none

/-- A place from which packets go up. -/
def upward : Loc → Bool
  | .leafUp _ | .branchUp _ => true
  | .synth r => decide (r < 40)
  | _ => false

/-- The outputs that a packet at a place takes, each with its part of the vector (R178, R181, R184, R191, R192). -/
def State.routeOf (s : State) (l : Loc) (k : Packet) : List (HopOut × Vec) :=
  let r := routerAt s.build l
  let up : List (HopOut × Vec) := [(if r < 32 then .leafToBranch r else .branchToRoot (r - 32), k.vec)]
  let ch (a : Nat) : List HopOut := (s.child r k.hdr.epoch a).toList
  let part (o : HopOut) : Vec := ((members k.vec).filter fun a => s.child r k.hdr.epoch a = some o).foldl (fun v a => v ||| vbit a) 0
  let root (o : HopOut) : List (HopOut × Vec) := if r = 40 then [(o, k.vec)] else up
  match tgtOf s.build k with
  | .agent a => if upward l && (ch a).isEmpty then up else (ch a).map fun o => (o, k.vec)
  | .multi =>
    if upward l then up
    else if r < 32 then (members k.vec).flatMap fun a => (ch a).map fun o => (o, vbit a)
    else ((members k.vec).flatMap ch).dedup.map fun o => (o, part o)
  | .panel p => root (.rootToPanel p)
  | .easel => root .rootToEasel
  | .restorer => root .rootToRestorer
  | .root | .nowhere => if r = 40 then [] else up

/-- The packet with the outputs that the route tables of the moment of its capture give it, whatever they hold later (R178): those of
its own router, where R178 has the stage before compute a look-ahead and R213 gives each router a table of its own outputs alone
(DESIGN CHOICE, log entry 68). -/
def State.lookAhead (s : State) (l : Loc) (k : Packet) : Packet :=
  match tgtOf s.build k with
  | .agent _ => { k with la := s.routeOf l k }
  | .multi => { k with la := s.routeOf l k, whole := !upward l }
  | _ => k

/-- The outputs that a packet at a place still has to take, each with its part. -/
def State.laOf (s : State) (l : Loc) (k : Packet) : List (HopOut × Vec) := if k.la = [] then s.routeOf l k else k.la

/-- The outputs that a packet at a place wants. -/
def State.destOf (s : State) (l : Loc) (k : Packet) : List HopOut := (s.laOf l k).map (·.1)

/-- The place an output leads to. -/
def nextLoc : HopOut → Option Loc
  | .leafToBranch q => some (.branchUp q) | .leafToPort s => some (.portDown s)
  | .branchToRoot b => some (.rootUp b) | .branchToLeaf q => some (.leafDown q)
  | .rootToPanel p => some (.panelIn p) | .rootToBranch b => some (.branchDown b)
  | .rootToEasel => none | .rootToRestorer => none | .panelToRoot p => some (.rootPanel p)

/-- The queue of a place that takes a packet: a bounded lane for PRIO 1 requests in the Bounded profile (R206); at the root
an EBar, which goes to no one panel, uses the rest of the REQ buffers (DESIGN CHOICE, log entry 10). -/
def State.laneKey (s : State) (l : Loc) (k : Packet) : Nat :=
  if s.bounded ∧ k.hdr.cls = cREQ ∧ k.hdr.prio = 1 ∧ k.hdr.src < 256 then
    match l with
    | .branchUp _ | .panelIn _ => 8
    | .rootUp _ => (match tgtOf s.build k with | .panel p => 8 + p | _ => cREQ)
    | _ => cREQ
  else k.hdr.cls

/-- The queues of a place. -/
def State.keysOf (s : State) (l : Loc) : List Nat :=
  let base := List.range 6
  if s.bounded then
    match l with
    | .branchUp _ | .panelIn _ => base ++ [8]
    | .rootUp _ => base ++ (List.range 16).map (8 + ·)
    | _ => base
  else base

/-- Free the head buffer of a queue: a link credit is owed where the place works on credits (R186). -/
def State.popAt (s : State) (l : Loc) (key : Nat) : State :=
  match l with
  | .leafUp _ | .portDown _ | .synth _ => s.setQ l key (s.q l key).tail
  | _ => s.take l key

/-- A packet that takes no buffer of a place after all: its credit is owed, where the place works on credits. -/
def State.oweAt (s : State) (l : Loc) (key : Nat) : State :=
  match l with
  | .synth _ => s
  | _ => s.owe l key

/-! ### Answers in place of a route (R193, R475, R557) -/

/-- Add to a router's UNROUTED. -/
def State.unrouted (s : State) (r n : Nat) : State :=
  s.modRouter r fun x => { x with unrouted := ctrAdd x.unrouted n }

/-- The epoch of an answer synthesised at a router: at a leaf its own (R214); at a branch or the root, for which R214 names none,
that of the snoop or request answered (DESIGN CHOICE, log entry 61). -/
def State.ansEpoch (s : State) (r e : Nat) : Nat := if r < 32 then (s.router r).epoch else e

/-- The opcode of an owner snoop, SnpS or SnpU, which is unicast. -/
def ownOpc (op : Nat) : Bool := decide (op = oSnpS) || decide (op = oSnpU)

/-- A NotHeld answer of a router for one agent. -/
def State.notHeld (s : State) (r : Nat) (h : Hdr) (a : Nat) : State :=
  s.inject r (synthAck { h with epoch := s.ansEpoch r h.epoch } h.cls a 0 1) (ownOpc h.opc)

/-- A packet that no child takes (R557). -/
def State.noRoute (s : State) (r : Nat) (k : Packet) : State :=
  let s := (s.unrouted r 1).addEj r k.hdr.epoch 1
  if isSnoop k then s.notHeld r k.hdr k.hdr.dst
  else if k.hdr.cls = cREQ ∧ k.hdr.src = nEasel then
    s.inject r (tivDone k.hdr.dst k.hdr.tag (s.ansEpoch r k.hdr.epoch) k.hdr.world k.hdr.part)
  else s

/-- Entries of a router's combining table (R28). -/
def combCap (r : Nat) : Nat := if r < 32 then 128 else 256

/-- Allocate a combining entry for a multicast that is forwarded; a table that is full then counts a COMB_MISS (R194, R195). -/
def State.combAlloc (s : State) (r : Nat) (k : Packet) : State :=
  if 40 ≤ r ∨ popc k.vec < 2 then s
  else s.modRouter r fun x =>
    if combCap r ≤ x.comb.length then { x with combMiss := ctrAdd x.combMiss 1 }
    else { x with comb := x.comb ++ [
      { htc := k.hdr.htc, mgt := decide (k.hdr.cls = cMGT), expect := popc k.vec, born := s.clk.cyc, world := k.hdr.world,
        part := k.hdr.part, prio := k.hdr.prio, epoch := k.hdr.epoch, addr := k.hdr.addr }] }

/-- The branch of an output is eclipsed (R475). -/
def State.branchGone (s : State) : HopOut → Bool
  | .rootToBranch b => decide (2 ≤ (s.br b).bstate)
  | _ => false

/-- The root's answer at its fence for an eclipsed branch: a snoop, with its part of the vector, is answered NotHeld, any other
packet is discarded; each counts in UNROUTED (R219, R475). -/
def State.rootFence (s : State) (k : Packet) : State :=
  let s := (s.unrouted 40 1).addEj 40 k.hdr.epoch 1
  if isSnoop k then
    let part : Vec := if k.hdr.dst = nMulti then k.vec else vbit k.hdr.dst
    let h := synthAck k.hdr k.hdr.cls ((lowest part).getD 0) 0 1
    s.inject 40 { h with tag := popc part } (ownOpc k.hdr.opc) part
  else s

/-- The router answers for the bits of a multicast that its tables map to no child (R193). -/
def State.answerUnmapped (s : State) (r : Nat) (k : Packet) (un : Vec) : State :=
  (members un).foldl (fun s a => (s.unrouted r 1).notHeld r k.hdr a) s

/-- A multicast captured at a router, with its outputs; with none, the router answers for all its bits (R191 to R193, R216). Such a
one is not forwarded: it makes no combining entry and counts no COMB_MISS, and each of its NotHeld answers goes by itself (R194 does not
say what one none of whose bits is mapped counts as: DESIGN CHOICE, log entry 61). -/
def State.enterMulti (s : State) (r : Nat) (l : Loc) (key : Nat) (k : Packet) : State :=
  let k := s.lookAhead l k
  if k.la = [] then ((s.answerUnmapped r k k.vec).addEj r k.hdr.epoch 1).oweAt l key else s.push l key k

/-- A router begins to forward a multicast: a combining entry with the whole part, the answers for unmapped bits, and the split
(R191 to R195, R216). -/
def State.split (s : State) (r : Nat) (k : Packet) : State :=
  let mapped := k.la.foldl (fun v e => v ||| e.2) 0
  ((s.combAlloc r k).answerUnmapped r k (k.vec &&& ~~~mapped)).addInj r k.hdr.epoch (BitVec.ofNat 32 (k.la.length - 1))

/-- A packet captured at a stage input (R178, R193, R201, R214, R216, R557). A packet for a panel or node that the build lacks is
discarded and counted in UNROUTED as one of R557 is (DESIGN CHOICE, log entry 62). -/
def State.enter (s : State) (l : Loc) (k : Packet) : State :=
  let r := routerAt s.build l
  let key := s.laneKey l k
  let stamp := match l with
    | .rootPanel _ | .rootEasel | .rootRestorer => true
    | _ => false
  let e := (s.router 40).epoch
  let prio := match l with
    | .rootEasel => 0
    | .rootRestorer => if k.hdr.cls = cMGT then 0 else 3
    | _ => k.hdr.prio
  let k := if stamp then { k with hdr := { k.hdr with epoch := e, prio := prio } } else k
  let s := if stamp then s.addInj 40 e 1 else s
  if upward l then s.push l key (s.lookAhead l k)
  else match tgtOf s.build k with
    | .multi => s.enterMulti r l key k
    | .agent a =>
      if (s.child r k.hdr.epoch a).isNone then (s.noRoute r k).oweAt l key else s.push l key (s.lookAhead l k)
    | .nowhere => ((s.unrouted r 1).addEj r k.hdr.epoch 1).oweAt l key
    | _ => s.push l key k

/-! ### Pending snoops and requests of a port (R233, R279, R442) -/

/-- A pending-snoop entry is free for a snoop of this class at leaf `q`. -/
def State.psnpRoom (s : State) (q : Nat) (mgt : Bool) : Option Bool :=
  let all := (s.build.leafSlots q).flatMap fun n => (s.port n).psnp
  let rs := (all.filter fun e => e.rsvd).length
  let gen := (all.filter fun e => !e.rsvd).length
  if mgt ∧ rs < 64 then some true else if gen < 960 then some false else none

/-- A death marker: it travels on the side-band of the WBK class, and is no packet for R216 (R445). -/
def isMarker (k : Packet) : Bool := decide (k.hdr.cls = cWBK) && decide (k.hdr.opc = 63)

/-- A downward TIv (R304). -/
def isTiv (k : Packet) : Bool := decide (k.hdr.cls = cREQ)

/-- Free the pending-snoop entry that an acknowledgement answers, or note a forward (R442). -/
def Port.acked (x : Port) (k : Packet) (cyc : Nat) : Port :=
  let h := k.hdr
  if h.cls = cDAT ∧ h.opc = oDataFwd then
    { x with psnp := x.psnp.map fun e => if e.owner && decide (e.htc = h.htc) then { e with fwd := true } else e }
  else
    let hit (e : PSnp) : Bool :=
      if h.cls = cRSP ∧ h.opc = oTIvDone then e.tiv && decide (e.htc = h.tag)
      else isAck k && !e.tiv && decide (e.htc = h.htc) && decide (e.mgt = decide (h.cls = cMGT))
    match x.psnp.find? hit with
    | some e => { x with psnp := x.psnp.erase e, dlStart := cyc }
    | none => x

/-- Apply a pending change of lane once every REQ that the port has sent has received its response at the port output
(R205). -/
def State.settlePrio (s : State) (n : Nat) : State :=
  let x := s.port n
  match x.prioPend with
  | some v => if (x.reqs.all fun e => e.resp) && (s.q (.leafUp n) cREQ).isEmpty && !(x.upq.any fun f => f.chan = cREQ) then s.setPort n { x with prio := v, prioPend := none } else s
  | none => s

/-- What a packet of a port does as it leaves the leaf's input buffer: a REQ begins, CompAck ends one, acknowledgements
free their entries (R233, R279, R442). -/
def State.leaves (s : State) (n : Nat) (k : Packet) : State :=
  let h := k.hdr
  let s := s.modPort n fun x =>
    let x := x.acked k s.clk.cyc
    if h.cls = cREQ then { x with reqs := x.reqs ++ [{ tag := h.tag, opc := h.opc }] }
    else if h.cls = cRSP ∧ h.opc = oCompAck then
      match x.reqs.find? fun e => decide (e.tag = h.tag) && decide (e.opc ≤ 3) with
      | some e => { x with reqs := x.reqs.erase e }
      | none => x
    else x
  s.settlePrio n

/-- A downward answer ends the REQ it answers (R233); a Comp is the response of a read or Upg that CompAck ends (R205; DEDUCED,
log entry 64). -/
def Port.answered (x : Port) (k : Packet) : Port :=
  let h := k.hdr
  let comp := decide (h.cls = cRSP) && decide (h.opc ∈ [oCompS, oCompE, oCompU, oCompO])
  let ends (e : POut) : Bool := decide (e.tag = h.tag) &&
    (if comp then decide (e.opc ≤ 3) && !e.resp
     else if h.cls = cRSP then decide (h.opc ∈ [oDecline, oDecodeErr, oWalkDevErr]) ||
        (decide (h.opc = oWrAcc) && decide (e.opc = oWrU)) || (decide (h.opc = oEBarDone) && decide (e.opc = oEBar)) ||
        (decide (h.opc = oTIvDone) && decide (e.opc = oTIv)) || (decide (h.opc = oTSyDone) && decide (e.opc = oTSy))
     else decide (h.cls = cDAT) && (decide (e.opc = oRdO) || decide (e.opc = oAtP)))
  match x.reqs.find? ends with
  | some e =>
    { x with reqs := if comp then x.reqs.map fun y => if y = e then { e with resp := true } else y else x.reqs.erase e }
  | none => x

/-! ### The leaf's port output: the partner or the fence (R192, R274, R278, R303, R445) -/

/-- The fence's answer for a port that is not ADMITTED (R303, R445). -/
def State.fenceAnswer (s : State) (n : Nat) (k : Packet) : State :=
  let x := s.port n
  let q := s.build.leafOf n
  let h := { k.hdr with epoch := (s.router q).epoch }
  let a := if x.lstate = .eclipsed ∨ x.lstate = .dead then x.agent else k.hdr.dst
  let s := s.addEj q k.hdr.epoch 1
  let op := k.hdr.opc
  if isSnoop k then
    let own := ownOpc op
    if own ∧ x.lstate = .dead then s.inject q (synthAck h h.cls a 1 0) own
    else s.inject q (synthAck h h.cls a 0 1) own
  else if isTiv k then s.inject q (tivDone a h.tag h.epoch h.world h.part)
  else if x.lstate = .eclipsed then s.protoErr n 8 h.cls op else s

/-- Poisoned data for a partner without poison support (R274). -/
def forPartner (x : Port) (k : Packet) : Packet :=
  if k.hdr.poison ∧ ¬ bitN x.mode.feats 3 then { k with hdr := { k.hdr with poison := false, err := 1 } } else k

/-- A router does nothing once frozen (R438). -/
def State.routerFrozen (s : State) (r : Nat) : Bool :=
  decide (r ∈ s.clk.frozenRouters) || (decide (r = 40) && s.clk.frozenRoot)

/-- An uncorrectable flit header, route-table entry, combining entry or pending-snoop entry (R438). -/
def State.routerFatal (s : State) (r off : Nat) : State :=
  ((s.bucketUe (rtBase r + off)).fatalRow 6).freezeRouter r

/-- The settled beat width of a port in bytes (R265); 64 before any INTRO. -/
def Port.width (x : Port) : Nat := if x.mode.beat = 0 then 64 else 16 * x.mode.beat

/-- Send what the partner has credits for from the downward dual-clock queues (R186, R278); `hd` and `dat` are what the checks of
the headers and data found there (R407, R412, R438). -/
def State.pumpPort (s : State) (n : Nat) (hd dat : Ecc) : State :=
  let q := s.build.leafOf n
  let can (c : Nat) : Nat := min (s.q (.portDown n) c).length ((s.port n).dnCrd.getD c 0)
  let out := (List.range 6).flatMap fun c => (s.q (.portDown n) c).take (can c)
  let lines := out.any Packet.hasFlits
  if out.isEmpty || s.routerFrozen q then s
  else if hd = .ue then s.routerFatal q 0x80
  else
    let x := s.port n
    let s := (s.bucket (rtBase q + 0x80) hd).bucket (rtBase q + 0x80) (if lines then dat else .ok)
    let s := (List.range 6).foldl (fun t c =>
      (t.setQ (.portDown n) c ((t.q (.portDown n) c).drop (can c))).modPort n fun y =>
        { y with dnCrd := y.dnCrd.set c (y.dnCrd.getD c 0 - can c) }) s
    out.foldl (fun s k =>
      let k := forPartner x (if k.hasFlits ∧ dat = .ue then { k with hdr := { k.hdr with poison := true } } else k)
      s.out (.pkt n k (k.flits x.width))) s

/-- A packet crosses the leaf's port output, into the port's downward dual-clock queue or the fence. -/
def State.deliverPort (s : State) (n : Nat) (k : Packet) (hd dat : Ecc) : State :=
  let x := s.port n
  let q := s.build.leafOf n
  if x.lstate ≠ .admitted then s.fenceAnswer n k
  else
    let mgt := decide (k.hdr.cls = cMGT)
    let room := s.psnpRoom q mgt
    let x := if isSnoop k || isTiv k then
        { x with
          dlStart := if x.psnp.isEmpty then s.clk.cyc else x.dlStart,
          psnp := x.psnp ++ [{
            htc := if isTiv k then k.hdr.tag else k.hdr.htc, mgt := mgt, tiv := isTiv k, world := k.hdr.world,
            owner := isSnoop k && (decide (k.hdr.opc = oSnpS) || decide (k.hdr.opc = oSnpU)), part := k.hdr.part,
            prio := k.hdr.prio, addr := k.hdr.addr, rsvd := room.getD false }] }
      else x.answered k
    let k := { k with hdr := { k.hdr with dst := x.agent } }
    let s := s.setPort n { x with winDn := x.winDn + k.bytes }
    let s := ((s.addEj q k.hdr.epoch 1).push (.portDown n) k.hdr.cls k).settlePrio n
    s.pumpPort n hd dat

/-! ### Combining (R194 to R200) -/

/-- The place a router's upward output leads to. -/
def upLoc (r : Nat) : Loc := if r < 32 then .branchUp r else .rootUp (r - 32)

/-- The acknowledgement a combining entry emits (R196, R201). -/
def combPacket (e : Comb) : Packet :=
  { hdr := {
      cls := if e.mgt then cMGT else cRSP, opc := if e.mgt then 32 + oSnpAck else oSnpAck, prio := e.prio, epoch := e.epoch,
      src := e.src, dst := nPanel0 + e.htc / 1024, tag := e.sum, htc := e.htc, addr := e.addr, world := e.world,
      part := e.part, marks := e.flags % 16, size := e.flags / 16 }
    vec := e.who }

/-- Emit an entry when its output has a credit; it keeps its place otherwise (R198, R199, R216). Of the acknowledgements of the
emission's epoch one goes on; those of the other epoch have all been combined away (DEDUCED, log entry 63). -/
def State.emit (s : State) (r : Nat) (e : Comb) : State :=
  let k := combPacket e
  let l := upLoc r
  let drop (s : State) (add : List Comb) : State :=
    s.modRouter r fun x => { x with comb := (x.comb.filter fun y => y.htc ≠ e.htc) ++ add }
  if s.hasCredit l k.hdr.cls then
    (((drop s []).addEj r e.epoch (BitVec.ofNat 32 (e.combined - 1))).addEj r (1 - e.epoch) (BitVec.ofNat 32 e.other)).push l
      k.hdr.cls k
  else drop s [{ e with ready := true }]

/-- The entry that an acknowledgement at router `r` belongs to: none for the answer to an owner snoop, which the leaf has
marked by its pending-snoop entry and no router combines (R89, R134, R442). -/
def State.combOf (s : State) (r : Nat) (k : Packet) : Option Comb :=
  if isAck k ∧ k.aux = 0 then (s.router r).comb.find? fun e => decide (e.htc = k.hdr.htc) else none

/-- Add an acknowledgement to its entry (R196, R199); the emission carries the epoch of the first one (DESIGN CHOICE, log
entry 63). -/
def State.combAdd (s : State) (r : Nat) (e : Comb) (k : Packet) : State :=
  let first := decide (e.combined = 0)
  let same := first || decide (e.epoch = k.hdr.epoch)
  let e' : Comb := { e with
    sum := e.sum + k.hdr.tag % 512, flags := e.flags ||| (k.hdr.marks + 16 * (k.hdr.size % 2)), who := e.who ||| k.vec,
    src := if first then k.hdr.src else e.src, epoch := if first then k.hdr.epoch else e.epoch,
    combined := e.combined + (if same then 1 else 0), other := e.other + (if same then 0 else 1) }
  let s := s.modRouter r fun x => { x with comb := x.comb.map fun y => if y.htc = e.htc then e' else y }
  if e.expect ≤ e'.sum ∨ e.ready then s.emit r e' else s

/-- The place names a unit that the build has. -/
def State.hasLoc (s : State) : Loc → Bool
  | .leafUp n | .portDown n => decide (n < s.build.slots)
  | .leafDown q | .branchUp q => decide (q < s.build.leafN)
  | .branchDown b | .rootUp b => s.build.hasBranch b
  | .rootPanel p | .panelIn p | .panelOut p => decide (p < s.build.panels)
  | .synth r => s.build.hasRouter r
  | .rootEasel | .rootRestorer => true

/-- What a read of combining entry `e` finds, together with `ecc` (R200, R407). -/
def Comb.read (e : Comb) (ecc : Ecc) : Ecc :=
  if ecc = .ue ∨ e.flaw = .ue then .ue else if ecc = .ce ∨ e.flaw = .ce then .ce else .ok

/-- Router `r` reads a combining entry and acts on it with `f`: a corrected error is counted, an uncorrectable one is fatal (R407,
R438). -/
def State.withComb (s : State) (r : Nat) (e : Comb) (ecc : Ecc) (f : State → Comb → State) : State :=
  match e.read ecc with
  | .ue => s.routerFatal r 0xA0
  | found => f (s.bucket (rtBase r + 0xA0) found) { e with flaw := .ok }

/-- What the next reads of combining entries will find (R200). -/
def State.combFlaws (s : State) (u : HopUps) : State :=
  u.comb.foldl (fun s f => s.modRouter f.1 fun x => { x with
    comb := x.comb.map fun e => if e.htc = f.2.1 then { e with flaw := f.2.2 } else e }) s

/-- Combine the acknowledgement at the head of a queue (R196). -/
def State.combine (s : State) (l : Loc) (key : Nat) (ecc : Ecc) : State :=
  let r := routerAt s.build l
  match (s.q l key).head? with
  | none => s
  | some k =>
    match s.combOf r k with
    | none => s
    | some e =>
      if s.routerFrozen r ∨ ¬ upward l then s
      else s.withComb r e ecc fun s e =>
        let s := s.popAt l key
        let s := match l with | .leafUp n => s.leaves n k | _ => s
        s.combAdd r e k

/-- COMBINE_ACK (R196). -/
def execCombineAck (l : Loc) (mgt : Bool) (ecc : Ecc) (s : State) : Res :=
  .next (if s.hasLoc l then s.whenLive fun s => s.combine l (if mgt then cMGT else cRSP) ecc else s)

/-- FLUSH_WAIT of a router (R198, R219). -/
def Router.flushHclk (x : Router) : Nat := max 16 x.flushWait.toNat

/-- The places of a router whose heads can be acknowledgements to combine (R196). -/
def State.combLocs (s : State) (r : Nat) : List Loc :=
  (if r < 32 then (s.build.leafSlots r).map .leafUp else (s.build.branchLeaves (r - 32)).map .branchUp) ++ [.synth r]

/-- Combine every acknowledgement of HTC `htc` that stands at the head of an input of router `r` (R196, R198). -/
def State.combineHeads (s : State) (r htc : Nat) : State :=
  (s.combLocs r).foldl (fun s l => [cRSP, cMGT].foldl (fun s c =>
    match (s.q l c).head? with
    | some k => if isAck k ∧ k.hdr.htc = htc then s.combine l c .ok else s
    | none => s) s) s

/-- An entry's FLUSH_WAIT has expired: what stands captured is counted first, then the rest is emitted or the entry freed
(R198). -/
def State.combFlush (s : State) (r htc : Nat) : State :=
  let due (x : Router) (e : Comb) : Bool := decide (e.htc = htc) && decide (e.born + x.flushHclk ≤ s.clk.cyc)
  if s.routerFrozen r ∨ 40 ≤ r ∨ ¬ (s.router r).comb.any (due (s.router r)) then s
  else
    let s := s.combineHeads r htc
    match (s.router r).comb.find? fun e => decide (e.htc = htc) with
    | none => s
    | some e =>
      if s.routerFrozen r then s
      else s.withComb r e .ok fun s e =>
        if e.sum = 0 then s.modRouter r fun x => { x with comb := x.comb.filter fun y => y.htc ≠ htc } else s.emit r e

/-- COMBINE_FLUSH (R198). -/
def execCombineFlush (r htc : Nat) (s : State) : Res :=
  .next (if s.build.hasRouter r then s.whenLive fun s => s.combFlush r htc else s)

/-- An owed credit reaches its sender, and an entry that waited for it emits (R186, R199). -/
def State.creditBack (s : State) (l : Loc) (key : Nat) : State :=
  if s.owed l key = 0 then s
  else
    let s := { s with net := { s.net with owed := smPut 0 s.net.owed (locKey l key) (s.owed l key - 1) } }
    let r := match l with | .branchUp q => q | .rootUp b => 32 + b | _ => 40
    if r = 40 then s
    else match (s.router r).comb.find? fun e => e.ready && decide ((if e.mgt then cMGT else cRSP) = key) with
      | some e => if s.routerFrozen r then s else s.withComb r e .ok fun s e => s.emit r e
      | none => s

/-- CREDIT_RETURNED (R186, R199). -/
def execCreditReturned (l : Loc) (key : Nat) (s : State) : Res :=
  .next (if s.hasLoc l then s.whenLive fun s => s.creditBack l key else s)

/-- EPOCH_CAPTURED (R215): 3 HCLK after a flip. -/
def execEpochCaptured (r : Nat) (s : State) : Res :=
  .next <| if ¬ s.build.hasRouter r then s else s.whenLive fun s =>
    match (s.router r).flipAt with
    | some c => if c ≤ s.clk.cyc then s.modRouter r fun x => { x with epoch := (s.router 40).epoch, flipAt := none } else s
    | none => s

/-! ### The hop (R151, R178, R203, R204, R211) -/

/-- A candidate of an output: where it waits, in which queue, the packet. -/
structure Cand where
  l : Loc
  key : Nat
  k : Packet
deriving DecidableEq, Repr

/-- The places that feed an output. -/
def State.inputsOf (s : State) : HopOut → List Loc
  | .leafToBranch q => (s.build.leafSlots q).map .leafUp ++ [.synth q]
  | .leafToPort n => let q := s.build.leafOf n; [.leafDown q] ++ (s.build.leafSlots q).map .leafUp
  | .branchToRoot b => (s.build.branchLeaves b).map .branchUp ++ [.synth (32 + b)]
  | .branchToLeaf q => let b := s.build.branchOf q; [.branchDown b] ++ (s.build.branchLeaves b).map .branchUp
  | .panelToRoot _ => []
  | _ => (List.range 8).map .rootUp ++ (List.range s.build.panels).map .rootPanel ++ [.rootEasel, .rootRestorer, .synth 40]

/-- A release-marked write (R80, R240). -/
def isRls (k : Packet) : Bool :=
  decide (k.hdr.cls = cREQ) && (decide (k.hdr.opc = oWrU) || decide (k.hdr.opc = oAtP)) && bitN k.hdr.marks 2

/-- A release-marked write waits for the agent's earlier writes (R240). -/
def State.rlsHeld (s : State) (l : Loc) (k : Packet) : Bool :=
  match l with
  | .leafUp n => isRls k && (s.port n).reqs.any fun e => decide (e.opc = oWrU) || decide (e.opc = oAtP)
  | _ => false

/-- A barrier of an agent (R242). -/
def isEbar (k : Packet) : Bool := decide (k.hdr.cls = cREQ) && decide (k.hdr.opc = oEBar) && decide (k.hdr.src < 256)

/-- A copy of an EBar waits at the root for a REQ of its agent in the bounded lane of its panel (R242). -/
def State.copyHeld (s : State) (o : HopOut) (c : Cand) : Bool :=
  match o, c.l with
  | .rootToPanel p, .rootUp b => isEbar c.k && (s.q (.rootUp b) (8 + p)).any fun k => decide (k.hdr.src = c.k.hdr.src)
  | _, _ => false

/-- The packet can take the output in this HCLK. -/
def State.canGo (s : State) (o : HopOut) (c : Cand) : Bool :=
  (s.destOf c.l c.k).contains o && !s.copyHeld o c &&
  (match nextLoc o with
    | some l => s.branchGone o || s.hasCredit l (s.laneKey l c.k)
    | none => true) &&
  !s.rlsHeld c.l c.k &&
  !(upward c.l && (s.combOf (routerAt s.build c.l) c.k).isSome) &&
  (match o with
    | .leafToPort n => !(isSnoop c.k || isTiv c.k) || decide ((s.port n).lstate ≠ .admitted) ||
        (s.psnpRoom (s.build.leafOf n) (decide (c.k.hdr.cls = cMGT))).isSome
    | _ => true)

/-- The heads that can take an output. -/
def State.cands (s : State) (o : HopOut) : List Cand :=
  match o with
  | .panelToRoot p =>
    if s.panelFrozen p then [] else
    (List.range 6).filterMap fun c =>
      ((s.panel p).outq.find? fun k => decide (k.hdr.cls = c)).bind fun k =>
        if s.hasCredit (.rootPanel p) c then some { l := .panelOut p, key := c, k := k } else none
  | _ =>
    (s.inputsOf o).flatMap fun l => (s.keysOf l).filterMap fun key =>
      ((s.q l key).head?).bind fun k => if s.canGo o { l := l, key := key, k := k } then some { l := l, key := key, k := k } else none

/-- The rank of a class under step 2 of R203. -/
def clsRank (c : Nat) : Nat := if c = cRSP then 0 else if c = cDAT then 1 else if c = cSNP then 2 else if c = cWBK then 3 else 4

/-- How many times in a row output `o` has passed a packet over (R203). -/
def skipsAt (k : Packet) (o : HopOut) : Nat := ((k.skips.find? fun e => e.1 = o).map (·.2)).getD 0

/-- The packet passed over once more at output `o`. -/
def passedOver (k : Packet) (o : HopOut) : Packet :=
  { k with skips := (o, skipsAt k o + 1) :: k.skips.filter fun e => e.1 ≠ o }

/-- Steps 1, 2 and 4 of R203 at output `o` as a number: lower wins. -/
def prioScore (o : HopOut) (c : Cand) : Nat :=
  (if c.k.hdr.cls = cMGT then 0 else 1000) + (if 8 ≤ skipsAt c.k o then 0 else 100) + c.k.hdr.prio * 10 + clsRank c.k.hdr.cls

/-- Step 3 of R203: how far an input stands behind the one last served. -/
def rrScore (last id n : Nat) : Nat := (id + n - 1 - last % n) % n

/-- The candidate of lowest score. -/
def bestBy (f : Cand → Nat) (cs : List Cand) : Option Cand := cs.find? fun a => cs.all fun b => decide (f a ≤ f b)

/-- The number of an output. -/
def outId : HopOut → Nat
  | .leafToBranch q => q | .leafToPort s => 32 + s | .branchToRoot b => 288 + b | .branchToLeaf q => 296 + q
  | .rootToPanel p => 328 + p | .rootToBranch b => 344 + b | .rootToEasel => 352 | .rootToRestorer => 353
  | .panelToRoot p => 354 + p

/-- The agent that owns the current slot of a panel's active table (R208, R407). -/
def State.pnSlotOwner (s : State) (p : Nat) (e : Ecc) : State × Option Nat :=
  let off := pnBase p + 0x400 + 8 * (s.clk.cyc % 64)
  let s := s.bucket (pnBase p + 0x100) e
  if e = .ue then (s.w6s off 0, none) else (s, slotOwner (s.w6g off))

/-- The REQ of agent `a` that the root's lane buffers for panel `p` hold (R209). -/
def State.laneHeld (s : State) (p a : Nat) : Option Packet :=
  ((List.range 8).flatMap fun b => s.q (.rootUp b) (8 + p)).find? fun k => decide (k.hdr.src = a)

/-- The winner at a root-to-panel output that no management request takes (R151, R204, R209): the packet, and whether a slot
delivered it. A slot whose owner's REQ is held goes to no other packet. The root's own answers, which the rules give no turn, stand in
the round-robin where branch 7 stands (DESIGN CHOICE, log entry 61). -/
def State.pickPanel (s : State) (p : Nat) (e : Ecc) (cs : List Cand) : State × Option (Cand × Bool) :=
  let (s, ow) := if s.bounded then s.pnSlotOwner p e else (s, none)
  match ow.bind (s.laneHeld p) with
  | some k => (s, (cs.find? fun c => decide (c.key = 8 + p) && decide (c.k = k)).map fun c => (c, true))
  | none =>
    let last := smGet 7 (s.router 40).rr (outId (.rootToPanel p))
    let b (c : Cand) : Nat := locId c.l - 328
    match bestBy (fun c => rrScore last (if c.l = .synth 40 then 7 else b c) 8) cs with
    | none => (s, none)
    | some w => (s, (bestBy (prioScore (.rootToPanel p)) (cs.filter fun c => c.l = w.l)).map fun c => (c, false))

/-- The winner at another output (R203). -/
def State.pickOut (s : State) (r : Nat) (o : HopOut) (cs : List Cand) : Option Cand :=
  let last := smGet 2047 (s.router r).rr (outId o)
  bestBy (fun c => prioScore o c * 2048 + rrScore last (locId c.l) 2048) cs

/-- Count the losers of a grant of output `o` (R203 step 4). -/
def State.passOver (s : State) (o : HopOut) (w : Cand) (cs : List Cand) : State :=
  cs.foldl (fun s c =>
    if c.l = w.l ∧ c.key = w.key then s
    else match c.l, s.q c.l c.key with
      | .panelOut _, _ => s
      | _, k :: rest => s.setQ c.l c.key (passedOver k o :: rest)
      | _, [] => s) s

/-- HTC `h` holds the request that packet `k` answers. -/
def Htc.answeredBy (h : Htc) (k : Packet) : Bool :=
  decide (h.job = .req) && decide (h.pkt.hdr.src = k.hdr.dst) && decide (h.pkt.hdr.tag = k.hdr.tag) && decide (h.line = k.hdr.addr)

/-- Data that a panel sends its requester, or the response of an HTC from whose panel no data has gone (R507). -/
def Htc.sends (h : Htc) (k : Packet) : Bool :=
  (decide (k.hdr.cls = cDAT) && (decide (k.hdr.opc = oDataMem) || decide (k.hdr.opc = oDataHome))) ||
    (decide (k.hdr.cls = cRSP) && !h.sentData &&
      decide (k.hdr.opc ∈ [oCompS, oCompE, oCompU, oCompO, oWrAcc, oDecline, oDecodeErr, oWalkDevErr]))

/-- Packet `k` leaves the output register of a panel: its HTC notes the HCLK of the stage Data sent, in place of that of the capture
(R507; DESIGN CHOICE for an HTC freed before its packet leaves, log entry 36). -/
def Panel.left (n : Panel) (k : Packet) (cyc : Nat) : Panel :=
  { n with
    outq := n.outq.erase k,
    htcs := n.htcs.map fun e => if e.2.answeredBy k && e.2.sends k then (e.1, e.2.stamp 6 cyc true) else e }

/-- Take the winning packet, or its part for this output, from its place (R188, R191, R192): of a multicast, or of an EBar that the
root has accepted, a copy. -/
def State.takeFor (s : State) (o : HopOut) (c : Cand) : State × Packet :=
  let k := c.k
  match c.l with
  | .panelOut p => (s.modPanel p fun n => n.left k s.clk.cyc, k)
  | _ =>
    if (tgtOf s.build k = .multi ∧ ¬ upward c.l) ∨ (isEbar k ∧ k.la ≠ []) then
      let la := s.laOf c.l k
      let s := if k.whole then s.split (routerAt s.build c.l) k else s
      match la.find? fun e => decide (e.1 = o) with
      | none => (s, k)
      | some e =>
        let rest := la.erase e
        let s := if rest = [] then s.popAt c.l c.key
          else s.setQ c.l c.key
            ({ k with vec := k.vec &&& ~~~e.2, la := rest, whole := false, skips := k.skips.filter fun e => e.1 ≠ o } :: (s.q c.l c.key).tail)
        match o with
        | .leafToPort _ => (s, { k with vec := 0, la := [], whole := false, hdr := { k.hdr with dst := (lowest e.2).getD 0 } })
        | _ => (s, { k with vec := e.2, la := [], whole := false })
    else (s.popAt c.l c.key, { k with la := [] })

/-- The Easel takes the TIvDone of a downward TIv (R304, R384). -/
def State.easelTivDone (s : State) (tag : Nat) : State :=
  { s with ez := { s.ez with ops := s.ez.ops.map fun o => if o.mark % 4096 = tag ∧ o.tiv = 1 then { o with tiv := 2 } else o } }

/-- The home panel of a packet as its leaf decodes it, refilling a copy entry that fails parity (R182, R407). -/
def State.leafDecode (s : State) (q : Nat) (k : Packet) (bad : Bool) : State × Packet :=
  let need := decide (k.hdr.cls = cREQ) || (decide (k.hdr.cls = cWBK) && decide (k.hdr.opc ≠ 63)) ||
    (decide (k.hdr.cls = cRSP) && decide (k.hdr.opc = oDirtyHint))
  if ¬ need then (s, k)
  else
    let s := if bad then
        let hit := decodeIn (s.router q).copy (k.hdr.addr * 64)
        let i := (hit.map (·.idx)).getD 16
        (s.modRouter q fun x => { x with
          copy := (x.copy.filter fun r => r.idx ≠ i) ++ s.inForce.filter fun r => r.idx = i }).bucketCe (rtBase q + 0x140)
      else s
    (s, { k with home := s.leafHome q k.hdr.addr })

/-- A packet of a class that a panel accepts without condition, and that no HTC takes: it is discarded (R147, R189). -/
def unserved (k : Packet) : Bool :=
  (decide (k.hdr.cls = cRSP) && decide (k.hdr.opc ∉ [oSnpAck, oDirtyHint, oCompAck])) ||
  (decide (k.hdr.cls = cDAT) && decide (k.hdr.opc ∉ [oDataFwd, oSweepData])) ||
  (decide (k.hdr.cls = cMGT) && decide (k.hdr.opc ≠ 32 + oSnpAck))

/-- Put a packet where an output leads. -/
def State.arrive (s : State) (o : HopOut) (from' : Loc) (k : Packet) (slot : Bool) (u : HopUps) : State :=
  match o with
  | .leafToBranch q =>
    let r := s.leafDecode q k u.copy
    let s := match from' with | .leafUp n => r.1.leaves n k | _ => r.1
    s.enter (.branchUp q) r.2
  | .leafToPort n =>
    let s := match from' with | .leafUp m => s.leaves m k | _ => s
    s.deliverPort n k u.dqHd u.dqDat
  | .branchToRoot b => s.enter (.rootUp b) k
  | .branchToLeaf q => s.enter (.leafDown q) k
  | .rootToBranch b => if s.branchGone o then s.rootFence k else s.enter (.branchDown b) k
  | .rootToPanel p =>
    let n := if k.bytes = 80 then 2 else 1
    let key := s.laneKey (.panelIn p) k
    let s := { s with net := { s.net with dbl := smSet s.net.dbl (outId o) (s.clk.cyc + n) } }
    let s := if isMarker k then s else s.addEj 40 k.hdr.epoch 1
    if unserved k then (s.oweAt (.panelIn p) key).panelStep p {} fun x => x.discard k 1
    else s.push (.panelIn p) key { k with aux := if k.hdr.cls = cREQ then b2n slot else k.aux }
  | .rootToEasel => (s.addEj 40 k.hdr.epoch 1).easelTivDone k.hdr.tag
  | .rootToRestorer => s.addEj 40 k.hdr.epoch 1
  | .panelToRoot p => s.enter (.rootPanel p) k

/-- The router that arbitrates an output. -/
def routerOut (b : Build) : HopOut → Nat
  | .leafToBranch q => q | .leafToPort s => b.leafOf s | .branchToRoot i => 32 + i | .branchToLeaf q => 32 + b.branchOf q
  | _ => 40

/-- Grant output `o` to candidate `c` (R178, R407, R412, R438). -/
def State.hopOne (s : State) (o : HopOut) (c : Cand) (cs : List Cand) (slot : Bool) (u : HopUps) : State :=
  let r := routerOut s.build o
  if u.flit = .ue then s.routerFatal r 0x80
  else if u.route = .ue then s.routerFatal r 0xC0
  else if u.psnp = .ue ∧ r < 32 then s.routerFatal r 0xE0
  else
    let s := (s.bucket (rtBase r + 0x80) u.flit).bucket (rtBase r + 0xC0) u.route
    let s := if r < 32 then s.bucket (rtBase r + 0xE0) u.psnp else s
    let s := if c.k.hasFlits then s.bucket (rtBase r + 0x80) u.dat else s
    let s := s.passOver o c cs
    let (s, k) := s.takeFor o c
    let k := if c.k.hasFlits ∧ u.dat = .ue then { k with hdr := { k.hdr with poison := true } } else k
    let s := match o, c.l with
      | .rootToPanel _, .rootUp b => s.modRouter r fun x => { x with rr := smSet x.rr (outId o) b }
      | .rootToPanel _, _ => s
      | _, _ => s.modRouter r fun x => { x with rr := smSet x.rr (outId o) (locId c.l) }
    s.arrive o c.l k slot u

/-! ### Management requests at the root (R40, R151 to R153, R214, R216, R220) -/

/-- One request enters a free MGT buffer of the root: the oldest for a panel that no buffer holds one for, so that the panels work side
by side, or else the oldest of all (R40, R387; DESIGN CHOICE, log entry 17). -/
def State.fillOne (s : State) : State :=
  let fresh (q : Nat × MReq) : Bool := !s.net.ezMgt.any fun k => decide (k.panel = q.1)
  if 4 ≤ s.net.ezMgt.length then s
  else match (s.ez.asks.find? fresh).or s.ez.asks.head? with
    | none => s
    | some q =>
      let e := (s.router 40).epoch
      ({ s with ez := { s.ez with asks := s.ez.asks.erase q },
                net := { s.net with ezMgt := s.net.ezMgt ++ [({ panel := q.1, req := q.2, epoch := e } : MgtIn)] } }).addInj 40 e 1

/-- The root captures what the Easel asks of the panels while its MGT buffers last (R40, R216, R220): a request is stamped with the
root's epoch, as a packet is (R214). -/
def State.fillMgt (s : State) : State := s.fillOne.fillOne.fillOne.fillOne

/-- The link from the root to panel `p` is free in this HCLK (R151). -/
def State.linkFree (s : State) (p : Nat) : Bool :=
  decide (smGet 0 s.net.dbl (outId (.rootToPanel p)) ≤ s.clk.cyc) && !s.routerFrozen 40 && !s.panelFrozen p

/-- A management request crosses the link to panel `p`, which it holds for an HCLK, and the panel acts on it with `f` (R151, R216). -/
def State.cross (s : State) (p epoch : Nat) (u : Upset) (f : PX → PX) : State :=
  (({ s with net := { s.net with dbl := smSet s.net.dbl (outId (.rootToPanel p)) (s.clk.cyc + 1) } }).addEj 40 epoch 1).panelStep p u f

end Sys2Proof.Machine
end

