-- ==== Sys2Proof/Machine/Barrier.lean ====
section
/-! DEFINITION. The endpoint barrier at the root: the meanings of EBAR and EBAR_PANEL_COMPLETION (R90, R242 to R246). -/

namespace Sys2Proof.Machine

/-- The EBar at the head of a branch's REQ FIFO at the root that the root has not accepted yet. -/
def State.ebarHead (s : State) (b : Nat) : Option Packet :=
  (s.q (.rootUp b) cREQ).head?.filter fun k => isEbar k && decide (k.la = [])

/-- The root's answer to an EBar. -/
def rootAnswer (h : Hdr) (opc count err : Nat) : Packet :=
  { hdr := { cls := cRSP, opc := opc, prio := h.prio, epoch := h.epoch, src := nRoot, dst := h.src, tag := h.tag,
             htc := count, world := h.world, part := h.part, err := err } }

/-- Send an EBarDone or a DecodeErr that the root makes itself (R90, R216, R246). It has the root's CUR_EPOCH, where the other answers of a
branch or the root have the epoch of what they answer: R214 names none for either (DESIGN CHOICE, log entry 61). -/
def State.rootSend (s : State) (k : Packet) : State :=
  let e := (s.router 40).epoch
  (s.addInj 40 e 1).enter (.synth 40) { k with hdr := { k.hdr with epoch := e } }

/-- The outputs of the copies of an EBar (R242). -/
def State.ebarOuts (s : State) : List (HopOut × Vec) := (List.range s.build.panels).map fun p => (.rootToPanel p, 0)

/-- The root accepts an EBar of branch `b`, or answers DecodeErr to a fifth one (R242, R246). Its copies leave the head of the FIFO as
packets of the branch do, each to its panel in its own turn. -/
def State.ebarStep (s : State) (b : Nat) (k : Packet) : State :=
  let slot := (s.slotOfAgent k.hdr.src).getD 256
  if 4 ≤ (s.net.ebars.filter fun e => e.slot = slot).length then
    (((s.take (.rootUp b) cREQ).addEj 40 k.hdr.epoch 1).rootSend (rootAnswer k.hdr oDecodeErr 0 0)).protoErrAgent
      k.hdr.src 7 cREQ oEBar
  else
    let s := s.addInj 40 k.hdr.epoch (BitVec.ofNat 32 (s.build.panels - 1))
    let e : EbarEnt := { agent := k.hdr.src, slot := slot, tag := k.hdr.tag, hdr := k.hdr }
    { s with net := { s.net with ebars := s.net.ebars ++ [e] } }.setQ (.rootUp b) cREQ
      ({ k with la := s.ebarOuts } :: (s.q (.rootUp b) cREQ).tail)

/-- Panel `p` accepts the copy of an EBar at its input (R148, R243). -/
def State.ebarCopy (s : State) (p : Nat) (u : Upset) : State :=
  if s.build.panels ≤ p ∨ s.panelFrozen p then s
  else match (s.px p u).reqTurn with
    | some (key, k, pool, i) =>
      if k.hdr.opc = oEBar then (s.take (.panelIn p) key).panelStep p u fun x => x.acceptEbar k pool i else s
    | none => s

/-- EBAR (R242, R243): the root accepts the EBar at the head of branch `b`; where none waits there, panel `p` accepts a copy. -/
def execEbar (b p : Nat) (u : Upset) (s : State) : Res :=
  .next (if s.build.hasBranch b then s.whenLive fun s =>
    if s.routerFrozen 40 then s
    else match s.ebarHead b with
      | some k => s.ebarStep b k
      | none => s.ebarCopy p u
  else s)

/-- The root adds the completion of panel `p` at the head of its queue (R245), where that packet leaves the tree (R216). -/
def State.ebarDoneStep (s : State) (p : Nat) : State :=
  match (s.q (.rootPanel p) cRSP).head? with
  | none => s
  | some k =>
    if k.hdr.opc ≠ oEBarDone ∨ k.hdr.dst ≠ nRoot then s
    else
      let s := (s.take (.rootPanel p) cRSP).addEj 40 k.hdr.epoch 1
      match s.net.ebars.find? fun e => decide (e.agent = k.aux) && decide (e.tag = k.hdr.tag) with
      | none => s
      | some e =>
        let e' : EbarEnt := { e with got := e.got + k.hdr.htc, err := e.err || decide (k.hdr.err = 1) }
        let others := s.net.ebars.erase e
        if e'.got < s.build.panels then { s with net := { s.net with ebars := others ++ [e'] } }
        else
          ({ s with net := { s.net with ebars := others } }).rootSend
            (rootAnswer e.hdr oEBarDone s.build.panels (if e'.err then 1 else 0))

/-- EBAR_PANEL_COMPLETION (R245). -/
def execEbarPanelCompletion (p : Nat) (s : State) : Res :=
  .next (if p < s.build.panels then s.whenLive fun s => if s.routerFrozen 40 then s else s.ebarDoneStep p else s)

end Sys2Proof.Machine
end

