-- ==== Sys2Proof/Machine/Port.lean ====
section
/-! DEFINITION. The agent port: link states, introduction, heartbeat, credits, eclipse, reclamation, and the check of
upward packets (R260 to R305, R440 to R451). -/

namespace Sys2Proof.Machine

/-- A command to agent-port slot `n`: it does nothing where the build has no such slot (R24, log entry 8), and in reset. -/
def State.atPort (s : State) (n : Nat) (f : State → State) : Res :=
  .next (if n < s.build.slots then s.whenLive f else s)

/-- BSTATE of a slot's branch. -/
def State.slotBr (s : State) (n : Nat) : Nat := (s.br (s.build.branchOfSlot n)).bstate

/-- The port is attached: its agent ID is in use (R386). -/
def Port.attached (x : Port) : Bool :=
  decide (x.lstate = .admitted) || decide (x.lstate = .eclipsed) || decide (x.lstate = .dead)

/-! ### Link states (R276, R289, R290, R302, R471) -/

/-- The upward credits the partner starts with (R276). -/
def upStart : List Nat := [8, 4, 0, 16, 4, 2]

/-- No credits. -/
def noCredits : List Nat := [0, 0, 0, 0, 0, 0]

/-- Send LINK_UP; the partner's credit counters start (R276, R284). -/
def State.linkUp (s : State) (n : Nat) : State :=
  (s.modPort n fun x => { x with upHeld := upStart, upFreed := noCredits }).out (.link n (linkWords [0x8100000C#32]))

/-- A port in DOWN whose crossing is in service enters INTRODUCE, unless its branch is fencing or eclipsed (R290, R471,
R480). -/
def State.attach (s : State) (n : Nat) : State :=
  let x := s.port n
  if x.lstate = .down ∧ ¬ x.rst ∧ ¬ x.hsPend ∧ ¬ s.clk.initBusy ∧ s.slotBr n = 0 then
    (s.modPort n fun x => { x with lstate := .introduce }).linkUp n
  else s

/-- Discard the packets in a port's downward queues. -/
def State.dropDown (s : State) (n : Nat) : State := (List.range 6).foldl (fun s c => s.setQ (.portDown n) c []) s

/-- The entry of a port to DOWN (R290). PS_MODE, PS_ADMIT and PS_TIMING go on reading what the former partner settled (DESIGN CHOICE,
log entry 64). -/
def State.portDown (s : State) (n : Nat) : State :=
  ((s.dropDown n).modPort n fun x => { x with
    lstate := .down, fencing := false, eclOp := false, stored := none, dnCrd := noCredits, dnMax := noCredits, upq := [],
    reclaimed := false, rstSince := false,
    upHeld := if x.rst || x.hsPend then noCredits else x.upHeld }).attach n

/-- AP_RST_N asserted (R276, R282, R283, R290). -/
def State.apReset (s : State) (n : Nat) : State :=
  let s := s.modPort n fun x => { x with
    rst := true, hsPend := true, dnCrd := noCredits, upHeld := noCredits, upFreed := noCredits }
  match (s.port n).lstate with
  | .down => s
  | .introduce | .ready => s.portDown n
  | .admitted => s.portDead n 4
  | .eclipsed => s.modPort n fun x => { x with rstSince := true, stored := none }
  | .dead => if (s.port n).reclaimed then s.portDown n else s.modPort n fun x => { x with rstSince := true }

/-- AP_RST_N_ASSERT (R290, R488). -/
def execApRstAssert (slot : Nat) (s : State) : Res := .next (if slot < s.build.slots then s.apReset slot else s)

/-- AP_RST_N is released: a handshake starts, whose RESYNC_REQ the port side inverts (R282, R283). -/
def State.apRelease (s : State) (n : Nat) : State := s.modPort n fun x => { x with rst := false, rsReq := x.rsReq ^^ x.rst }

/-- AP_RST_N_RELEASE (R282, R283). -/
def execApRstRelease (slot : Nat) (s : State) : Res := .next (if slot < s.build.slots then s.apRelease slot else s)

/-- The crossing of an agent port completes its handshake: each side has answered the other's toggle, the packets in the port's queues
are discarded, and the crossing is in service (R282, R283, R290, R471, R477). LINK_UP waits for the end of the initialisation
(R480). -/
def State.portHandshake (s : State) (n : Nat) : State :=
  let x := s.port n
  if x.rst ∨ ¬ x.hsPend ∨ 2 ≤ s.slotBr n then s
  else
    let s := (s.setPort n { x with hsPend := false, rsAck := x.rsReq, rlAck := x.rlReq, upq := [] }).dropDown n
    match x.lstate with
    | .down => s.attach n
    | .eclipsed => (s.modPort n fun x => { x with dnCrd := if x.rstSince && x.stored.isNone then noCredits else x.dnMax }).linkUp n
    | _ => s

/-- HANDSHAKE_COMPLETE (R283, R317, R488). -/
def execHandshakeComplete (x : Crossing) (s : State) : Res :=
  match x with
  | .agent n => s.atPort n fun s => s.portHandshake n
  | .mem m => s.atMp m (if (s.mp m).rst ∨ (s.mp m).svc then s else s.modMp m fun y => { y with svc := true, credits := 0 })
  | .cp => .next (s.whenLive fun s => { s with clk := { s.clk with cpSvc := s.clk.cpSvc || !s.clk.cpRst } })
  | .tp => .next (s.whenLive fun s => { s with clk := { s.clk with tpSvc := s.clk.tpSvc || !s.clk.tpRst } })
  | .ts => .next (s.whenLive fun s => { s with clk := { s.clk with tsSvc := s.clk.tsSvc || !s.clk.tsRst } })

/-! ### Introduction (R284 to R288) -/

/-- The first check of R287 that an INTRO record fails. -/
def introFail (w : List (BitVec 32)) (perr gap : Bool) : Option Nat :=
  let f (i : Nat) : Nat := (w.getD i 0).toNat
  let kind := bitsN (f 1) 0 2
  let tracked := bitsN (f 2) 0 17
  let tags := bitsN (f 3) 0 13
  if perr || gap || decide (w.length < 16) || decide (crc32 (w.take 15) ≠ w.getD 15 0) then some 8
  else if bitsN (f 0) 2 2 = 0 then some 1
  else if kind = 0 ∨ kind = 3 then some 3
  else if 65536 < tracked ∨ (kind = 1 ∧ tracked = 0) ∨ (kind = 2 ∧ tracked ≠ 0) then some 4
  else if tags = 0 ∨ 4096 < tags then some 5
  else if bitsN (f 4) 0 3 = 0 then some 2
  else if bitsN (f 7) 0 16 = 0 then some 6
  else if (List.range 5).any fun i => bitsN (f 8) (4 * i) 4 = 0 then some 7
  else none

/-- The mode an INTRO settles (R288). -/
def settle (w : List (BitVec 32)) : Mode :=
  let f (i : Nat) : Nat := (w.getD i 0).toNat
  let v3 := bitN (f 0) 3
  let kind := bitsN (f 1) 0 2
  let feats := bitsN (f 5) 0 5
  let beats := bitsN (f 4) 0 3
  { kind := kind, version := if v3 then 3 else 2, tracked := bitsN (f 2) 0 17,
    beat := if 4 ≤ beats then 4 else if 2 ≤ beats then 2 else 1,
    feats := (feats &&& (if v3 then 31 else 9)) &&& (if kind = 1 then 31 else 8) }

/-- The DN_CRD counts of an INTRO by class (R284). -/
def introCredits (w : List (BitVec 32)) : List Nat :=
  let c (i : Nat) : Nat := bitsN (w.getD 8 0).toNat (4 * i) 4
  [c 0, 0, c 1, c 2, c 3, c 4]

/-- A SETTLE record (R284): a failure leaves what VERSION, BEAT and FEATURES carry open (DESIGN CHOICE: free values), their reserved
bits zero (R17). -/
def settleRecord (r : Mode ⊕ Nat) (n : Nat) : List (BitVec 32) :=
  let ws : List (BitVec 32) := match r with
    | .inl m => [0x82000001#32, BitVec.ofNat 32 m.version, BitVec.ofNat 32 m.beat, BitVec.ofNat 32 m.feats, 0#32]
    | .inr c => [0x82000000#32, Config.freeSettle (3 * n) &&& 0xFF#32, Config.freeSettle (3 * n + 1) &&& 7#32,
        Config.freeSettle (3 * n + 2) &&& 31#32, BitVec.ofNat 32 c]
  let body := ws ++ List.replicate 10 0#32
  body ++ [crc32 body]

/-- A protocol error about a link record, which has no CLASS and OPC of its own (R440). -/
def State.linkProto (s : State) (n : Nat) : State :=
  s.protoErr n 4 (Config.freeLast.toNat / 64) (Config.freeLast.toNat % 64)

/-- A whole INTRO record in the leaf (R276, R287, R288, R290, R305). A valid one sends SETTLE and then the STATE record of READY: R290 asks
for both and does not order them (DESIGN CHOICE, log entry 64). -/
def State.introStep (s : State) (n : Nat) (w : List (BitVec 32)) (perr gap : Bool) : State :=
  let x := s.port n
  let w := w.take 16
  let fail := introFail w perr gap
  let keep (s : State) : State := s.modPort n fun x => { x with intro := w ++ x.intro.drop w.length }
  let ok (s : State) : State :=
    (s.modPort n fun x => { x with dnMax := introCredits w, dnCrd := introCredits w }).out
      (.link n (linkWords (settleRecord (.inl (settle w)) n)))
  match x.lstate with
  | .introduce =>
    let s := keep s
    match fail with
    | some c => ((s.noteSet (kPs n 16)).modPort n fun x => { x with introErr := true }).out (.link n (linkWords (settleRecord (.inr c) n)))
    | none =>
      ((ok s).modPort n fun x => { x with
        lstate := .ready, mode := settle w, maxSit := (w.getD 6 0).toNat }).sendState n
  | .eclipsed =>
    let s := keep s
    match fail with
    | some _ => (s.noteSet (kPs n 16)).modPort n fun x => { x with introErr := true }
    | none => (ok s).modPort n fun x => { x with stored := some (settle w), maxSit := (w.getD 6 0).toNat }
  | .ready | .admitted => s.linkProto n
  | .down | .dead => s

/-- The leaf frames the link words of consecutive cycles (R285): a word 0 with a parity error or of another TYPE is discarded with
those after it; a parity error in words 1 to 15, or their early end, is kept for check 1 of R287. The port of an eclipsed branch, whose
state the root holds, takes none (R474). -/
def State.introWords (s : State) (n : Nat) (words : List LinkWord) : State :=
  let w0 := words.headD {}
  let rest := (words.drop 1).take 15
  if w0.ok ∧ bitsN w0.word.toNat 24 8 = 2 ∧ ¬ (s.port n).rst ∧ ¬ (s.port n).hsPend ∧ s.slotBr n < 2 then
    s.introStep n (words.map (·.word)) (rest.any fun w => !w.ok) (decide (words.length < 16))
  else s

/-- INTRO (R285, R287): word 0, words 1 to 14, and the CRC word, as many of them as came before AP_ULNK_VALID fell. -/
def execIntro (slot : Nat) (head : LinkWord) (body : List LinkWord) (crc : Option LinkWord) (s : State) : Res :=
  s.atPort slot fun s => s.introWords slot (head :: (body ++ crc.toList))

/-- A word 0 of TYPE 0x01 whose parity holds restarts the heartbeat count in ADMITTED (R285, R296). -/
def State.heartbeatWord (s : State) (n : Nat) (w : LinkWord) : State :=
  if w.ok ∧ bitsN w.word.toNat 24 8 = 1 ∧ (s.port n).lstate = .admitted then
    s.modPort n fun x => { x with hbStart := s.kclk }
  else s

/-- HEARTBEAT (R285, R296). -/
def execHeartbeat (slot : Nat) (w : LinkWord) (s : State) : Res := s.atPort slot fun s => s.heartbeatWord slot w

/-- LINK_WORD_DISCARDED (R285): nothing changes. -/
def execLinkWordDiscarded (slot : Nat) (s : State) : Res := s.atPort slot fun s => s

/-! ### Monitors (R296, R443) -/

/-- HB_WIN as it stands in KCLK `k` (R296). -/
def Port.hbWinAt (x : Port) (k : Nat) : Nat :=
  match x.hbOld with
  | some (j, w) => if j = k then w.toNat else x.hbWin.toNat
  | none => x.hbWin.toNat

/-- A write to HB_WIN, which takes effect in the KCLK after it (R296). -/
def Port.setHbWin (x : Port) (k : Nat) (v : BitVec 20) : Port :=
  { x with hbWin := v, hbOld := some (k, BitVec.ofNat 20 (x.hbWinAt k)) }

/-- The heartbeat count is at or above HB_WIN at the end of a KCLK, its last HCLK (R296). -/
def State.hbLate (s : State) (n : Nat) : Bool :=
  let x := s.port n
  decide (x.lstate = .admitted) && decide (s.clk.cyc % 8 = 7) && decide (x.hbStart + max 1 (x.hbWinAt s.kclk) ≤ s.kclk)

/-- HEARTBEAT_LAPSE (R296). -/
def execHeartbeatLapse (slot : Nat) (s : State) : Res :=
  s.atPort slot fun s =>
    if s.hbLate slot then ((s.noteSet (kPs slot 18)).modPort slot fun x => { x with hbLapse := true }).portDead slot 1 else s

/-- The deadline timer of a port has reached SNPDL (R443). -/
def State.snoopLate (s : State) (n : Nat) : Bool :=
  let x := s.port n
  decide (x.lstate = .admitted) && !x.psnp.isEmpty &&
    decide (x.dlStart + max 8192 ((s.router (s.build.leafOf n)).snpdlAt s.clk.cyc).toNat ≤ s.clk.cyc)

/-- SNOOP_DEADLINE_EXPIRY (R443). -/
def execSnoopDeadlineExpiry (slot : Nat) (s : State) : Res :=
  s.atPort slot fun s => if s.snoopLate slot then s.portDead slot 5 else s

/-! ### Eclipse (R298 to R301, R389) -/

/-- A captured rise of AP_ECL_REQ (R290, R298, R299). -/
def State.eclRise (s : State) (n : Nat) (ns : Bool) : State :=
  let x := s.port n
  if ns ∧ x.shold then s.setPort n { x with eclReq := true }
  else
    let x := { x with eclReq := true, eclAcc := true }
    ((match x.lstate with
      | .admitted => s.setPort n { x with fencing := true }
      | .dead => s.setPort n { x with eclAck := x.reclaimed }
      | _ => s.setPort n { x with eclAck := true }).event 4).irqS 23

/-- AP_ECL_REQ_RISE (R298, R483): a rise before the initialisation ends is captured when it ends. -/
def execApEclReqRise (slot : Nat) (ns : Bool) (s : State) : Res :=
  .next <|
    if ¬ slot < s.build.slots ∨ (s.port slot).eclReq then s
    else if s.clk.shut || s.clk.initBusy then s.modPort slot fun x => { x with risePend := some ns }
    else s.eclRise slot ns

/-- A captured fall of AP_ECL_REQ (R301, R389). -/
def State.eclFall (s : State) (n : Nat) : State :=
  s.modPort n fun x => { x with
    eclReq := false, eclAcc := false, eclAck := false, risePend := none, fencing := x.fencing && x.eclOp }

/-- AP_ECL_REQ_FALL (R301). -/
def execApEclReqFall (slot : Nat) (s : State) : Res :=
  .next (if slot < s.build.slots then s.eclFall slot else s)

/-- A packet in the leaf that is for agent `a`. -/
def forAgent (b : Build) (a : Nat) (k : Packet) : Bool :=
  match tgtOf b k with
  | .agent n => decide (n = a)
  | .multi => k.vec.getLsbD a
  | _ => false

/-- Packets of a place in every class. -/
def State.held (s : State) (l : Loc) : List Packet := (List.range 32).flatMap fun c => s.q l c

/-- The REQs of a port that the leaf still holds, or its upward dual-clock queue. -/
def State.reqsHeld (s : State) (n : Nat) : Nat :=
  (s.q (.leafUp n) cREQ).length + ((s.port n).upq.filter fun f => f.chan = cREQ).length

/-- The in-flight count of a port (R300): a REQ that the leaf or the upward dual-clock queue still holds counts as one that has not
ended and as a packet held. -/
def State.inflight (s : State) (n : Nat) : Nat :=
  let x := s.port n
  let q := s.build.leafOf n
  let mine (k : Packet) : Bool := x.attached && forAgent s.build x.agent k
  let toPort := ((s.held (.leafDown q)).filter mine).length + (s.held (.portDown n)).length +
    ((s.build.leafSlots q).flatMap fun m => (s.held (.leafUp m)).filter mine).length
  if x.lstate = .dead then toPort
  else toPort + (x.reqs.length + s.reqsHeld n) + ((s.held (.leafUp n)).length + x.upq.length)

/-- Opcode of ECLIPSE (R350). -/
abbrev opEclipse : Nat := 0x2D

/-- Operand word `i` of a management operation. -/
def MOp.word (o : MOp) (i : Nat) : Nat := (o.words.getD i 0).toNat

/-- An ECLIPSE operation on a port waits for its TIvDone (R387). -/
def State.eclTivOwed (s : State) (n : Nat) : Bool :=
  s.ez.ops.any fun o => o.started && decide (o.opc = opEclipse) && decide (o.word 0 % 512 = n) && decide (o.tiv % 2 = 1)

/-- The fence condition of a port (R299, R387). -/
def State.fenceReady (s : State) (n : Nat) : Bool :=
  let x := s.port n
  decide (x.lstate = .admitted) && x.fencing && decide (s.inflight n = 0) &&
    (List.range s.build.panels).all (fun p => !s.present p x.agent) && !s.eclTivOwed n

/-- PORT_FENCE_CLOSES (R299): an ECLIPSE operation on the port ends with 0x01 (R387). -/
def execPortFenceCloses (slot : Nat) (s : State) : Res :=
  s.atPort slot fun s =>
    if s.fenceReady slot then
      ((s.modPort slot fun x => { x with
        lstate := .eclipsed, fencing := false, eclOp := false, eclAck := x.eclReq && x.eclAcc, rstSince := false,
        stored := none }).eclipseEnds slot 1).sendState slot
    else s

/-! ### Reclamation (R290, R451, R474) -/

/-- Nothing of a dead agent is left at a panel. -/
def State.panelClear (s : State) (p a : Nat) : Bool :=
  let n := s.panel p
  n.dead.getLsbD a && !(match n.scan with | some c => c.agents.getLsbD a | none => false) && !n.scanNext.getLsbD a &&
    !s.present p a

/-- Reclamation of a port is complete (R451). -/
def State.reclaimReady (s : State) (n : Nat) : Bool :=
  let x := s.port n
  decide (x.lstate = .dead) && !x.reclaimed && decide (s.inflight n = 0) && !(s.net.ebars.any fun e => e.slot = n) &&
    (List.range s.build.panels).all fun p => s.panelClear p x.agent

/-- What follows when a port is reclaimed (R290). -/
def State.reclaim (s : State) (n : Nat) : State :=
  let s := s.modPort n fun x => { x with reclaimed := true, eclAck := x.eclReq && x.eclAcc }
  if (s.port n).rstSince then s.portDown n else s

/-- RECLAMATION_COMPLETE (R451). -/
def execReclamationComplete (slot : Nat) (s : State) : Res :=
  s.atPort slot fun s => if s.reclaimReady slot then s.reclaim slot else s

/-! ### Credits (R186, R277 to R279) -/

/-- The crossing of a port is in service. -/
def Port.inService (x : Port) : Bool := !x.rst && !x.hsPend

/-- A credit of the partner for class `cls` (R278): what waited for it leaves the downward queue. -/
def State.downCredit (s : State) (n cls : Nat) (hd dat : Ecc) : State :=
  let x := s.port n
  if cls ∉ [cREQ, cSNP, cRSP, cDAT, cMGT] ∨ ¬ x.inService ∨ x.lstate = .dead ∨ 2 ≤ s.slotBr n then s
  else if x.dnMax.getD cls 0 ≤ x.dnCrd.getD cls 0 then
    ((s.noteSet (kPs n 19)).modPort n fun x => { x with crdOvf := true }).headerFault n 3
  else (s.modPort n fun x => { x with dnCrd := x.dnCrd.set cls (x.dnCrd.getD cls 0 + 1) }).pumpPort n hd dat

/-- DOWNWARD_CREDIT (R278). -/
def execDownwardCredit (slot : Nat) (c : CrdPulse) (s : State) : Res :=
  s.atPort slot fun s => s.downCredit slot c.cls c.chk.hd c.chk.dat

/-- A REQ credit is withheld (R205, R279, R299). -/
def State.withheld (s : State) (n : Nat) : Bool :=
  let x := s.port n
  x.prioPend.isSome || x.fencing ||
  (decide (x.lstate = .admitted) &&
    decide (x.limit < x.reqs.length + s.reqsHeld n + x.upHeld.getD cREQ 0 + 1))

/-- UPWARD_CREDIT_RETURN (R277, R279). -/
def execUpwardCreditReturn (slot cls : Nat) (s : State) : Res :=
  s.atPort slot fun s =>
    let x := s.port slot
    if x.upFreed.getD cls 0 = 0 ∨ ¬ x.inService ∨ x.lstate = .dead ∨ 2 ≤ s.slotBr slot ∨ (cls = cREQ ∧ s.withheld slot) then s
    else
      (s.setPort slot { x with
        upFreed := x.upFreed.set cls (x.upFreed.getD cls 0 - 1),
        upHeld := x.upHeld.set cls (x.upHeld.getD cls 0 + 1) }).out (.credit slot cls)

/-! ### The check of upward packets (R263 to R274) -/

/-- The opcodes the chapter lists for a class other than REQ (R81 to R87). -/
def opcListed (cls opc : Nat) : Bool :=
  match cls with
  | 1 => decide (opc ∈ [1, 2, 3])
  | 2 => decide (opc ∈ [1, 2, 3, 4, 5])
  | 3 => decide (opc ∈ [1, 2, 3, 4, 5, 6, 7, 8, 9, 10, 11, 12, 13, 16, 17, 18])
  | 4 => decide (opc ∈ [1, 2, 3, 4])
  | 5 => if opc < 32 then decide (opc ∈ [1, 2, 3, 4, 5])
    else decide (opc - 32 ∈ [1, 2, 3, 4, 5, 6, 7, 8, 9, 10, 11, 12, 13, 16, 17, 18])
  | _ => false

/-- Rows 1 to 3 of R270, and the header faults of R263 and R273, at a port of beat width `w`. The byte enables of a REQ that is no WrU
are ignored (R267). -/
def upFaulty (w : Nat) (f : UpFlits) : Bool :=
  let h := Hdr.ofFlit f.hdr
  f.hdrPerr || decide (h.cls ≠ f.chan) || (decide (f.chan ≠ cREQ) && !opcListed h.cls h.opc) || f.gap w ||
  (decide (f.chan = cREQ) && decide (h.opc = oTIv) && decide (f.badFlits w ≠ 0)) ||
  (decide (f.chan = cREQ) && decide (h.opc = oWrU) && decide (h.size = 7) && f.bePerr w)

/-- Row 5 of R270. -/
def rowFive (x : Port) (h : Hdr) : Bool :=
  decide (h.cls = cREQ) &&
  (decide (h.opc ∉ [oRdS, oRdU, oUpg, oRdO, oWrU, oAtP, oEBar, oTIv, oTSy]) ||
    ((decide (h.opc = oTIv) || decide (h.opc = oTSy)) && decide (x.mode.version = 2)) ||
    ((decide (h.opc = oEBar) || decide (h.opc = oTIv) || decide (h.opc = oTSy)) && decide (h.size ≠ 0)))

/-- The channels of the upward direction (R260). -/
def upChans : List Nat := [cREQ, cWBK, cRSP, cDAT, cMGT]

/-- The leaf takes a packet from the port's dual-clock queue: its credit is free (R277, R280). -/
def State.freeUp (s : State) (n c : Nat) : State :=
  s.modPort n fun x =>
    if x.lstate = .dead ∨ ¬ x.inService then x else { x with upFreed := x.upFreed.set c (x.upFreed.getD c 0 + 1) }

/-- An EBar, a TIv or a TSy, whose ADDR Dreavo ignores (R241). -/
def noAddr (h : Hdr) : Bool := decide (h.cls = cREQ) && (decide (h.opc = oEBar) || decide (h.opc = oTIv) || decide (h.opc = oTSy))

/-- The leaf's DecodeErr to a request of row 5 (R76, R241, R270). It carries the WORLD that the partner sent, for the rewrite of R271 is
row 6's (DESIGN CHOICE, log entry 64). It enters the port's downward queue at once: R203 gives an answer that the leaf itself makes to
its own port no turn at the port output, and the model gives it none (DESIGN CHOICE, log entry 61). -/
def State.leafDecodeErr (s : State) (n : Nat) (h : Hdr) : State :=
  let q := s.build.leafOf n
  let e := (s.router q).epoch
  (s.addInj q e 1).deliverPort n
    { hdr := { cls := cRSP, opc := oDecodeErr, prio := (s.port n).prio, epoch := e, src := nLeaf0 + q, dst := h.src,
               tag := h.tag, addr := if noAddr h then 0 else h.addr, world := h.world, part := h.part } } .ok .ok

/-- The packet as the leaf forwards it (R201, R205, R214, R241, R265, R267, R271, R273, R412). -/
def State.upPacket (s : State) (n : Nat) (f : UpFlits) : Packet :=
  let x := s.port n
  let w := x.width
  let h := Hdr.ofFlit f.hdr
  let line : Bool := decide (h.payload = 64)
  let h := { h with
    addr := if noAddr h then 0 else h.addr
    prio := if h.cls = cMGT then 0 else if h.cls = cREQ then x.prio else x.prioPend.getD x.prio,
    epoch := (s.router (s.build.leafOf n)).epoch, world := if x.nsOnly then 1 else h.world,
    poison := h.poison || (line && decide (f.badFlits w ≠ 0)) || (decide (h.payload ≠ 0) && decide (f.dat = .ue)) }
  { hdr := h, data := if line then f.data w else 0,
    be := if h.cls = cREQ ∧ h.opc = oWrU ∧ h.size = 7 then f.be w else 0,
    desc := if h.cls = cREQ ∧ h.opc = oTIv then (f.data w).setWidth 256 else 0 }

/-- An acknowledgement answers an owner snoop: the port's pending-snoop entry for it has OWNER set (R89, R442). -/
def Port.owesOwner (x : Port) (k : Packet) : Bool :=
  isAck k && x.psnp.any fun e => e.owner && decide (e.htc = k.hdr.htc) && decide (e.mgt = decide (k.hdr.cls = cMGT))

/-- Row 6 of R270: the packet waits in the leaf's input buffer (R216, R273). -/
def State.forward (s : State) (n : Nat) (f : UpFlits) : State :=
  let k := s.upPacket n f
  let k := { k with aux := b2n ((s.port n).owesOwner k), vec := if isAck k then vbit (s.port n).agent else 0 }
  let bad := if k.bytes = 80 then f.badFlits (s.port n).width else 0
  let s := s.modPort n fun x => { x with dataPar := ctrAdd x.dataPar bad }
  (s.addInj (s.build.leafOf n) k.hdr.epoch 1).push (.leafUp n) k.hdr.cls (s.lookAhead (.leafUp n) k)

/-- The leaf has room for what an upward packet that passes rows 1 to 4 becomes: a DecodeErr in the port's RSP queue, or a packet in
its own buffers (R39, R40). Until it has, the packet stays in the dual-clock queue. -/
def State.upRoom (s : State) (n : Nat) (h : Hdr) : Bool :=
  if rowFive (s.port n) h then s.hasCredit (.portDown n) cRSP else s.hasCredit (.leafUp n) h.cls

/-- Rows 4 to 6 of R270, in ADMITTED. -/
def State.upAdmitted (s : State) (n : Nat) (f : UpFlits) : State :=
  let x := s.port n
  let q := s.build.leafOf n
  let h := Hdr.ofFlit f.hdr
  let c := f.chan
  if h.src ≠ x.agent ∨ h.part ≠ x.part then s.protoErr n 2 h.cls h.opc
  else if rowFive x h then (s.leafDecodeErr n h).protoErr n 3 h.cls h.opc
  else if f.psnp = .ue ∧ c ∈ [cRSP, cDAT, cMGT] then s.routerFatal q 0xE0
  else (if c ∈ [cRSP, cDAT, cMGT] then s.bucket (rtBase q + 0xE0) f.psnp else s).forward n f

/-- The leaf can take the packet `f` from the upward dual-clock queue now (R39, R40, R438, R474). -/
def State.upCan (s : State) (n : Nat) (f : UpFlits) : Bool :=
  let x := s.port n
  !s.routerFrozen (s.build.leafOf n) && decide (s.slotBr n < 2) &&
  (decide (f.hd = .ue) || decide (x.lstate ≠ .admitted) || upFaulty x.width f || s.upRoom n (Hdr.ofFlit f.hdr))

/-- The leaf takes an upward packet from the port's dual-clock queue and checks it (R270 to R273, R277, R280, R290, R303, R407,
R412, R442, R504). -/
def State.upTake (s : State) (n : Nat) (f : UpFlits) : State :=
  let q := s.build.leafOf n
  let h := Hdr.ofFlit f.hdr
  let s := s.modPort n fun x => { x with winUp := x.winUp + 16 + h.payload }
  if f.hd = .ue then s.routerFatal q 0x80
  else
    let s := ((s.freeUp n f.chan).bucket (rtBase q + 0x80) f.hd).bucket (rtBase q + 0x80) (if h.payload = 0 then .ok else f.dat)
    let x := s.port n
    if upFaulty x.width f then s.headerFault n 2
    else if x.lstate ≠ .admitted then s.protoErr n (if x.lstate = .eclipsed then 8 else 4) h.cls h.opc
    else s.upAdmitted n f

/-- One packet of the upward dual-clock queues: the leaf takes it, unless an earlier one of its class waits (R280). -/
def State.upOne (n : Nat) (r : State × List Nat) (f : UpFlits) : State × List Nat :=
  if f.chan ∈ r.2 ∨ ¬ (r.1.port n).upq.contains f ∨ ¬ r.1.upCan n f then (r.1, f.chan :: r.2)
  else ((r.1.modPort n fun x => { x with upq := x.upq.erase f }).upTake n f, r.2)

/-- The leaf takes from the upward dual-clock queues of port `n` what it has room for (R39, R280). -/
def State.upPump (s : State) (n : Nat) : State := ((s.port n).upq.foldl (State.upOne n) (s, [])).1

/-- A whole upward packet enters the port's dual-clock queue of its class, at the cost of the partner's credit (R277, R280), and the leaf
takes it as soon as it has room. -/
def State.upCheck (s : State) (n : Nat) (f : UpFlits) : State :=
  let x := s.port n
  let c := f.chan
  let down := decide (x.lstate = .down)
  if x.lstate = .dead ∨ c ∉ upChans ∨ (¬ down ∧ (¬ x.inService ∨ x.upHeld.getD c 0 = 0)) ∨ 2 ≤ s.slotBr n then s
  else
    (s.setPort n { x with
      upq := x.upq ++ [f], upHeld := if down then x.upHeld else x.upHeld.set c (x.upHeld.getD c 0 - 1) }).upPump n

/-- UPWARD_PACKET_CHECK (R270). -/
def execUpwardPacketCheck (slot : Nat) (f : UpFlits) (s : State) : Res := s.atPort slot fun s => s.upCheck slot f

end Sys2Proof.Machine
end

