-- ==== Sys2Proof/Machine/Ephem.lean ====
section
/-! DEFINITION. The Ephemeris: its SRAM, staging, calendar, checkpoints and restores, and the meanings of
CHECKPOINT_PERIOD and EPHEMERIS_STAGING_FLUSH (R518 to R527). -/

namespace Sys2Proof.Machine

/-! ### The SRAM (R518, R521) -/

/-- The stored codeword of Ephemeris word `i`. -/
def State.ephRaw (s : State) (i : Nat) : BitVec 80 := smGet (Config.freeEph s.nonce i) s.ep.sram i

/-- The data bits of Ephemeris word `i`, corrected. -/
def State.ephGet (s : State) (i : Nat) : Nat := (decW (s.ephRaw i)).data

/-- Write Ephemeris word `i` with fresh check bits. -/
def State.ephPut (s : State) (i v : Nat) : State :=
  { s with ep := { s.ep with sram := smSet s.ep.sram i (encW (BitVec.ofNat 64 v)) } }

/-- Read Ephemeris word `i` as disturbed by `mask`: a corrected word is rewritten, an uncorrectable one is kept, marked
and rewritten with fresh check bits; both are logged (R414, R415, R418, R520, R521). -/
def State.ephTake (s : State) (i : Nat) (mask : BitVec 80) : State × Nat :=
  match decW (s.ephRaw i ^^^ mask) with
  | .ok d => (s, d)
  | .ce d => (((s.bucketCe 0xA1080).ezElog 2 i false).ephPut i d, d)
  | .ue d =>
    let s := (((s.bucketUe 0xA1080).ezElog 2 i true).calendar true (0xB3000000 + i)).calendar true (0xD0000000 + i)
    let m := 496 + i / 64
    let s := s.ephPut i d
    (s.ephPut m (s.ephGet m ||| 2 ^ (i % 64)), d)

/-- Add to an Ephemeris count, which saturates; an EP_ATTACH word holds two of 32 bits (R518). -/
def State.ephAdd (s : State) (i n : Nat) (mask : BitVec 80) : State :=
  let r := s.ephTake i mask
  if 64 ≤ i ∧ i < 192 then
    let lo := min (2 ^ 32 - 1) (r.2 % 2 ^ 32 + n % 2 ^ 32)
    let hi := min (2 ^ 32 - 1) (r.2 / 2 ^ 32 + n / 2 ^ 32)
    r.1.ephPut i (hi * 2 ^ 32 + lo)
  else r.1.ephPut i (min (2 ^ 64 - 1) (r.2 + n))

/-- The bits of word `i` that R518 names; none of a word that it does not name (R17, R18). -/
def ephMask (i : Nat) : Nat :=
  if i = 0 then 0xFFFFFFFF000000FF
  else if i = 3 then 0xFF
  else if i = 256 then 0xFFFFFFFF0000001F
  else if i = 511 then 0xFFFFFFFF
  else if 192 ≤ i ∧ i < 256 ∧ i % 2 = 1 then 0x1FFFFFFFF
  else if i ≤ 16 ∨ (32 ≤ i ∧ i < 48) ∨ (64 ≤ i ∧ i < 256) ∨ (496 ≤ i ∧ i < 504) then 0xFFFFFFFFFFFFFFFF
  else 0

/-! ### Staging and the calendar (R519, R520) -/

/-- Staging is held: before the first LEDGER FUNC 1, and while a checkpoint reads the image (R519, R523). -/
def State.ephHeld (s : State) : Bool :=
  s.ep.held || (match s.ep.job with | .check _ left _ _ _ => !left.isEmpty | .restore _ _ _ _ => true | .none => false)

/-- Write one calendar entry at NEXT (R520). -/
def State.calWrite (s : State) (e : Nat × BitVec 64 × BitVec 64) : State :=
  let r := s.ephTake 256 0
  let k := r.2 % 32
  ((r.1.ephPut (192 + 2 * k) e.2.1.toNat).ephPut (193 + 2 * k) e.2.2.toNat).ephPut 256
    ((r.2 / 2 ^ 32 + 1) % 2 ^ 32 * 2 ^ 32 + (k + 1) % 32)

/-- HW of a calendar entry. -/
def calHw (e : Nat × BitVec 64 × BitVec 64) : Bool := e.2.2.getLsbD 32

/-- The calendar entry `e` can be written: its KCLK is over, for an entry of this KCLK may still have to go before others of it. While
staging is held, only a FUNC 3 entry is written, behind the HW 1 entries of its own KCLK (R520; DESIGN CHOICE, log entry 65). -/
def State.calDue (s : State) (e : Nat × BitVec 64 × BitVec 64) : Bool :=
  decide (e.1 < s.kclk) &&
    (!s.ephHeld || (decide (s.ep.job = .none) && s.ep.cals.any fun f => decide (f.1 = e.1) && !calHw f))

/-- Write the calendar entries that are due, in their order (R520). -/
def State.calFlush (s : State) : State :=
  (s.ep.cals.filter s.calDue).foldl State.calWrite { s with ep := { s.ep with cals := s.ep.cals.filter fun e => !s.calDue e } }

/-- Stage the HCLK cycles of life and of the profile (R518, R519). -/
def State.ephLife (s : State) : State :=
  let n := s.clk.cyc
  let s := s.stage 0x28 (n - s.ep.lifeFrom)
  let s := match s.ep.profSince with
    | some c => s.stage (if s.bounded then 0x30 else 0x38) (n - c)
    | none => s
  { s with ep := { s.ep with lifeFrom := n, profSince := s.ep.profSince.map fun _ => n } }

/-- Add all staging into the SRAM; `ups` disturbs the words read (R519). -/
def State.ephFlush (s : State) (ups : List (Nat × BitVec 80)) : State :=
  if s.ephHeld then s
  else
    let s := s.ephLife
    let st := s.ep.staging
    (st.foldl (fun (s : State) e => s.ephAdd e.1 e.2 (((ups.find? fun u => u.1 = e.1).map (·.2)).getD 0))
      { s with ep := { s.ep with staging := [] } }).calFlush

/-- EPHEMERIS_STAGING_FLUSH (R519). -/
def execEphemerisStagingFlush (ups : List (Nat × BitVec 80)) (s : State) : Res := .next (s.whenLive fun s => s.ephFlush ups)

/-! ### Checkpoints (R522 to R525) -/

/-- Set the status of the LEDGER operations of a function that are at a mark (R522, R526). -/
def State.ledgerStatus (s : State) (func mark st : Nat) : State :=
  { s with ez := { s.ez with ops := s.ez.ops.map fun o =>
      if o.opc = 0x33 ∧ o.word 0 % 4 = func ∧ o.started ∧ o.mark = mark then { o with status := some st } else o } }

/-- The 32-bit words, in ascending byte order, of a list of 64-bit words. -/
def halfWords (ws : List Nat) : List (BitVec 32) :=
  ws.flatMap fun w => [BitVec.ofNat 32 w, BitVec.ofNat 32 (w / 2 ^ 32)]

/-- EP_CRC over words 0 to 510 (R524). -/
def ephCrc (ws : List Nat) : Nat := (crc32 (halfWords (ws.take 511))).toNat

/-- A line of eight words. -/
def lineOf (ws : List Nat) : BitVec 512 := BitVec.ofNat 512 (ws.foldr (fun w a => w + a * 2 ^ 64) 0)

/-- Read all words of the SRAM for a record: reserved words and bits are zero (R17, R518). -/
def State.ephWords (s : State) : State × List Nat :=
  (List.range 512).foldl (fun r i =>
    if ephMask i = 0 then (r.1, r.2 ++ [0]) else let t := r.1.ephTake i 0; (t.1, r.2 ++ [t.2 &&& ephMask i])) (s, [])

/-- The byte address of line `k` of slot A (0) or B (1). -/
def State.ephAddr (s : State) (slot k : Nat) : Nat :=
  let a := s.ep.slots.getD (0, 0)
  (if slot = 0 then a.1 else a.2) + 64 * k

/-- Steps 1 and 2 of R523, and the image with its EP_CRC. -/
def State.ephStart (s : State) (cause : Nat) : State :=
  let s := s.ephFlush []
  let seq := s.ep.lastSeq.toNat + 1
  let s := ((s.ephPut 1 seq).ephPut 2 s.clk.time.toNat).ephPut 3 cause
  let r := s.ephWords
  let ws := r.2.set 511 (ephCrc r.2)
  let img := (List.range 64).map fun k => lineOf ((ws.drop (8 * k)).take 8)
  let slot := if s.ep.lastSlot = some 0 then 1 else 0
  let s := r.1
  { s with
    ep := { s.ep with trigger := none, lastSeq := BitVec.ofNat 64 seq, tried := true,
                      job := .check slot (List.range 64) img false [] },
    ez := { s.ez with ops := s.ez.ops.map fun o =>
      if o.opc = 0x33 ∧ o.word 0 % 4 = 0 ∧ o.started ∧ o.mark = 1 then { o with mark := 2 } else o } }

/-- The end of a checkpoint (R522, R523, R525, R527). -/
def State.ephEnd (s : State) (slot : Nat) (ok : Bool) : State :=
  let s := { s with ep := { s.ep with
    job := .none, ok := ok, memOut := [], lastSlot := if ok then some slot else s.ep.lastSlot } }
  let s := if ok then s else s.ctr6 0xA1320 1
  s.ledgerStatus 0 2 (if ok then 1 else 5)

/-- A memory port is frozen, by its own fault or with the root crossbar (R438). -/
def State.portStopped (s : State) (m : Nat) : Bool := s.clk.frozenRoot || (s.mp m).stopped

/-- Message `id` of the Ephemeris writer waits at a memory port that acts, or is out under one of its tags. -/
def State.ephLive (s : State) (id : Nat) : Bool :=
  (List.range s.build.memPorts).any fun m => !s.portStopped m &&
    ((smGet [] s.ep.memOut m).any (fun r => decide (r.own = .eph id)) || (s.mp m).tags.any fun t => decide (t.2.own = .eph id))

/-- The messages of a list that will have no answer: they stand in a frozen port, or it froze as it held them (R407, R438, R523). -/
def State.ephLost (s : State) (waiting : List Nat) : List Nat := waiting.filter fun id => !s.ephLive id

/-- Queue a message of the Ephemeris writer (R321). -/
def State.ephQueue (s : State) (m mopc pa : Nat) (code : Bool) (data : BitVec 512) (id : Nat) : State :=
  let r : MemReq := { mopc := mopc, line := pa / 64, world := 0, part := 0, code := code, size := 6, off := 0,
                      data := data, be := if mopc = 2 then BitVec.allOnes 64 else 0, own := .eph id }
  { s with ep := { s.ep with memOut := smMod [] s.ep.memOut m (· ++ [r]) } }

/-- The memory port of an access of the Ephemeris writer: none where the address is undecoded or the port frozen (R309,
R523). -/
def State.ephPort (s : State) (pa : Nat) : Option (Nat × Bool) :=
  (s.mgmtDecode false pa).filter fun r => !s.portStopped r.1

/-! ### Restores (R526) -/

/-- Message number of line `i` of a restore. -/
def restoreId (i : Nat) : Nat := 2 ^ 80 + i

/-- The words of a slot's record, when it is valid. -/
def slotRecord (got : SMap Buf) (bad : List Nat) (z : Nat) : Option (List Nat) :=
  let ls := (List.range 64).filterMap fun k => (smFind got (64 * z + k)).map (·.data.toNat)
  let ws := ls.flatMap fun l => (List.range 8).map fun j => bitsN l (64 * j) 64
  if z ∉ bad ∧ ls.length = 64 ∧ ws.getD 0 0 / 2 ^ 32 = 0x4550484D ∧ ws.getD 0 0 % 256 = 1 ∧
      ephCrc ws = ws.getD 511 0 % 2 ^ 32 then some ws else none

/-- The slot FUNC 1 loads, and its words. -/
def bestRecord (got : SMap Buf) (bad : List Nat) : Option (Nat × List Nat) :=
  match slotRecord got bad 0, slotRecord got bad 1 with
  | some a, some b => if a.getD 1 0 < b.getD 1 0 then some (1, b) else some (0, a)
  | some a, none => some (0, a)
  | none, some b => some (1, b)
  | none, none => none

/-- The end of LEDGER FUNC 1 (R487, R519, R520, R526). -/
def State.restoreEnd (s : State) (got : SMap Buf) (bad : List Nat) : State :=
  let best := bestRecord got bad
  let s := { s with ep := { s.ep with job := .none, memOut := [] } }
  let s := match best with
    | some (z, ws) =>
      let s := ws.zipIdx.foldl (fun (s : State) (e : Nat × Nat) => s.ephPut e.2 (e.1 &&& ephMask e.2)) s
      { s with ep := { s.ep with
        restored := true, lastSlot := some z, lastSeq := if s.ep.tried then s.ep.lastSeq else BitVec.ofNat 64 (ws.getD 1 0) } }
    | none => { s with ep := { s.ep with restored := false, lastSeq := if s.ep.tried then s.ep.lastSeq else 0 } }
  let s := s.ephAdd 8 1 0
  let s := if s.clk.wdog then s.ephAdd 9 1 0 else s
  let s := s.calendar true (0x80000000 + (if best.isNone then 2 else 0) + b2n s.clk.wdog)
  let s := { s with clk := { s.clk with wdog := false }, ep := { s.ep with held := false } }
  s.calFlush.ledgerStatus 1 2 (if best.isSome then 1 else 2)

/-! ### One move of the writer -/

/-- One move of the Ephemeris writer: start a checkpoint that was asked for, once the calendar entries of this KCLK are written, queue
the next line once the last has been granted, or end (R520, R522, R523, R526). A line that a frozen port has lost fails a checkpoint, and
makes the slot of a restore invalid. -/
def State.ephStep (s : State) : State :=
  let idle := s.ep.memOut.all fun e => e.2.isEmpty
  match s.ep.job with
  | .none =>
    match s.ep.trigger with
    | some c => if s.ep.cals.any fun e => e.1 = s.kclk then s else s.ephStart c
    | none => s
  | .check slot left img fail waiting =>
    let set (s : State) (j : EphJob) : State := { s with ep := { s.ep with job := j } }
    if s.ephLost waiting ≠ [] then s.ephEnd slot false
    else match left with
      | k :: rest =>
        if ¬ idle then s
        else
          let pa := s.ephAddr slot k
          match s.ephPort pa with
          | some (m, code) =>
            let id := s.ep.lastSeq.toNat * 64 + k
            set (s.ephQueue m 2 pa code (img.getD k 0) id) (.check slot rest img fail (waiting ++ [id]))
          | none => set s (.check slot [] img true waiting)
      | [] => if idle ∧ waiting = [] then s.ephEnd slot !fail else s
  | .restore left got bad waiting =>
    let set (s : State) (j : EphJob) : State := { s with ep := { s.ep with job := j } }
    let lost := s.ephLost waiting
    if lost ≠ [] then
      let dead := lost.map fun i => (i - 2 ^ 80) / 64
      let s := { s with ep := { s.ep with memOut := s.ep.memOut.map fun e => (e.1, e.2.filter fun r => lost.all fun i => decide (r.own ≠ .eph i)) } }
      set s (.restore (left.filter fun j => j / 64 ∉ dead) got (bad ++ dead) (waiting.filter fun i => i ∉ lost))
    else match left with
      | i :: rest =>
        if ¬ idle then s
        else
          let pa := s.ephAddr (i / 64) (i % 64)
          match s.ephPort pa with
          | some (m, code) => set (s.ephQueue m 1 pa code 0 (restoreId i)) (.restore rest got bad (waiting ++ [restoreId i]))
          | none => set s (.restore (rest.filter fun j => j / 64 ≠ i / 64) got (bad ++ [i / 64]) waiting)
      | [] => if idle ∧ waiting = [] then s.restoreEnd got bad else s

/-- The writer moves as far as it can. -/
def State.ephPump (s : State) : State := s.ephStep.ephStep.ephStep.ephStep

/-- Begin reading both slots (R526). -/
def State.restoreStart (s : State) : State :=
  { s with ep := { s.ep with job := .restore (List.range 128) [] [] [] } }.ephPump

/-- A completion of a write of the Ephemeris writer (R523, R559). -/
def State.ephWrDone (s : State) (id err : Nat) : State :=
  match s.ep.job with
  | .check slot left img fail waiting =>
    if id ∈ waiting then
      ({ s with ep := { s.ep with job := .check slot left img (fail || decide (err ≠ 0)) (waiting.erase id) } }).ephPump
    else s
  | _ => s

/-- An MData that answers a slot read (R526). -/
def State.ephMData (s : State) (id : Nat) (b : Buf) : State :=
  match s.ep.job with
  | .restore left got bad waiting =>
    if id ∈ waiting then
      let i := id - 2 ^ 80
      let bad := if b.poison ∨ b.err ≠ 0 then bad ++ [i / 64] else bad
      ({ s with ep := { s.ep with job := .restore left (smSet got i b) bad (waiting.erase id) } }).ephPump
    else s
  | _ => s

/-- EP_CTL.PERIOD has expired since the last time (R522, R527). -/
def State.periodDue (s : State) : Bool :=
  let n := bitsN (s.w6g 0xA1300).toNat 0 16
  decide (s.host.prof ≠ 0) && decide (n ≠ 0) && decide (s.ep.lastPeriod + n * 2 ^ 36 ≤ s.clk.cyc)

/-- CHECKPOINT_PERIOD (R522). -/
def execCheckpointPeriod (s : State) : Res :=
  .next (s.whenLive fun s =>
    if s.periodDue then (({ s with ep := { s.ep with lastPeriod := s.clk.cyc } }).wantCheck 3).ephPump else s)

end Sys2Proof.Machine
end

