-- ==== Sys2Proof/Machine/Recovery.lean ====
section
/-! DEFINITION. Dead agents at a panel, the Restorer, the supply warning, bucket leaks and twin pipelines: the meanings of
DEATH_MARKER to RESTORER_PALETTE_STEP, SUPPLY_WARN_RISE, SUPPLY_WARN_CLEARED, AFTER_DIP_SWEEP_END, BUCKET_LEAK and
TWIN_MISMATCH (R415, R421 to R424, R438, R447 to R455). -/

namespace Sys2Proof.Machine

/-! ### The death marker (R447, R448) -/

/-- The HTC of a request stands before D8: it waits in its queue, or in DECIDE for anything but the D9 wait for a proxy slot or a
data-buffer line (R161, R448). -/
def Htc.beforeD8 (h : Htc) : Bool :=
  decide (h.phase = .queued) || (decide (h.phase = .decide) && decide (h.hold ≠ .proxy) && decide (h.hold ≠ .buffer))

/-- The death marker's work on one HTC (R447, R448). `cut`: the line that the agent sent this HTC's requester was discarded with its port,
which R445 gives no outcome: it is R131's Lost, so that the line's order goes on (R169; DESIGN CHOICE, log entry 54). -/
def PX.deadHtc (x : PX) (a i : Nat) (cut : Bool) (h : Htc) : PX :=
  let mine := decide (h.job = .req) && decide (h.pkt.hdr.src = a)
  if mine && h.beforeD8 then (x.endHtc i h).afterFree h.line
  else
    let h := if mine then { h with deadRq := true } else h
    let cut := cut && decide (h.ow = some a)
    let gone := cut && h.owAck && h.owFwdSeen && !h.sentData
    let h := { h with fwdCut := h.fwdCut || (cut && !h.owAck), owFwdSeen := h.owFwdSeen && !gone }
    if (h.owEvict ∨ h.owNeed ∨ gone) ∧ h.ow = some a then
      let r := x.ownerLost h a
      r.1.advance i r.2
    else if mine then x.advance i h else if h.fwdCut then x.setHtc i h else x

/-- A panel accepts the death marker of agent `a`, which names the HTCs `cut` (R447 to R449). -/
def PX.deathMark (x : PX) (a : Nat) (cut : List Nat) : PX :=
  let known := x.pn.dead.getLsbD a &&
    ((match x.pn.scan with | some c => c.agents.getLsbD a | none => false) || x.pn.scanNext.getLsbD a)
  let x := x.mod fun n => { n with lastAcc := some x.s.clk.cyc }
  if known then x
  else
    let x := x.mod fun n => { n with dead := n.dead ||| vbit a }
    let x := (x.pn.htcs.map (·.1)).foldl (fun x i => match x.htc? i with | some h => x.deadHtc a i (decide (i ∈ cut)) h | none => x) x
    x.mod fun n => match n.scan with
      | none => { n with scan := some { agents := vbit a } }
      | some _ => { n with scanNext := n.scanNext ||| vbit a }

/-- DEATH_MARKER (R447). -/
def execDeathMarker (p : Nat) (u : Upset) (s : State) : Res :=
  s.atInput p <|
    match (s.px p u).wbkTurn with
    | some k =>
      if k.hdr.opc = 63 then (s.take (.panelIn p) cWBK).panelStep p u fun x => x.deathMark k.aux (unpackHtcs k.desc p) else s
    | none => s

/-! ### The scan (R449, R450) -/

/-- Clear the bits of agents in the codewords of a slot that hold them (R449). -/
def PX.clearBits (x : PX) (slot : Nat) (v dead : Vec) : PX :=
  (List.range 4).foldl (fun x cw =>
    let w (a : Vec) : Nat := bitsN a.toNat (64 * cw) 64
    if w (v &&& dead) = 0 then x else x.setPal slot cw (BitVec.ofNat 64 (w (v &&& ~~~dead)))) x

/-- One slot of the Palette pass, which edits every valid slot, a lost one too (R449). -/
def PX.scanPal (x : PX) (c : Scan) : PX :=
  let r := x.readSlot c.pos
  let x := if r.2.valid then r.1.clearBits c.pos r.2.vec c.agents else r.1
  let next : Scan := if c.pos + 1 < 4 * x.s.build.palSets then { c with pos := c.pos + 1 } else { c with pal := false, pos := 0 }
  x.mod fun n => { n with scan := some next }

/-- DEAD_SCAN_PALETTE_SLOT (R449). -/
def execDeadScanPaletteSlot (p : Nat) (u : Upset) (s : State) : Res :=
  s.atPanel p <|
    match (s.panel p).scan with
    | some c => if c.pal then s.panelStep p u fun x => x.scanPal c else s
    | none => s

/-- Management HTC `i`, with which a scan has written a line to memory: it is freed as an HTC in CLOSE is (R153, R450, R502). -/
def PX.scanHold (x : PX) (i : Nat) : PX :=
  ((x.setHtc i { (x.newMgmt .hold 0 0 511) with phase := .close, closeAt := x.s.clk.cyc }).mod fun n =>
    { n with seq := n.seq + 1 }).eff (.event 0x1A 1 none)

/-- The directory pass on one entry (R450); none where it needs a management HTC and none is free. -/
def PX.scanWay (x : PX) (c : Scan) (set w : Nat) (e : Ent) : Option PX :=
  let line := x.s.unhash x.p set e.tag
  let dead := c.agents.getLsbD e.agent
  let set' (x : PX) (e' : Ent) : PX := x.setWay set w e'
  let solo (x : PX) (st a : Nat) : PX := (x.release e.pal set).setWay set w { e with st := st, agent := a, pal := 0 }
  if x.lineBusy line then some x
  else match e.st with
    | 2 => some (if dead then set' x {} else x)
    | 4 => some (if dead then set' x {} else x)
    | 5 =>
      let r := x.readSlot e.pal
      let v := r.2
      some <|
        if v.lost then r.1
        else match popc v.vec with
          | 0 => set' (r.1.release e.pal set) {}
          | 1 => solo r.1 4 ((lowest v.vec).getD 0)
          | _ => r.1
    | 7 =>
      let r := x.readSlot e.pal
      let v := r.2
      if dead then
        match r.1.freeHtc 2 with
        | none => none
        | some i =>
          let reg := r.1.regOf line
          let x := r.1.poisonLine {} line reg [] none
          let inv := (if v.lost then x.wider v else v.vec) &&& ~~~(c.agents ||| vbit e.agent)
          if inv = 0 then some (set' ((x.release e.pal set).scanHold i) {})
          else
            let h := { x.newMgmt .scan line 0 511 with
              phase := .collect, tabled := true, reg := reg, way := some w, ent := e, vec := v.vec, lost := v.lost,
              oldPal := some e.pal }
            let x := (x.mod fun n => { n with seq := n.seq + 1 }).eff (.event 0x1A 1 none)
            let t := (x.widerEv v.lost inv none).snoop i h line none 0 inv
            some (t.1.setHtc i t.2)
      else some (if ¬ v.lost ∧ v.vec = vbit e.agent then solo r.1 6 e.agent else r.1)
    | 1 | 3 | 6 =>
      if ¬ dead then some x
      else (x.freeHtc 2).map fun i => set' ((x.poisonLine {} line (x.regOf line) [] none).scanHold i) {}
    | _ => some x

/-- One set of the directory pass; the pass stays at a set that a management HTC could not finish (R449, R450). A set being swept is
the sweep's, whose end leaves every way I (R426, R427, R431); an untrusted way starts a sweep (R407). -/
def PX.scanDir (x : PX) (c : Scan) : PX :=
  let (x, rd) := x.readSet noHtc c.pos
  let x := if rd.bad then x.sweepTrigger c.pos 0 else x
  let ents := if c.pos ∈ x.pn.sweeping then [] else rd.ents
  let r := ents.foldl (fun (r : PX × Bool) e =>
    match r.1.scanWay c c.pos e.1 e.2 with
    | some y => (y, r.2)
    | none => (r.1, true)) (x, false)
  if r.2 then r.1
  else r.1.mod fun n =>
    if c.pos + 1 < x.s.build.sets then { n with scan := some { c with pos := c.pos + 1 } }
    else if n.scanNext = 0 then { n with scan := none }
    else { n with scan := some { agents := n.scanNext }, scanNext := 0 }

/-- DEAD_SCAN_DIRECTORY_SET (R449, R450). -/
def execDeadScanDirectorySet (p : Nat) (u : Upset) (s : State) : Res :=
  s.atPanel p <|
    match (s.panel p).scan with
    | some c => if c.pal then s else s.panelStep p u fun x => x.scanDir c
    | none => s

/-! ### The Restorer (R421 to R424) -/

/-- KCLK between the steps of panel `p` (R421, R424, R454). -/
def State.stepGap (s : State) (p : Nat) : Nat :=
  if s.rs.dip || (s.panel p).recount.isSome then 6 else max 6 (bitsN (s.w6g 0xA1200).toNat 0 25)

/-- The panels that step together in the sweep: those that act, have no recount of their own, and have not ended the after-dip sweep
(R421, R424, R438, R454). -/
def State.stepping (s : State) : List Nat :=
  (List.range s.build.panels).filter fun p =>
    !s.panelFrozen p && (s.panel p).recount.isNone && !(s.rs.dip && decide (p ∈ s.rs.dipDone))

/-- Every panel of the sweep has taken the step in progress (R421). -/
def State.roundOver (s : State) : Bool := s.stepping.all fun p => decide (p ∈ s.rs.took)

/-- A new step of the sweep is due: none is in progress, and the interval is over (R421). -/
def State.roundDue (s : State) (p : Nat) : Bool :=
  (decide (s.rs.took = []) || s.roundOver) && decide (s.rs.stepK + s.stepGap p ≤ s.kclk)

/-- The request of the Restorer for panel `p` that waits in the root's input. -/
def State.restWaiting (s : State) (p : Nat) : Option RestIn := s.net.rsMgt.find? fun q => q.panel = p

/-- The Restorer sends its request for a step at panel `p`: its own of a recount, the one that every panel takes in turn, or a new one;
its last request for the panel is over, and the root has a free buffer for this one (R40, R365, R421, R424). -/
def State.stepAsk (s : State) (p : Nat) : Bool :=
  decide (s.host.prof ≠ 0) && !s.routerFrozen 40 && (s.restWaiting p).isNone && decide (s.net.rsMgt.length < 4) &&
    (if (s.panel p).recount.isSome then decide ((s.panel p).rlast + 6 ≤ s.kclk)
     else s.roundDue p || (decide (s.rs.took ≠ []) && decide (p ∉ s.rs.took)))

/-- A management request can cross to panel `p` now: the link is free, and the panel can take it as its management request of this
KCLK, in a free management HTC (R151 to R153; log entry 18). -/
def State.mgmtOpen (s : State) (p : Nat) : Bool := s.linkFree p && (s.px p {}).mgmtFree

/-- The Restorer's step at panel `p` is due, and can be taken at once (R151 to R153, R421). -/
def State.stepDue (s : State) (p : Nat) : Bool := s.stepAsk p && s.mgmtOpen p

/-- Note the step that panel `p` takes: its own of a recount, or that of the sweep (R421, R424). -/
def State.stepNote (s : State) (p : Nat) : State :=
  if (s.panel p).recount.isSome then s.modPanel p fun n => { n with rlast := s.kclk }
  else if s.roundDue p then { s with rs := { s.rs with stepK := s.kclk, took := [p] } }
  else { s with rs := { s.rs with took := p :: s.rs.took } }

/-- Change every written slot that satisfies a test. -/
def PX.mapSlots (x : PX) (f : PSlot → Bool) (g : PSlot → PSlot) : PX :=
  (x.pn.pal.filter fun e => e.1 % 8 = 4).foldl (fun x e =>
    let r := x.readSlot (e.1 / 8)
    if f r.2 then r.1.setSlot (e.1 / 8) (g r.2) else r.1) x

/-- The end of a recount (R63, R72, R424); a slot that this very reading finds uncounted again goes to the next one. -/
def PX.recountEnd (x : PX) : PX :=
  (x.mod fun n => { n with recount := none }).mapSlots (fun v => v.uncnt && !v.fresh) fun v =>
    if v.ref ≠ 0 then { v with uncnt := false } else if v.lost then {} else { v with uncnt := false, valid := false }

/-- The Palette slot that an entry names. -/
def Ent.slot (e : Ent) : Option Nat := if e.st = 5 ∨ e.st = 7 then some e.pal else none

/-- The slot in which a way's line is counted: that of the entry in the array, until an HTC of the line has taken or released one at
D8, and from CLOSE on that of the entry the HTC will write, a writeback HTC's too (R60, R62, R160, R424). -/
def PX.counted (x : PX) (set w : Nat) (e : Ent) : Option Nat :=
  match x.pn.htcs.find? fun t => t.2.job.ofLine && decide (t.2.way = some w) &&
      decide (x.setOf t.2.line = set) && decide (t.2.phase ∈ [Phase.collect, .grant, .close]) with
  | some t => if t.2.phase = .close then t.2.fin.slot else t.2.plan.slot.or t.2.oldPal
  | none => e.slot

/-- Count one reference of a slot under recount (R424). -/
def PX.countRef (x : PX) (slot : Option Nat) : PX :=
  match slot with
  | none => x
  | some k =>
    let r := x.readSlot k
    if r.2.uncnt then r.1.setSlot k { r.2 with ref := r.2.ref + 1 } else r.1

/-- The pair of slots may still be merged (R423). -/
def mergeable (a b : PSlot) : Bool :=
  a.valid && b.valid && !a.lost && !b.lost && !a.uncnt && !b.uncnt && decide (a.vec = b.vec)

/-- Move an entry from a duplicate slot to the lower one (R69, R423). -/
def PX.mergeEnt (x : PX) (set : Nat) (e : Ent) : PX × Ent :=
  if e.st = 5 ∨ e.st = 7 then
    match x.pn.merges.find? fun m => m.2 = e.pal with
    | none => (x, e)
    | some (lo, hi) =>
      let a := x.readSlot lo
      let b := a.1.readSlot hi
      if mergeable a.2 b.2 then
        (((b.1.setSlot lo { a.2 with ref := a.2.ref + 1 }).release hi set), { e with pal := lo })
      else (b.1.mod fun n => { n with merges := n.merges.erase (lo, hi) }, e)
  else (x, e)

/-- A recount moves past set `set` before it counts it, its counts set to zero at the start: an error found while it counts starts it
afresh (R71, R424). -/
def PX.recountAt (x : PX) (set : Nat) : PX :=
  let x := if set = 0 then x.mapSlots (fun v => v.uncnt) fun v => { v with ref := 0 } else x
  x.mod fun n => { n with recount := n.recount.map fun r => (set + 1, r.2) }

/-- A directory step on a set (R422 to R425). -/
def PX.restDir (x : PX) (set : Nat) (recnt : Bool) : PX :=
  let x := if recnt then x.recountAt set else x
  let (x, rd) := x.readSet noHtc set
  let x := if rd.bad then x.sweepTrigger set 1 else x
  rd.ents.foldl (fun x e =>
    if e.2.st = 0 then x
    else
      let x := if recnt then x.countRef (x.counted set e.1 e.2) else x
      if set ∈ x.pn.sweeping ∨ x.lineBusy (x.s.unhash x.p set e.2.tag) then x
      else
        let r := if recnt then (x, e.2) else x.mergeEnt set e.2
        r.1.setWay set e.1 { r.2 with age := min 3 (r.2.age + 1) }) x

/-- After a directory step the pass goes on. The merge table is empty again at the end of a full pass (R423, R424). -/
def PX.dirNext (x : PX) (recnt : Bool) : PX :=
  if recnt then
    match x.pn.recount with
    | some (k, _) => if k < x.s.build.sets then x else x.recountEnd
    | none => x
  else x.mod fun n =>
    let ends := decide (n.rpos + 1 = x.s.build.sets)
    { n with rpos := n.rpos + 1, merges := if ends && !n.rpart then [] else n.merges, rpart := n.rpart && !ends }

/-- Enter the duplicates of a slot into the merge table (R423). -/
def PX.findDup (x : PX) (k : Nat) (v : PSlot) : PX :=
  if ¬ (v.valid ∧ ¬ v.lost ∧ ¬ v.uncnt) then x
  else (List.range 4).foldl (fun x w =>
    let j := x.palSet v.vec * 4 + w
    let r := x.readSlot j
    if j ≠ k ∧ mergeable v r.2 then
      let m := (min j k, max j k)
      r.1.mod fun n => if m ∈ n.merges ∨ 16 ≤ n.merges.length then n else { n with merges := n.merges ++ [m] }
    else r.1) x

/-- The panel whose steps also check the shared words: the lowest that still acts and sweeps (R421; DESIGN CHOICE, log entry 18). -/
def State.sharer (s : State) : Option Nat := s.stepping.head?

/-- The shared word that a step also checks (R421): a region-map or hash-key word, then an Ephemeris word. -/
def State.sharedStep (s : State) (p k : Nat) (u : Upset) : State :=
  let nr := 32 + s.build.p
  if s.sharer ≠ some p then s
  else if k < nr then s.commitPx p ((s.px p u).readRgn k)
  else if k < nr + 512 then
    (s.ephTake (k - nr) (((u.rgn.find? fun e => e.1 = 64 + (k - nr)).map (·.2)).getD 0)).1
  else s

/-- A request still names what its panel's Restorer stands at: a recount that has started afresh meanwhile, or a sweep that a supply
warning has moved, leaves it nothing to do (DESIGN CHOICE, log entry 18). -/
def RestIn.current (q : RestIn) (n : Panel) : Bool :=
  if q.recnt then (match n.recount with | some r => decide (r.1 = q.pos) | none => false) else decide (n.rpos = q.pos)

/-- A Palette step (R422, R423). -/
def PX.restPal (x : PX) (pos : Nat) : PX :=
  let k := pos - x.s.build.sets
  let r := x.readSlot k
  (r.1.findDup k r.2).mod fun n => { n with rpos := n.rpos + 1 }

/-- The work of a Restorer's request at its panel (R422 to R424). -/
def PX.restWork (x : PX) (q : RestIn) : PX :=
  if ¬ q.current x.pn then x
  else if q.pos < x.s.build.sets then (x.restDir q.pos q.recnt).dirNext q.recnt
  else x.restPal q.pos

/-- Panel `p` ends its sweep; RS_PASS counts a sweep that every panel which still acts has ended (R421; DESIGN CHOICE, log entry 66). -/
def State.passEnds (s : State) (p : Nat) : State :=
  let done := p :: s.rs.passed
  if (List.range s.build.panels).all fun q => decide (q ∈ done) || s.panelFrozen q then
    ({ s with rs := { s.rs with passed := [] } }).ctr6 0xA1210 1
  else { s with rs := { s.rs with passed := done } }

/-- After a Palette step: the last one of a panel ends its sweep, or its part of the after-dip sweep (R421, R454). -/
def State.palEnd (t : State) (p : Nat) : State :=
  if (t.panel p).rpos < t.build.sets + 4 * t.build.palSets then t
  else if t.rs.dip then { t with rs := { t.rs with dipDone := if p ∈ t.rs.dipDone then t.rs.dipDone else p :: t.rs.dipDone } }
  else (t.passEnds p).modPanel p fun n => { n with rpos := 0 }

/-- A request of the Restorer crosses to its panel, which acts on it, with what its findings bring about (R151, R216, R390, R421, R454,
R543; log entry 18). -/
def State.restStep (s : State) (q : RestIn) (u : Upset) : State :=
  let p := q.panel
  let work (x : PX) : PX := x.mgmtHold 0 fun x => x.restWork q
  let c := found (work (s.px p u)).effs
  let live := q.current (s.panel p)
  let s := s.cross p q.epoch u fun x =>
    let x := work x
    (if c.2 = 0 then x else x.eff (.signal (some 1) (some 20))).pumpSweeps
  let t := if q.recnt ∨ ¬ live then s else s.sharedStep p q.pos u
  let ue2 := decide (bitsN (t.w6g 0xA1078).toNat 0 48 ≠ bitsN (s.w6g 0xA1078).toNat 0 48) ||
    decide (bitsN (t.w6g 0xA1098).toNat 0 48 ≠ bitsN (s.w6g 0xA1098).toNat 0 48)
  let ce2 := decide (bitsN (t.w6g 0xA1070).toNat 0 48 ≠ bitsN (s.w6g 0xA1070).toNat 0 48) ||
    decide (bitsN (t.w6g 0xA1090).toNat 0 48 ≠ bitsN (s.w6g 0xA1090).toNat 0 48)
  let t := if ue2 then (t.event 1).irqS 20 else t
  let t := if t.rs.dip then
      { t with rs := { t.rs with dipCe := t.rs.dipCe + c.1 + b2n ce2, dipUe := t.rs.dipUe + c.2 + b2n ue2 } }
    else t
  (if live ∧ ¬ q.recnt ∧ s.build.sets ≤ q.pos then t.palEnd p else t).calFlush

/-- The Restorer's request that can cross to panel `p` now (R151 to R153). -/
def State.restDue (s : State) (p : Nat) : Option RestIn := if s.mgmtOpen p then s.restWaiting p else none

/-- A request that has waited in the root's input crosses; its buffer is free again. -/
def State.restLeave (s : State) (q : RestIn) (u : Upset) : State :=
  ({ s with net := { s.net with rsMgt := s.net.rsMgt.erase q } }).restStep q u

/-- The root captures the Restorer's request for a step of panel `p`, stamps it, and lets it cross where the panel can take it at once;
otherwise it waits in the root's input (R40, R153, R214, R216, R220). -/
def State.restAsk (s : State) (p : Nat) (recnt : Bool) (pos : Nat) (u : Upset) : State :=
  let e := (s.router 40).epoch
  let q : RestIn := { panel := p, recnt := recnt, pos := pos, epoch := e }
  let go := s.mgmtOpen p
  let s := (s.stepNote p).addInj 40 e 1
  if go then s.restStep q u else { s with net := { s.net with rsMgt := s.net.rsMgt ++ [q] } }

/-- One step of the Restorer at panel `p`: a request that waits for it crosses if it can; where none waits, one is sent if it is due. -/
def State.restMove (s : State) (p : Nat) (kind : Bool → Nat → Bool) (u : Upset) : State :=
  match s.restWaiting p with
  | some q => if s.mgmtOpen p ∧ kind q.recnt q.pos then s.restLeave q u else s
  | none =>
    let n := s.panel p
    let recnt := n.recount.isSome
    let pos := match n.recount with | some r => r.1 | none => n.rpos
    if s.stepAsk p ∧ kind recnt pos then s.restAsk p recnt pos u else s

/-- RESTORER_DIRECTORY_STEP (R422): a recount's pass goes before the sweep's (R424). -/
def execRestorerDirectoryStep (p : Nat) (u : Upset) (s : State) : Res :=
  s.atPanel p (s.restMove p (fun _ pos => decide (pos < s.build.sets)) u)

/-- RESTORER_PALETTE_STEP (R422, R423). -/
def execRestorerPaletteStep (p : Nat) (u : Upset) (s : State) : Res :=
  s.atPanel p (s.restMove p (fun recnt pos =>
    !recnt && decide (s.build.sets ≤ pos) && decide (pos < s.build.sets + 4 * s.build.palSets)) u)

/-! ### Supply warning (R453, R454) -/

/-- Put every panel's Restorer back where its normal sweep stopped; what is left of a directory pass is no full one (R423, R454). -/
def State.dipStop (s : State) : State :=
  (List.range s.build.panels).foldl (fun s p => s.modPanel p fun n => { n with
      rpos := n.rprev, rpart := decide (n.rprev ≠ 0) && decide (n.rprev < s.build.sets) })
    { s with rs := { s.rs with dip := false, dipDone := [], dipUe := 0, dipCe := 0, took := [] } }

/-- A captured rise of SUPPLY_WARN (R453, R454, R518, R520, R522, R543). -/
def State.warnRise (s : State) : State :=
  let s := if s.rs.dip then s.dipStop else s
  let s := { (s.noteSet kWarn) with
    host := { s.host with warnSeen := true }, clk := { s.clk with warnPin := true }, rs := { s.rs with owedDip := true } }
  ((((((s.event 2).irqS 18).stage 0x50 1).calendar true 0x90000000).wantCheck 2).ephPump).calFlush

/-- SUPPLY_WARN_RISE (R453, R483): a level of 1 in reset is captured when KCLK leaves reset. -/
def execSupplyWarnRise (s : State) : Res :=
  .next <|
    if s.clk.warnPin then s
    else if s.clk.shut then { s with clk := { s.clk with warnPin := true } }
    else s.warnRise

/-- The calendar entry and count of an after-dip episode (R454, R518, R520). -/
def State.dipRecord (s : State) : State :=
  ((s.stage 0x58 1).calendar true (0xA0000000 + min 0xFFF s.rs.dipUe * 2 ^ 16 + min 0xFFFF s.rs.dipCe)).calFlush

/-- SUPPLY_WARN_CLEARED (R454): SUPPLY_WARN is found at 0; once it has stayed so for WARN_HOLD KCLK the after-dip sweep
starts, or before PROFILE the episode is recorded at once. -/
def execSupplyWarnCleared (s : State) : Res :=
  .next <|
    if s.clk.shut then { s with clk := { s.clk with warnPin := false } }
    else
      let s := if s.clk.warnPin then { s with clk := { s.clk with warnPin := false, warnLow := s.kclk } } else s
      if ¬ s.rs.owedDip ∨ s.kclk < s.clk.warnLow + bitsN (s.w6g 0xA1208).toNat 0 16 then s
      else
        let s := { s with rs := { s.rs with owedDip := false, dipDone := [], dipUe := 0, dipCe := 0 } }
        if s.host.prof = 0 then s.dipRecord
        else
          (List.range s.build.panels).foldl (fun s p => s.modPanel p fun n => { n with rprev := n.rpos, rpos := 0, rpart := false })
            { s with rs := { s.rs with dip := true, took := [] } }

/-- Every panel that still acts has ended the after-dip sweep. -/
def State.dipEnded (s : State) : Bool :=
  s.rs.dip && (List.range s.build.panels).all fun p => decide (p ∈ s.rs.dipDone) || s.panelFrozen p

/-- AFTER_DIP_SWEEP_END (R454). -/
def execAfterDipSweepEnd (s : State) : Res :=
  .next (s.whenLive fun s => if s.dipEnded then s.dipRecord.dipStop else s)

/-! ### Leaky buckets (R415, R440) -/

/-- A router whose state the root holds in its mirror (R474). -/
def State.mirrored (s : State) (r : Nat) : Bool :=
  if r < 32 then decide (2 ≤ (s.br (s.build.branchOf r)).bstate)
  else if r < 40 then decide (2 ≤ (s.br (r - 32)).bstate) else false

/-- A bucket of a mirrored router does not leak (R474). -/
def State.mirroredBucket (s : State) (base : Nat) : Bool :=
  decide (0x10000 ≤ base) && decide (base < 0x62000) && s.mirrored ((base - 0x10000) / 0x2000)

/-- The bucket numbered `key`, of level `lv` and LEAKSH `sh`, leaks in this KCLK: a leak is due, and no addition has cancelled it (R415). -/
def State.leaksNow (s : State) (key sh lv : Nat) : Bool :=
  decide (lv ≠ 0) && decide (s.kclk % leakPeriod sh = 0) && decide (smGet (0, 0) s.bkNote key ≠ (s.kclk + 1, 2))

/-- The leak of one bucket. -/
def State.leakBucket (s : State) (base : Nat) : State :=
  let st := s.w6g (base + 8)
  if s.leaksNow base (bitsN (s.w6g base).toNat 0 6) (bitsN st.toNat 0 8) then (s.bkMark base 0).w6s (base + 8) (st - 1) else s

/-- The leak of a port's protocol-error bucket. -/
def State.leakPort (s : State) (n : Nat) : State :=
  let x := s.port n
  if s.leaksNow n (bitsN x.pebk.toNat 0 6) x.peLevel then (s.bkMark n 0).setPort n { x with peLevel := x.peLevel - 1 } else s

/-- BUCKET_LEAK (R415): once in a KCLK. -/
def execBucketLeak (s : State) : Res :=
  .next (s.whenLive fun s =>
    if s.rs.leakK = some s.kclk then s
    else
      let s := (s.w6.filter fun e => 8 ≤ e.1 && isBkCtl (e.1 - 8) && !s.mirroredBucket (e.1 - 8)).foldl
        (fun s e => s.leakBucket (e.1 - 8)) s
      let s := (s.ports.filter fun e => s.slotBr e.1 < 2).foldl (fun s e => s.leakPort e.1) s
      { s with rs := { s.rs with leakK := some s.kclk } })

/-! ### Twin pipelines (R438, R455) -/

/-- TWIN_MISMATCH (R455): a panel's comparator, or with none the root arbiters'. -/
def execTwinMismatch (panel : Option Nat) (s : State) : Res :=
  .next <| if ¬ s.build.twin then s else s.whenLive fun s =>
    match panel with
    | some p => if p < s.build.panels then (((s.fatalRow 1).freezePanel p).ephPump).calFlush else s
    | none => (({ (s.fatalRow 2) with clk := { (s.fatalRow 2).clk with frozenRoot := true } }).ephPump).calFlush

end Sys2Proof.Machine
end

