-- ==== Sys2Proof/Machine/Spaces.lean ====
section
/-! DEFINITION. The internal spaces 0x1 to 0x7 as loads and stores reach them, with privileges, locks and violations, and
the commands that are such a store (R219, R305, R306, R345, R357, R363 to R369, R392 to R396, R417, R419, R500, R501,
R517, R527). -/

namespace Sys2Proof.Machine

/-! ### The build report (R540, R541) -/

/-- The field L of leaf position `i`: wire stages and ports less one. -/
def Build.leafField (b : Build) (i : Nat) : Nat :=
  match b.leaves.getD i none with
  | some (w, n) => w % 4 * 8 + (n - 1) % 8
  | none => 24

/-- The 160-bit value L. -/
def Build.leafBits (b : Build) : Nat := (List.range 32).foldl (fun a i => a + b.leafField i * 2 ^ (5 * i)) 0

/-- DRV_FEATn. -/
def Build.feat (b : Build) (n : Nat) : BitVec 64 :=
  let wires (k : Nat) (have? : Nat → Bool) (w : List Nat) : Nat :=
    (List.range k).foldl (fun a i => a + (if have? i then w.getD i 0 % 4 else 3) * 4 ^ i) 0
  match n with
  | 0 => BitVec.ofNat 64 (wires 8 b.hasBranch b.brWire * 2 ^ 40 + wires 8 (fun m => decide (m < b.memPorts)) b.mpWire * 2 ^ 24 +
      b.setsK * 2 ^ 16 + b.devMask.toNat * 256 + b2n b.trace * 32 + b2n b.twin * 16 + b.psets * 4 + (b.p - 2))
  | 1 => BitVec.ofNat 64 (wires 16 (fun p => decide (p < b.panels)) b.pnWire + b.leafBits % 2 ^ 32 * 2 ^ 32)
  | 2 => BitVec.ofNat 64 (bitsN b.leafBits 32 64)
  | _ => BitVec.ofNat 64 (bitsN b.leafBits 96 64)

/-! ### Helpers -/

/-- Write `v` into the bits of `old` that `mask` names. -/
def maskIn (old v mask : BitVec 64) : BitVec 64 := (old &&& ~~~mask) ||| (v &&& mask)

/-- What a decoder found, as R366 reports it. -/
def Dec.ecc : Dec → Ecc
  | .ok _ => .ok
  | .ce _ => .ce
  | .ue _ => .ue

/-! ### Spaces 0x1, 0x2, 0x3 and 0x5 (R306, R363 to R366, R518) -/

/-- The panels, set and way of a space 0x1 offset, where the build has them (R357, R363). -/
def Build.dirWord (b : Build) (off : Nat) : Option (List Nat × Nat) :=
  let set := bitsN off 7 15
  if 2 ^ 27 ≤ off ∨ off % 8 ≠ 0 ∨ b.sets ≤ set then none
  else
    let i := set * 16 + bitsN off 3 4
    if bitN off 26 then some (List.range b.panels, i)
    else if bitsN off 22 4 < b.panels then some ([bitsN off 22 4], i) else none

/-- The panels and Palette word of a space 0x2 offset (R357, R364). -/
def Build.palWord (b : Build) (off : Nat) : Option (List Nat × Nat) :=
  let pal := bitsN off 6 14
  if 2 ^ 25 ≤ off ∨ off % 8 ≠ 0 ∨ 4 * b.palSets ≤ pal ∨ 5 ≤ bitsN off 3 3 then none
  else
    let i := pal * 8 + bitsN off 3 3
    if bitN off 24 then some (List.range b.panels, i)
    else if bitsN off 20 4 < b.panels then some ([bitsN off 20 4], i) else none

/-- The region-map word of a space 0x3 offset: 2n and 2n + 1 for region n, 32 + j for HASH_KEYj (R306). -/
def Build.rgnIndex (b : Build) (off : Nat) : Option Nat :=
  if off % 8 ≠ 0 then none
  else if off < 0x100 then some (off / 8)
  else if off < 0x100 + 8 * b.p then some (32 + (off - 0x100) / 8) else none

/-- The writable bits of a region-map word (R306). -/
def rgnMask (i : Nat) : BitVec 64 :=
  if 32 ≤ i then 0x3FFFFFFF00007FFF#64
  else if i % 2 = 0 then 0x800FFFFFFFFF0000#64 else 0x003F000F00FF3703#64

/-- A load of an array word, with the verdict of its check (R363, R364, R366, R418). -/
def State.arrayLoad (s : State) (sp off : Nat) : BitVec 64 × Ecc :=
  let ans (d : Dec) : BitVec 64 × Ecc := (BitVec.ofNat 64 d.data, d.ecc)
  match sp with
  | 1 => match s.build.dirWord off with
    | some (p :: _, i) => ans (strongDec 56 (smGet (Config.freeDir s.nonce p i) (s.panel p).dir i).toNat)
    | _ => (0, .ok)
  | 2 => match s.build.palWord off with
    | some (p :: _, i) => ans (decW (smGet (Config.freePal s.nonce p i) (s.panel p).pal i))
    | _ => (0, .ok)
  | 3 => match s.build.rgnIndex off with
    | some i =>
      let d := decW (s.rgnRaw i)
      let bad := i < 32 ∧ i % 2 = 1 ∧ s.bad (i / 2)
      (BitVec.ofNat 64 (d.data % 2 ^ 63 + (if i % 2 = 1 ∧ i < 32 then (if bad then 2 ^ 63 else 0) else d.data / 2 ^ 63 * 2 ^ 63)), d.ecc)
    | none => (0, .ok)
  | _ =>
    if off % 8 = 0 ∧ off < 4096 then
      let d := decW (s.ephRaw (off / 8))
      (BitVec.ofNat 64 (d.data &&& ephMask (off / 8)), d.ecc)
    else (0, .ok)

/-- The panels that a store to space 0x1 or 0x2 reaches (R363, R364). -/
def State.storePanels (s : State) (sp off : Nat) : List Nat :=
  let ps := if sp = 1 then s.build.dirWord off else if sp = 2 then s.build.palWord off else none
  ((ps.map (·.1)).getD []).filter fun p => !s.panelFrozen p

/-- A store of a secure ring to space 0x1 or 0x2 waits for a KCLK in which none of its panels has had a management request: it counts
as one at each of them (R152, R370). -/
def State.storeWaits (s : State) (ring sp off : Nat) : Bool :=
  decide (ring < 8) && decide (s.host.prof = 0) && (s.storePanels sp off).any fun p => decide ((s.panel p).mgmtAt = some s.kclk)

/-- A store to a directory word (R363, R370). -/
def State.dirStore (s : State) (off : Nat) (v : BitVec 64) : State :=
  match s.build.dirWord off with
  | some (ps, i) =>
    let w := BitVec.ofNat 72 (strongEnc 56 (v.toNat % 2 ^ 56))
    ps.foldl (fun s p => if s.panelFrozen p then s else s.modPanel p fun n => { n with dir := smSet n.dir i w, mgmtAt := some s.kclk }) s
  | none => s

/-- A store to a Palette codeword (R364, R370). -/
def State.palStore (s : State) (off : Nat) (v : BitVec 64) : State :=
  match s.build.palWord off with
  | some (ps, i) =>
    ps.foldl (fun s p => if s.panelFrozen p then s else s.modPanel p fun n => { n with pal := smSet n.pal i (encW v), mgmtAt := some s.kclk }) s
  | none => s

/-- A store to a region-map word (R306, R307, R310, R182). -/
def State.rgnStore (s : State) (off : Nat) (v : BitVec 64) : State :=
  match s.build.rgnIndex off with
  | some i => if 32 ≤ i ∧ s.host.prof ≠ 0 then s else (s.setRgn i (v &&& rgnMask i)).rgnWritten
  | none => s

/-- A store to an Ephemeris word: reserved words and bits ignore it (R18, R365, R518). -/
def State.ephStore (s : State) (off : Nat) (v : BitVec 64) : State :=
  let m := ephMask (off / 8)
  if off % 8 = 0 ∧ off < 4096 ∧ m ≠ 0 then s.ephPut (off / 8) (v.toNat &&& m) else s

/-! ### Space 0x4 (R500) -/

/-- The word of a space 0x4 offset stands in a structure that the build has (R357). -/
def Build.has4 (b : Build) (off : Nat) : Bool :=
  if off < 0x1000 then decide (off / 0x100 < b.panels)
  else if off < 0x5000 then decide ((off - 0x1000) / 0x40 < b.slots)
  else if off < 0x5200 then decide ((off - 0x5000) / 0x40 < b.memPorts)
  else b.trace || decide (off = 0x6000)

/-- The writable bits of a space 0x4 word that a store sets; none for a word that a store leaves (R500). -/
def mask4 (off : Nat) : Option (BitVec 64) :=
  if off % 8 ≠ 0 then none
  else if off < 0x1000 then
    let r := off % 0x100
    if r = 0x08 then some 0x11F else if r = 0x10 then some 0xFFFFFFFF
    else if 0x40 ≤ r ∧ r < 0x80 then some 0xC0193FFF
    else if 0x80 ≤ r ∧ r < 0xC0 then some 0xFFFFFFFFFFFF else none
  else if off < 0x5200 then
    let r := off % 0x40
    if r = 0 then some 0x3F else if r = 0x18 ∨ r = 0x20 then some 0xFFFFFFFFFFFF else none
  else if off = 0x6000 then some 0x3F else none

/-- A load from space 0x4 at the end of the KCLK in which it samples (R496, R499, R500). -/
def State.load4 (s : State) (off : Nat) : BitVec 64 :=
  if off % 8 ≠ 0 ∨ ¬ s.build.has4 off then 0
  else if off < 0x1000 ∧ off % 0x100 = 0 then BitVec.ofNat 64 (s.kclk * 8 + 7)
  else if off < 0x1000 ∧ off % 0x100 = 0x28 then BitVec.ofNat 64 (s.panel (off / 0x100)).llt.length
  else s.w4g off

/-- A store to K abandons the window in progress (R505). -/
def State.dropWindow (s : State) (off : Nat) : State :=
  if off < 0x5000 then s.modPort ((off - 0x1000) / 0x40) fun x => { x with winUp := 0, winDn := 0 }
  else s.modMp ((off - 0x5000) / 0x40) fun x => { x with winUp := 0, winDn := 0 }

/-- An event select changes from the next KCLK on (R502). -/
def State.keepSel (s : State) (off : Nat) : State :=
  { s with evOld := smSet s.evOld off (s.kclk + 1, s.evSel off) }

/-- The events of this KCLK are discarded at a counter that a store has set (R497). -/
def State.dropEvents (s : State) (off : Nat) : State := { s with st4 := smSet s.st4 off (s.kclk + 1) }

/-- The value that a store to BW_UPMAX or BW_DNMAX leaves: a window that ended earlier in its KCLK is compared with it (R505). -/
def State.storeMax (s : State) (off : Nat) (v : BitVec 64) : BitVec 64 :=
  match smFind s.winLast (off - off % 0x40) with
  | some (k, up, dn) =>
    let w := if off % 0x40 = 0x18 then up else dn
    if k = s.kclk + 1 ∧ v.toNat < w then BitVec.ofNat 64 w else v
  | none => v

/-- A store to space 0x4 (R497, R500, R502, R505). -/
def State.store4 (s : State) (off : Nat) (v : BitVec 64) : State :=
  match mask4 off with
  | none => s
  | some m =>
    if ¬ s.build.has4 off then s
    else
      let v := v &&& m
      let v := if off < 0x1000 ∧ off % 0x100 = 0x10 ∧ v = 0 then 1 else v
      let r := off % 0x100
      let win := decide (0x1000 ≤ off) && decide (off < 0x5200)
      let v := if win ∧ off % 0x40 ≠ 0 then s.storeMax off v else v
      let s := if off < 0x1000 ∧ 0x40 ≤ r ∧ r < 0x80 then s.keepSel off
        else if off < 0x1000 ∧ 0x80 ≤ r ∧ r < 0xC0 then s.dropEvents off else s
      let s := s.w4s off v
      if win ∧ off % 0x40 = 0 then s.dropWindow off else s

/-- The words of space 0x4 that rings 8 to 15 may load (R501). -/
def State.ns4 (s : State) (off : Nat) : Bool :=
  if off < 0x1000 then
    let r := off % 0x100
    decide (r = 0) || (decide (0x40 ≤ r) && decide (r < 0xC0) &&
      bitN (s.w4g (off - r + 0x40 + r % 0x40)).toNat 30)
  else if off < 0x5000 then
    let x := s.port ((off - 0x1000) / 0x40)
    x.nsOnly || !x.attached
  else decide (off ∈ [0x6000, 0x6008, 0x6010])

/-! ### Space 0x6: port-status blocks (R305, R441, R465) -/

/-- PS_STATE. -/
def Port.stateWord (x : Port) : Nat :=
  b2n x.crdOvf * 2 ^ 19 + b2n x.hbLapse * 2 ^ 18 + b2n x.hdrFault * 2 ^ 17 + b2n x.introErr * 2 ^ 16 +
    b2n x.shold * 2 ^ 8 + b2n x.fencing * 8 + lsCode x.lstate

/-- PRES_MAP of a slot (R305, R403): of a dead agent, a panel counts until its marker, its scan and every HTC of the agent are done with,
and until no EBar of the agent is under way. -/
def State.psPres (s : State) (n : Nat) : Nat :=
  let x := s.port n
  if ¬ x.attached ∨ x.reclaimed then 0
  else
    let ebar := s.net.ebars.any fun e => e.slot = n
    (List.range s.build.panels).foldl (fun v p =>
      if s.present p x.agent || (decide (x.lstate = .dead) && (ebar || !s.panelClear p x.agent)) then v + 2 ^ p else v) 0

/-- INFLIGHT of a slot; once a port is reclaimed it stays zero (R300, R305, R403). -/
def State.psInfl (s : State) (n : Nat) : Nat :=
  if (s.port n).lstate = .dead ∧ (s.port n).reclaimed then 0 else s.inflight n % 2 ^ 13

/-- A load from the port-status block of slot `n`. -/
def State.psLoad (s : State) (n r : Nat) : BitVec 64 :=
  let x := s.port n
  match r with
  | 0x00 => BitVec.ofNat 64 x.stateWord
  | 0x08 => BitVec.ofNat 64 (x.mode.kind % 4 * 2 ^ 24 + x.mode.feats % 32 * 2 ^ 16 + x.mode.beat % 8 * 2 ^ 8 + x.mode.version % 256)
  | 0x10 => BitVec.ofNat 64 (x.limit % 2 ^ 13 * 2 ^ 32 + b2n x.nsOnly * 2 ^ 16 + x.part % 64 * 2 ^ 8 + x.agent % 256)
  | 0x18 => BitVec.ofNat 64 (x.hbCyc % 2 ^ 32 * 2 ^ 32 + x.sitCyc % 2 ^ 32)
  | 0x20 => x.hbWin.setWidth 64
  | 0x28 => BitVec.ofNat 64 (x.prioPend.getD x.prio)
  | 0x30 => x.protoErr
  | 0x38 => x.dataPar
  | 0x80 => BitVec.ofNat 64 (s.psPres n)
  | 0x88 => BitVec.ofNat 64 (s.psInfl n)
  | 0x90 => x.pebk
  | 0x98 => BitVec.ofNat 64 x.peLevel
  | 0xA0 => x.peLast
  | 0xA8 => BitVec.ofNat 64 (b2n x.held * 2 ^ 8 + x.cause % 16)
  | _ =>
    if 0x40 ≤ r ∧ r < 0x80 ∧ r % 8 = 0 then
      let k := (r - 0x40) / 8
      BitVec.ofNat 64 ((x.intro.getD (2 * k) 0).toNat + (x.intro.getD (2 * k + 1) 0).toNat * 2 ^ 32)
    else 0

/-- A change of a port's PRIO (R202, R205): into or out of 1 it waits for the port's REQs. -/
def State.setPrio (s : State) (n v : Nat) : State :=
  let v := if v = 0 then 1 else v
  let x := s.port n
  if v = x.prio then s.setPort n { x with prioPend := none }
  else if v = 1 ∨ x.prio = 1 then (s.setPort n { x with prioPend := some v }).settlePrio n
  else s.setPort n { x with prio := v, prioPend := none }

/-- A store to the port-status block of slot `n` (R19, R305, R441). -/
def State.psStore (s : State) (n r : Nat) (v : BitVec 64) : State :=
  match r with
  | 0x00 =>
    let keeps (b : Nat) : Bool := !bitN v.toNat b || s.justSet (kPs n b)
    s.modPort n fun x => { x with
      crdOvf := x.crdOvf && keeps 19, hbLapse := x.hbLapse && keeps 18, hdrFault := x.hdrFault && keeps 17,
      introErr := x.introErr && keeps 16, shold := bitN v.toNat 8 }
  | 0x20 => s.modPort n fun x => x.setHbWin s.kclk (v.setWidth 20)
  | 0x28 => s.setPrio n (v.toNat % 4)
  | 0x90 => s.modPort n fun x => { x with pebk := v &&& 0xFF003F#64 }
  | _ => s

/-! ### Space 0x6: router control blocks (R215, R219, R443, R469) -/

/-- RT_BRb. -/
def Br.word (x : Br) : Nat := b2n x.liveLoss * 2 ^ 16 + b2n x.shold * 2 ^ 8 + b2n x.eclReq * 16 + x.bstate % 4

/-- A load from the control block of router `r`. -/
def State.rtLoad (s : State) (r o : Nat) : BitVec 64 :=
  let x := s.router r
  match o with
  | 0x00 => BitVec.ofNat 64 (b2n x.tblErr * 2 ^ 32 + x.flushWait.toNat * 2 ^ 16 + x.epoch % 2)
  | 0x10 => (x.inj.getD 0 0).setWidth 64
  | 0x18 => (x.inj.getD 1 0).setWidth 64
  | 0x20 => (x.ej.getD 0 0).setWidth 64
  | 0x28 => (x.ej.getD 1 0).setWidth 64
  | 0x38 => x.combMiss
  | 0x40 => x.unrouted
  | 0x50 => x.snpdl.setWidth 64
  | _ =>
    if 0x1000 ≤ o then (smGet 0 x.routes ((o - 0x1000) / 8)).setWidth 64
    else if 0x80 ≤ o ∧ o < 0xE0 ∨ (r < 32 ∧ (0xE0 ≤ o ∧ o < 0x100 ∨ 0x140 ≤ o ∧ o < 0x160)) then s.w6g (rtBase r + o)
    else if r = 40 ∧ 0x100 ≤ o ∧ o < 0x140 ∧ s.build.hasBranch ((o - 0x100) / 8) then
      BitVec.ofNat 64 (s.br ((o - 0x100) / 8)).word
    else 0

/-- The first write of 1 to ROOT_FLIP and every later one (R215, R474): mirrored routers follow the root at once. -/
def State.flipRoot (s : State) : State :=
  let e := 1 - (s.router 40).epoch % 2
  let s := s.modRouter 40 fun x => { x with epoch := e, flipped := true }
  ((List.range 40).filter s.build.hasRouter).foldl (fun s r =>
    if s.mirrored r then s.modRouter r fun x => { x with epoch := e, flipAt := none }
    else s.modRouter r fun x => { x with flipAt := some (s.clk.cyc + 3) }) s

/-- A store to a route entry (R213, R215). -/
def State.routeStore (s : State) (r e id : Nat) (v : BitVec 64) : State :=
  if (s.router 40).flipped ∧ (s.router r).epoch % 2 = e then
    (s.noteSet (kTbl r)).modRouter r fun x => { x with tblErr := true }
  else
    let m : BitVec 8 := if 32 ≤ r ∧ r < 40 then 0x83 else 0x87
    s.modRouter r fun x => { x with routes := smPut 0 x.routes (e * 256 + id) (v.setWidth 8 &&& m) }

/-- Clear INJ and EJ of the epochs that RT_CLR names (R216). -/
def Router.clear (x : Router) (v : Nat) : Router :=
  let z (l : List (BitVec 32)) : List (BitVec 32) :=
    l.zipIdx.map fun e => if bitN v e.2 then 0 else e.1
  { x with inj := z x.inj, ej := z x.ej }

/-- A store to a bucket group: BK_CTL is set, BK_STAT.OVF cleared by a 1 (R416). -/
def State.bucketStore (s : State) (off : Nat) (v : BitVec 64) : State :=
  if isBkCtl off then s.w6s off (v &&& 0xFF003F#64)
  else if 8 ≤ off ∧ isBkCtl (off - 8) then
    (if s.justSet (kW6 off) then s else s.w6s off (s.w6g off &&& ~~~(v &&& 0x8000000000000000#64)))
  else s

/-- A store to the control block of router `r`. -/
def State.rtStore (s : State) (r o : Nat) (v : BitVec 64) : State :=
  if 0x1000 ≤ o then s.routeStore r ((o - 0x1000) / 0x800) ((o - 0x1000) % 0x800 / 8) v
  else match o with
  | 0x00 => s.modRouter r fun x => { x with
      tblErr := x.tblErr && (!bitN v.toNat 32 || s.justSet (kTbl r)), flushWait := BitVec.ofNat 10 (bitsN v.toNat 16 10) }
  | 0x30 => s.modRouter r fun x => x.clear (v.toNat % 4)
  | 0x48 => if r = 40 ∧ bitN v.toNat 0 then s.flipRoot else s
  | 0x50 => s.modRouter r fun x => { x with snpdl := v.setWidth 20, snpOld := some (s.clk.cyc, x.snpdlAt s.clk.cyc) }
  | _ =>
    if r = 40 ∧ 0x100 ≤ o ∧ o < 0x140 then
      if s.build.hasBranch ((o - 0x100) / 8) then s.modBr ((o - 0x100) / 8) fun x => { x with shold := bitN v.toNat 8 } else s
    else s.bucketStore (rtBase r + o) v

/-! ### Space 0x6: memory ports, panels, the partition table and the Easel block -/

/-- A load from the control block of memory port `m` (R345). -/
def State.mpLoad (s : State) (m o : Nat) : BitVec 64 :=
  let x := s.mp m
  match o with
  | 0x10 => x.lfsr.setWidth 64
  | 0x18 => BitVec.ofNat 64 (b2n x.psnCap * 2 ^ 9 + b2n (s.build.devMask.getLsbD m) * 2 ^ 8 + b2n x.svc)
  | 0x20 => BitVec.ofNat 64 x.cause
  | _ => s.w6g (mpBase m + o)

/-- A TSWAP of a table waits for a frame boundary (R212): bit p names panel p's table, bit 16 + m memory port m's. -/
def State.swapPending (s : State) (bit : Nat) : Bool :=
  s.ez.ops.any fun o => decide (o.opc = 0x30) && o.started && o.status.isNone && bitN (o.word 0) bit

/-- A store to a shadow slot; it waits while a TSWAP of its table is pending (R212). -/
def State.shadowStore (s : State) (off bit : Nat) (v : BitVec 64) : State :=
  if s.swapPending bit then { s with ez := { s.ez with tswap := s.ez.tswap ++ [(off, v.toNat % 512)] } }
  else s.w6s off (v &&& 0x1FF#64)

/-- A store to the control block of memory port `m` (R345). -/
def State.mpStore (s : State) (m o : Nat) (v : BitVec 64) : State :=
  let off := mpBase m + o
  match o with
  | 0x00 => s.w6s off v
  | 0x08 => s.w6s off (v &&& 0xFFF#64)
  | 0x10 => s.modMp m fun x => { x with lfsr := if v.setWidth 32 = 0#32 then 1 else v.setWidth 32 }
  | _ => if 0x200 ≤ o ∧ o < 0x400 then s.shadowStore off (16 + m) v else s.bucketStore off v

/-- A load from the control block of panel `p` (R368, R419, R517). -/
def State.pnLoad (s : State) (p o : Nat) : BitVec 64 :=
  let n := s.panel p
  match o with
  | 0x000 => BitVec.ofNat 64 (n.bhtc % 1024)
  | 0x698 => BitVec.ofNat 64 (b2n n.recount.isSome * 2 + b2n n.scan.isSome)
  | _ => s.w6g (pnBase p + o)

/-- Free a logged entry whose VALID a store names (R419, R517). -/
def State.freeEntry (s : State) (off : Nat) (v : BitVec 64) : State :=
  if s.justSet (kW6 off) then s else s.w6s off (s.w6g off &&& ~~~(v &&& 0x8000000000000000#64))

/-- A store to the control block of panel `p`. -/
def State.pnStore (s : State) (p o : Nat) (v : BitVec 64) : State :=
  let off := pnBase p + o
  if 0x200 ≤ o ∧ o < 0x400 then s.shadowStore off p v
  else if 0x600 ≤ o ∧ o < 0x680 then s.freeEntry off v
  else if 0x800 ≤ o ∧ o < 0x840 then s.w6s off (v &&& 0xFFFFF#64)
  else if 0x880 ≤ o ∧ o < 0x980 then (if o % 16 = 0 then s.freeEntry off v else s)
  else s.bucketStore off v

/-- A store to PT_SITq (R368). -/
def State.ptStore (s : State) (off : Nat) (v : BitVec 64) : State :=
  s.w6s off (BitVec.ofNat 64 (max 32 (min 4096 (v.toNat % 2 ^ 13))))

/-- EP_STAT (R527). -/
def State.epStat (s : State) : Nat :=
  let busy := match s.ep.job with | .none => false | _ => true
  b2n busy * 2 ^ 63 + b2n s.ep.ok * 2 ^ 62 + b2n (decide (s.ep.lastSlot = some 1)) * 2 ^ 61 + b2n s.ep.restored * 2 ^ 60 +
    s.ep.lastSeq.toNat % 2 ^ 48

/-- A load from the Easel block (R368, R417, R419, R527). -/
def State.ezLoad (s : State) (o : Nat) : BitVec 64 :=
  match o with
  | 0x000 => s.ez.events.setWidth 64
  | 0x208 => BitVec.ofNat 64 (b2n s.rs.dip * 2 ^ 63) ||| s.w6g 0xA1208
  | 0x308 => BitVec.ofNat 64 s.epStat
  | 0x310 => BitVec.ofNat 64 ((s.ep.slots.getD (0, 0)).1)
  | 0x318 => BitVec.ofNat 64 ((s.ep.slots.getD (0, 0)).2)
  | _ => s.w6g (0xA1000 + o)

/-- A store to the Easel block. -/
def State.ezStore (s : State) (o : Nat) (v : BitVec 64) : State :=
  let off := 0xA1000 + o
  if 0x100 ≤ o ∧ o < 0x180 then s.freeEntry off v
  else match o with
  | 0x200 => s.w6s off (v &&& 0x1FFFFFF#64)
  | 0x208 => s.w6s off (v &&& 0xFFFF#64)
  | 0x300 => s.w6s off (v &&& 0xFFFF#64)
  | _ => s.bucketStore off v

/-! ### Space 0x6 as a whole (R357, R367, R392, R393) -/

/-- The block of a space 0x6 offset, with the offset inside it. -/
inductive Blk6
  | ps (n r : Nat) | rt (r o : Nat) | mp (m o : Nat) | pn (p o : Nat) | pt (off : Nat) | ez (o : Nat) | absent
deriving DecidableEq, Repr

/-- Where a space 0x6 offset lies; absent where the build has no such structure (R357, R367). -/
def Build.blk6 (b : Build) (off : Nat) : Blk6 :=
  if off % 8 ≠ 0 then .absent
  else if off < 0x10000 then (if off / 0x100 < b.slots then .ps (off / 0x100) (off % 0x100) else .absent)
  else if off < 0x62000 then
    let r := (off - 0x10000) / 0x2000
    if b.hasRouter r then .rt r (off % 0x2000) else .absent
  else if 0x80000 ≤ off ∧ off < 0x84000 then
    let m := (off - 0x80000) / 0x800
    if m < b.memPorts then .mp m (off % 0x800) else .absent
  else if 0x90000 ≤ off ∧ off < 0xA0000 then
    let p := (off - 0x90000) / 0x1000
    if p < b.panels then .pn p (off % 0x1000) else .absent
  else if 0xA0000 ≤ off ∧ off < 0xA0200 then .pt off
  else if 0xA1000 ≤ off ∧ off < 0xA2000 then .ez (off - 0xA1000)
  else .absent

/-- A load from space 0x6. -/
def State.load6 (s : State) (off : Nat) : BitVec 64 :=
  match s.build.blk6 off with
  | .ps n r => s.psLoad n r
  | .rt r o => s.rtLoad r o
  | .mp m o => s.mpLoad m o
  | .pn p o => s.pnLoad p o
  | .pt off => s.w6g off
  | .ez o => s.ezLoad o
  | .absent => 0

/-- A store to space 0x6. -/
def State.store6 (s : State) (off : Nat) (v : BitVec 64) : State :=
  match s.build.blk6 off with
  | .ps n r => s.psStore n r v
  | .rt r o => s.rtStore r o v
  | .mp m o => s.mpStore m o v
  | .pn p o => s.pnStore p o v
  | .pt off => s.ptStore off v
  | .ez o => s.ezStore o v
  | .absent => s

/-- A locked item of R392. -/
def State.locked (s : State) (i : Nat) : Bool := s.host.locks.getLsbD i

/-- A space 0x6 word that a lock holds (R392). -/
def State.locked6 (s : State) (off : Nat) : Bool :=
  match s.build.blk6 off with
  | .pt _ => s.locked 1
  | .pn _ o => decide (0x200 ≤ o) && decide (o < 0x400) && s.locked 2
  | .mp _ o => (decide (o < 0x10) || (decide (0x200 ≤ o) && decide (o < 0x400))) && s.locked 3
  | _ => false

/-- A store to space 0x6 that rings 8 to 15 may make (R305, R393). -/
def State.ns6 (s : State) (off : Nat) (v : BitVec 64) : Bool :=
  match s.build.blk6 off with
  | .ps n r =>
    let x := s.port n
    !x.shold && (x.nsOnly || !x.attached) &&
      (decide (r = 0x20) || decide (r = 0x28) || (decide (r = 0) && !bitN v.toNat 8))
  | _ => false

/-! ### Space 0x7 (R369) -/

/-- The code of a phase. -/
def phaseCode : Phase → Nat
  | .queued => 0 | .decide => 1 | .recall => 2 | .collect => 3 | .grant => 4 | .close => 5

/-- SRC, OPC, CLASS and TAG of an HTC at their places in HTC word 0; the free value's for a management HTC. -/
def Htc.who (h : Htc) (k : Nat) : Nat :=
  if h.pool = 2 then (Config.freeView k &&& 0x3FFFF000FFF#64).toNat
  else h.pkt.hdr.src % 512 * 2 ^ 33 + h.pkt.hdr.opc % 64 * 2 ^ 27 + h.pkt.hdr.cls % 8 * 2 ^ 24 + h.pkt.hdr.tag % 4096

/-- ADDR of an HTC; the free value's for one of no line. -/
def Htc.addr (h : Htc) (k : Nat) : Nat :=
  if h.job.ofLine then h.line % 2 ^ 46 * 64 else (Config.freeView k &&& 0xFFFFFFFFFFFC0#64).toNat

/-- The HTC that waits next for the line of `h` (R157, R369). -/
def Panel.next (n : Panel) (h : Htc) : Option Nat :=
  let c := n.htcs.filter fun (e : Nat × Htc) =>
    e.2.job.ofLine && h.job.ofLine && decide (e.2.phase = Phase.queued) && decide (e.2.line = h.line) && decide (h.seq < e.2.seq)
  (c.find? fun (e : Nat × Htc) => c.all fun (f : Nat × Htc) => decide (e.2.seq ≤ f.2.seq)).map (·.1)

/-- A load from space 0x7. -/
def State.load7 (s : State) (off : Nat) : BitVec 64 :=
  let p := off / 0x10000
  let o := off % 0x10000
  if off % 8 ≠ 0 ∨ s.build.panels ≤ p then 0
  else
    let n := s.panel p
    if 0x8000 ≤ o then
      if o < 0x8800 then
        match smFind n.llt ((o - 0x8000) / 8) with
        | some l => BitVec.ofNat 64 (2 ^ 63 + l % 2 ^ 46 * 64)
        | none => 0
      else 0
    else match smFind n.htcs (o / 16) with
      | none => 0
      | some h =>
        let k := p * 1024 + o / 16
        if o % 16 = 8 then BitVec.ofNat 64 (h.addr k)
        else
          let nx := match n.next h with | some i => 2 ^ 57 + i * 2 ^ 42 | none => 0
          BitVec.ofNat 64 (2 ^ 63 + phaseCode h.phase * 2 ^ 60 + h.pool % 4 * 2 ^ 58 + nx + h.who k)

/-! ### Loads and stores of a ring (R393, R395, R501) -/

/-- EZ_EVENTS as a ring loads it: rings 8 to 15 see the bits that R390 gives them. -/
def State.eventsOf (s : State) (ring : Nat) : BitVec 64 :=
  s.ez.events.setWidth 64 &&& (if ring < 8 then 0xFFFF#64 else 0xFF00#64)

/-- A load that reads PS_PRES or PS_INFL of a dead port completes its reclamation, when all that it asks for is so (R403, R451). -/
def State.reclaimLook (s : State) (off : Nat) : State :=
  match s.build.blk6 off with
  | .ps n r => if (r = 0x80 ∨ r = 0x88) ∧ s.reclaimReady n then s.reclaim n else s
  | _ => s

/-- A load of 8 bytes by a ring from a space 0x1 to 0x7: the state after it, the value, and for spaces 0x1, 0x2, 0x3 and
0x5 the verdict of R366. A violation reads zero. -/
def State.spaceLoad (s : State) (ring sp off : Nat) : State × BitVec 64 × Ecc :=
  let ok : Bool := decide (ring < 8) ||
    (match sp with
      | 3 => true
      | 4 => s.ns4 off
      | 6 => decide (off ≠ 0xA1008) && decide (off ≠ 0xA1010)
      | _ => false)
  if ¬ ok then (s.violate ring 1, 0, .ok)
  else match sp with
    | 4 => (s, s.load4 off, .ok)
    | 6 => let s := s.reclaimLook off; (s, if off = 0xA1000 then s.eventsOf ring else s.load6 off, .ok)
    | 7 => (s, s.load7 off, .ok)
    | _ => (s, s.arrayLoad sp off)

/-- A store of 8 bytes by a ring to a space 0x1 to 0x7. A violation is ignored. -/
def State.spaceStore (s : State) (ring sp off : Nat) (v : BitVec 64) : State :=
  let sec := decide (ring < 8)
  match sp with
  | 1 => if sec ∧ s.host.prof = 0 then s.dirStore off v else s.violate ring 1
  | 2 => if sec ∧ s.host.prof = 0 then s.palStore off v else s.violate ring 1
  | 3 => if ¬ sec then s.violate ring 1 else if s.locked 0 then s.violate ring 5 else s.rgnStore off v
  | 4 => if sec then s.store4 off v else s.violate ring 1
  | 5 => if sec ∧ s.host.prof = 0 then s.ephStore off v else s.violate ring 1
  | 6 =>
    if sec ∨ s.ns6 off v then (if s.locked6 off then s.violate ring 5 else s.store6 off v) else s.violate ring 1
  | _ => s.violate ring 1

/-! ### The commands that are such a store -/

/-- A command of ring `ring`: nothing where the Easel has no such ring, or in reset. -/
def State.atRing (s : State) (ring : Nat) (f : State → State) : Res := .next (if ring < 16 then s.whenLive f else s)

/-- A store of a ring as a command; one to a structure that the build lacks is ignored, as R357 says. -/
def State.regStore (s : State) (ring sp off : Nat) (v : BitVec 64) : Res :=
  s.atRing ring fun s => if s.storeWaits ring sp off then s else s.spaceStore ring sp off v

/-- A store of a ring to word `off` of the structure numbered `i` of `n`: a number beyond all of them names no word. -/
def State.regStoreAt (s : State) (ring i n sp off : Nat) (v : BitVec 64) : Res :=
  if i < n then s.regStore ring sp off v else .next s

/-- ROOT_FLIP (R215). -/
def execRootFlip (ring : Nat) (v : BitVec 64) (s : State) : Res := s.regStore ring 6 0x60048 v

/-- RT_CLR (R216). -/
def execRtClr (ring r : Nat) (v : BitVec 64) (s : State) : Res := s.regStoreAt ring r 41 6 (rtBase r + 0x30) v

/-- ROUTE_ENTRY_WRITE (R213, R215). -/
def execRouteEntryWrite (ring r epoch id : Nat) (v : BitVec 64) (s : State) : Res :=
  if epoch < 2 ∧ id < 256 then s.regStoreAt ring r 41 6 (rtBase r + 0x1000 + 0x800 * epoch + 8 * id) v else .next s

/-- REGION_MAP_WRITE (R307). -/
def execRegionMapWrite (ring off : Nat) (v : BitVec 64) (s : State) : Res := s.regStoreAt ring off 0x100 3 off v

/-- HASH_KEY_WRITE (R310). -/
def execHashKeyWrite (ring j : Nat) (v : BitVec 64) (s : State) : Res := s.regStoreAt ring j 4 3 (0x100 + 8 * j) v

/-- DIRECTORY_WORD_STORE (R363). -/
def execDirectoryWordStore (ring off : Nat) (v : BitVec 64) (s : State) : Res := s.regStore ring 1 off v

/-- PALETTE_CODEWORD_STORE (R364). -/
def execPaletteCodewordStore (ring off : Nat) (v : BitVec 64) (s : State) : Res := s.regStore ring 2 off v

/-- COUNTER_STORE (R497). -/
def execCounterStore (ring off : Nat) (v : BitVec 64) (s : State) : Res := s.regStore ring 4 off v

/-- PS_PRIO_WRITE (R205). -/
def execPsPrioWrite (ring slot : Nat) (v : BitVec 64) (s : State) : Res :=
  s.regStoreAt ring slot 256 6 (0x100 * slot + 0x28) v

/-- PS_HB_WRITE (R296). -/
def execPsHbWrite (ring slot : Nat) (v : BitVec 64) (s : State) : Res := s.regStoreAt ring slot 256 6 (0x100 * slot + 0x20) v

/-- RT_SNPDL_WRITE (R443). -/
def execRtSnpdlWrite (ring r : Nat) (v : BitVec 64) (s : State) : Res := s.regStoreAt ring r 41 6 (rtBase r + 0x50) v

/-- DL_LIM_WRITE (R515). -/
def execDlLimWrite (ring p g : Nat) (v : BitVec 64) (s : State) : Res :=
  if g < 8 then s.regStoreAt ring p 16 6 (pnBase p + 0x800 + 8 * g) v else .next s

/-- BW_CTL_WRITE (R505): the window register at a space 0x4 offset. -/
def execBwCtlWrite (ring off : Nat) (v : BitVec 64) (s : State) : Res := s.regStore ring 4 off v

/-- EASEL_REGISTER_STORE (R19): any store of a ring to a space 0x1 to 0x7. -/
def execEaselRegisterStore (ring space off : Nat) (v : BitVec 64) (s : State) : Res := s.regStore ring space off v

end Sys2Proof.Machine
end

