-- ==== Sys2Proof/Machine/Operands.lean ====
section
/-! DEFINITION. The operand forms of the Easel: instruction words and their fields, conditions, X, I and EA, special
registers, windows and the classes of an access (R347, R349, R350, R353 to R359, R371). -/

namespace Sys2Proof.Machine

/-! ### Instruction words (R349, R371) -/

/-- The word of an instruction with opcode `opc`. -/
def fldWord (opc : Nat) (f : Fld) : BitVec 32 := f.cond ++ BitVec.ofNat 6 opc ++ f.d ++ f.b ++ f.disp

/-- The word of a REP. -/
def repWord (f : RepFld) : BitVec 32 :=
  f.cond ++ 0x3D#6 ++ BitVec.ofBool f.i ++ BitVec.ofBool f.csrc ++ f.count ++ f.stride

/-- COND of a word. -/
def wCond (w : BitVec 32) : BitVec 4 := w.extractLsb' 28 4
/-- OPCODE of a word. -/
def wOpc (w : BitVec 32) : Nat := (w.extractLsb' 22 6).toNat
/-- D of a word. -/
def wD (w : BitVec 32) : Nat := (w.extractLsb' 18 4).toNat
/-- B of a word. -/
def wB (w : BitVec 32) : Nat := (w.extractLsb' 14 4).toNat
/-- DISP of a word. -/
def wDisp (w : BitVec 32) : BitVec 14 := w.extractLsb' 0 14

/-- LIM and LIMH, which an extension word follows (R351). -/
def hasExt (opc : Nat) : Bool := decide (opc = 0x0B) || decide (opc = 0x0C)

/-- Length in bytes of an instruction. -/
def instLen (w : BitVec 32) : Nat := if hasExt (wOpc w) then 8 else 4

/-- The condition COND holds under FLAGS and RC (R353). -/
def condHolds (c : BitVec 4) (fl : BitVec 4) (rc : BitVec 16) : Bool :=
  let z := fl.getLsbD 3
  let n := fl.getLsbD 2
  let cy := fl.getLsbD 1
  let v := fl.getLsbD 0
  match c.toNat with
  | 0 => true
  | 1 => z
  | 2 => !z
  | 3 => cy
  | 4 => !cy
  | 5 => n
  | 6 => !n
  | 7 => v
  | 8 => !v
  | 9 => cy && !z
  | 10 => !cy || z
  | 11 => n == v
  | 12 => n != v
  | 13 => !z && (n == v)
  | 14 => z || (n != v)
  | _ => decide (rc ≠ 0)

/-! ### Registers of a ring (R346, R347) -/

/-- General register `i`. -/
def Ctx.gr (c : Ctx) (i : Nat) : BitVec 64 := smGet 0 c.g i

/-- The context with general register `i` written. -/
def Ctx.setGr (c : Ctx) (i : Nat) (v : BitVec 64) : Ctx := { c with g := smSet c.g i v }

/-- Write general register `i` of a ring. -/
def State.setG (s : State) (ring i : Nat) (v : BitVec 64) : State := s.modCtx ring fun c => c.setGr i v

/-- X: the register that DISP[3:0] names; none when DISP[13:4] is not zero (R349). -/
def Ctx.xOf (c : Ctx) (disp : BitVec 14) : Option (BitVec 64) :=
  if disp.toNat < 16 then some (c.gr disp.toNat) else none

/-- EA: G[B] plus DISP, sign-extended and scaled (R349). -/
def Ctx.ea (c : Ctx) (b : Nat) (disp : BitVec 14) (scale : Nat) : BitVec 64 := c.gr b + sext14 disp * BitVec.ofNat 64 scale

/-- ESTAT (R347). -/
def Ctx.estat (c : Ctx) (ring : Nat) : BitVec 64 :=
  BitVec.ofNat 64 (b2n c.inrep * 2 ^ 63 + b2n c.malf * 2 ^ 62 + b2n c.viol * 2 ^ 61 + b2n c.lce * 2 ^ 60 + b2n c.lue * 2 ^ 59 +
    b2n (decide (8 ≤ ring)) * 2 ^ 58 + ring % 16 * 2 ^ 54 + c.fault.toNat * 2 ^ 40 + c.idx.toNat * 2 ^ 16 + c.rem.toNat)

/-- The address of the instruction that runs: in a repeat the one after the REP word (R354, R375). -/
def Ctx.ipc (c : Ctx) : BitVec 64 := if c.inrep then c.pc + 4 else c.pc

/-- The EVENTS bits that a ring may see (R390). -/
def eventsSeen (ring : Nat) : BitVec 16 := if ring < 8 then 0xFFFF else 0xFF00

/-! ### Windows (R358, R359) -/

/-- A window register of a ring; NS reads 1 for rings 8 to 15. -/
def Ctx.win (c : Ctx) (ring i : Nat) : BitVec 64 := smGet 0 c.w i ||| (if ring < 8 then 0 else 0x0800000000000000#64)

/-- Write a window register: a ring of 8 to 15 that writes NS 0 stores NS 1 and commits a violation (R359, R395). -/
def State.setWin (s : State) (ring i : Nat) (v : BitVec 64) : State :=
  let v := v &&& 0xF80FFFFFFFFFF03F#64
  if ring < 8 ∨ bitN v.toNat 59 then s.modCtx ring fun c => { c with w := smSet c.w i v }
  else (s.modCtx ring fun c => { c with w := smSet c.w i (v ||| 0x0800000000000000#64) }).violate ring 2

/-- A special register as MFS reads it (R354). -/
def State.special (s : State) (ring n : Nat) : BitVec 64 :=
  let c := s.ctx ring
  match n with
  | 0 => c.rc.setWidth 64
  | 1 => c.estat ring
  | 2 => c.ipc
  | 3 => c.flags.setWidth 64
  | 0x10 => (s.ez.events &&& eventsSeen ring).setWidth 64
  | 0x11 => s.clk.time
  | _ =>
    if 4 ≤ n ∧ n < 8 then s.build.feat (n - 4)
    else if 8 ≤ n ∧ n < 16 then c.win ring (n - 8) else 0

/-- MTS to a special register (R354). -/
def State.setSpecial (s : State) (ring n : Nat) (v : BitVec 64) : State :=
  match n with
  | 0 => s.modCtx ring fun c => { c with rc := v.setWidth 16 }
  | 1 => s.modCtx ring fun c => { c with malf := c.malf && !bitN v.toNat 62, viol := c.viol && !bitN v.toNat 61 }
  | 3 => s.modCtx ring fun c => { c with flags := v.setWidth 4 }
  | _ => if 8 ≤ n ∧ n < 16 then s.setWin ring (n - 8) v else s

/-! ### Accesses (R355 to R361, R392, R393) -/

/-- What an access of a ring meets before it is made: a fault, a violation, a local-store byte, an address of a memory
window with its world, or an offset of an internal space. -/
inductive Acc
  | fault (c : Nat) | viol (kind : Nat) | loc (addr : Nat) | mem (pa ns : Nat) | spc (sp off : Nat)
deriving DecidableEq, Repr

/-- What an access is for. -/
inductive AccKind | load | store | fetch
deriving DecidableEq, Repr

/-- Where byte `o` of a window lies: local store or not, and the address; none where R359 faults WIN. -/
def winAddr (w : BitVec 64) (o n : Nat) (k : AccKind) : Option (Bool × Nat) :=
  let v := w.toNat
  let ls := bitN v 62
  let size := bitsN v 0 6
  let raw := if ls then bitsN v 12 4 * 4096 else bitsN v 12 40 * 4096
  let base := raw / 2 ^ size * 2 ^ size
  let ok := bitN v 63 && decide (12 ≤ size) && decide (size ≤ (if ls then 16 else 52)) &&
    (!ls || decide (base + 2 ^ size ≤ 0x10000)) && decide (o + n ≤ 2 ^ size) &&
    (match k with | .load => true | .store => bitN v 61 | .fetch => bitN v 60)
  if ok then some (ls, base + o) else none

/-- The class of an access of `n` bytes at `ea` by a ring: SPACE, ALIGN, WIN and DECODE in that order (R355). -/
def State.access (s : State) (ring : Nat) (ea : BitVec 64) (n : Nat) (k : AccKind) : Acc :=
  let a := ea.toNat
  let sp := a / 2 ^ 60
  if 8 ≤ sp ∨ (1 ≤ sp ∧ n ≠ 8) then .fault 7
  else if a % n ≠ 0 then .fault 6
  else if 1 ≤ sp then .spc sp (a % 2 ^ 60)
  else
    let w := (s.ctx ring).win ring (bitsN a 57 3)
    match winAddr w (a % 2 ^ 57) n k with
    | none => .fault 2
    | some (true, addr) =>
      if 8 ≤ ring ∧ addr < 0xC000 then .viol 2
      else if k = .store ∧ addr < 0xC000 ∧ s.locked 5 then .viol 5 else .loc addr
    | some (false, pa) =>
      if (s.mgmtDecode true pa).isNone then .fault 3 else .mem pa (b2n (bitN w.toNat 59))

/-! ### The local store (R360, R366, R407) -/

/-- The stored codeword of local-store word `i`. -/
def State.locRaw (s : State) (i : Nat) : BitVec 72 := smGet (Config.freeLocal s.nonce i) s.ez.loc i

/-- Write local-store word `i`. -/
def State.locPut (s : State) (i : Nat) (v : Nat) : State :=
  { s with ez := { s.ez with loc := smSet s.ez.loc i (BitVec.ofNat 72 (lightEnc (v % 2 ^ 64))) } }

/-- Read local-store word `i`: a corrected word is rewritten; none for an uncorrectable one. -/
def State.locTake (s : State) (i : Nat) : State × Option Nat :=
  match lightDec (s.locRaw i).toNat with
  | .ok d => (s, some d)
  | .ce d => ((s.bucketCe 0xA1040).locPut i d, some d)
  | .ue _ => (s.bucketUe 0xA1040, none)

/-- Load `n` bytes at local-store byte `a`. -/
def State.locLoad (s : State) (a n : Nat) : State × Option (BitVec 64) :=
  let r := s.locTake (a / 8)
  (r.1, r.2.map fun d => BitVec.ofNat 64 (bitsN d (8 * (a % 8)) (8 * n)))

/-- Store the low `n` bytes of `v` at local-store byte `a`; none where a partial store meets an uncorrectable word. -/
def State.locStore (s : State) (a n : Nat) (v : BitVec 64) : State × Bool :=
  if n = 8 then (s.locPut (a / 8) v.toNat, true)
  else
    match s.locTake (a / 8) with
    | (s, some d) =>
      let sh := 8 * (a % 8)
      let old := bitsN d sh (8 * n)
      (s.locPut (a / 8) (d - old * 2 ^ sh + v.toNat % 2 ^ (8 * n) * 2 ^ sh), true)
    | (s, none) => (s, false)

/-- SIZE of an access of `n` bytes (R78). -/
def sizeCode (n : Nat) : Nat := (List.range 7).findIdx fun i => decide (2 ^ i = n)

end Sys2Proof.Machine
end

