-- ==== Sys2Proof/Machine/Flags.lean ====
section
/-! DEFINITION. The results and FLAGS of the Easel's arithmetic (R350, R352). -/

namespace Sys2Proof.Machine

/-- FLAGS from Z, N, C and V (R346). -/
def mkFlags (z n c v : Bool) : BitVec 4 := BitVec.ofBool z ++ BitVec.ofBool n ++ BitVec.ofBool c ++ BitVec.ofBool v

/-- Z and N of a result, with C and V. -/
def flagsOf (r : BitVec 64) (c v : Bool) : BitVec 4 := mkFlags (decide (r = 0)) r.msb c v

/-- A result and the FLAGS it sets. -/
abbrev Alu := BitVec 64 × BitVec 4

/-- ADD: carry out of bit 63 and signed overflow. -/
def aluAdd (a b : BitVec 64) : Alu :=
  let r := a + b
  (r, flagsOf r (decide (2 ^ 64 ≤ a.toNat + b.toNat)) ((a.msb == b.msb) && (r.msb != a.msb)))

/-- SUB and CMP: C is 1 when there is no borrow. -/
def aluSub (a b : BitVec 64) : Alu :=
  let r := a - b
  (r, flagsOf r (decide (b.toNat ≤ a.toNat)) ((a.msb != b.msb) && (r.msb != a.msb)))

/-- AND and TST. -/
def aluAnd (a b : BitVec 64) : Alu := (a &&& b, flagsOf (a &&& b) false false)

/-- OR. -/
def aluOr (a b : BitVec 64) : Alu := (a ||| b, flagsOf (a ||| b) false false)

/-- XOR. -/
def aluXor (a b : BitVec 64) : Alu := (a ^^^ b, flagsOf (a ^^^ b) false false)

/-- SHL by `k` below 64: C is the last bit shifted out. -/
def aluShl (a b : BitVec 64) : Alu :=
  let k := b.toNat % 64
  (a <<< k, flagsOf (a <<< k) (decide (k ≠ 0) && a.getLsbD (64 - k)) false)

/-- SHR by `k` below 64. -/
def aluShr (a b : BitVec 64) : Alu :=
  let k := b.toNat % 64
  (a >>> k, flagsOf (a >>> k) (decide (k ≠ 0) && a.getLsbD (k - 1)) false)

/-- SAR by `k` below 64. -/
def aluSar (a b : BitVec 64) : Alu :=
  let k := b.toNat % 64
  let r := a.sshiftRight k
  (r, flagsOf r (decide (k ≠ 0) && a.getLsbD (k - 1)) false)

/-- POPC. -/
def aluPopc (a : BitVec 64) : Alu :=
  let r := BitVec.ofNat 64 (popc a)
  (r, mkFlags (decide (r = 0)) false false false)

/-- FFS: the index of the lowest bit set, or 64. -/
def aluFfs (a : BitVec 64) : Alu :=
  let r := BitVec.ofNat 64 (((List.range 64).find? fun i => a.getLsbD i).getD 64)
  (r, mkFlags (decide (r = 0)) false false false)

end Sys2Proof.Machine
end

