-- ==== Sys2Proof/Machine/Easel.lean ====
section
/-! DEFINITION. The Easel's engine: which ring runs, fetching, the end of an instruction and of a program, descriptors,
and the meanings of RING_DESCRIPTOR_START and SLOT_FRAME_BOUNDARY (R212, R348, R355, R361, R371 to R383, R397, R398). -/

namespace Sys2Proof.Machine

/-! ### Which ring runs (R375, R378, R381, R383) -/

/-- An access through a memory window, or of a descriptor, is in progress, or a load that samples at the end of its KCLK. -/
def State.ezBusy (s : State) : Bool :=
  s.ez.ctx.any fun (e : Nat × Ctx) => match e.2.wait with | .mem _ | .sample _ _ _ => true | _ => false

/-- Ring `n` has work: TAIL differs from HEAD (R378). -/
def Ring.hasWork (r : Ring) : Bool := decide (r.tail ≠ r.head)

/-- Ring `n` is runnable (R381, R383). RING_ERR keeps a ring from its next descriptor; a program that already runs goes on to its end, of
which R381 says nothing (DESIGN CHOICE, log entry 25). -/
def State.runnable (s : State) (n : Nat) : Bool :=
  let c := s.ctx n
  decide (c.wait = .idle) && (c.running || (!(s.ring n).err && (s.ring n).hasWork))

/-- The events that waiting rings below `r` will take. -/
def State.claimed (s : State) (r : Nat) : BitVec 16 :=
  s.ez.ctx.foldl (fun v (e : Nat × Ctx) =>
    match e.2.wait with
    | .event m _ _ => if e.1 < r then v ||| m else v
    | _ => v) 0

/-- The events of a mask that ring `r` may take (R391). -/
def State.takable (s : State) (r : Nat) (m : BitVec 16) : BitVec 16 := s.ez.events &&& m &&& ~~~(s.claimed r)

/-- The WAIT of ring `n` is at its end: an event that it may take is set, or its time is over (R391). -/
def State.waitEnds (s : State) (n : Nat) : Bool :=
  match (s.ctx n).wait with
  | .event m u _ => decide (s.takable n m ≠ 0) || (match u with | some t => decide (t ≤ s.kclk) | none => false)
  | _ => false

/-- A ring inside a repeat with I 0, which is never interrupted (R375). -/
def State.held0 (s : State) (n : Nat) : Bool :=
  let c := s.ctx n
  c.running && c.inrep && c.rep.isSome && decide (n < 8) && !c.repw.getLsbD 21

/-- The Easel may serve rings: EN is set, the initialisation is over, no access is in progress, and no posted store
waits (R212, R361, R370, R378, R480). -/
def State.ezReady (s : State) : Bool :=
  s.host.bootEn && !s.clk.initBusy && !s.ezBusy && decide (s.ez.tswap = [])

/-- The ring that the Easel runs next (R375, R383): one whose instruction is fetched, then one inside a repeat that is
not interrupted, then the runnable ring of lowest number. A ring whose WAIT is at its end is runnable, and the Easel runs
no ring of higher number before that WAIT has ended. -/
def State.ezPick (s : State) : Option Nat :=
  if ¬ s.ezReady then none
  else
    let rs := (List.range 16).filter s.runnable
    let low (n : Nat) : Bool := !((List.range n).any s.waitEnds)
    match rs.find? fun n => decide ((s.ctx n).ibuf ≠ []) with
    | some n => some n
    | none =>
      match rs.filter s.held0 with
      | [] => rs.head?.filter low
      | h :: t => match s.ez.last with
        | some l => if l ∈ h :: t then some l else some h
        | none => some h

/-- Ring `r` takes the Easel: a repeat of another ring that may be interrupted is, and will fetch again (R375, R397). -/
def State.ezClaim (s : State) (r : Nat) : State :=
  { s with ez := { s.ez with
    last := some r,
    ctx := s.ez.ctx.map fun e =>
      if e.1 ≠ r ∧ e.2.inrep ∧ e.2.wait = .idle ∧ (8 ≤ e.1 ∨ e.2.repw.getLsbD 21) then (e.1, { e.2 with rep := none }) else e } }

/-! ### Memory accesses of the Easel (R361, R381, R398) -/

/-- Issue a message for ring `r` and wait for its answer. -/
def State.ezIssue (s : State) (r : Nat) (use : MemUse) (mopc pa world size : Nat) (data : BitVec 512) (n : Nat) : State :=
  match s.mgmtDecode true pa with
  | none => s
  | some (m, code) =>
    let off := pa % 64
    let q : MemReq := { mopc := mopc, line := pa / 64, world := world, part := 0, code := code, size := size, off := off,
                        data := if mopc = 2 then data <<< (8 * off) else 0,
                        be := if mopc = 2 then BitVec.ofNat 64 ((2 ^ n - 1) * 2 ^ off) else 0, own := .easel r }
    let s := { s with ez := { s.ez with memOut := smMod [] s.ez.memOut m (· ++ [q]) } }
    s.modCtx r fun c => { c with wait := .mem use }

/-- World of a ring. -/
def ringWorld (r : Nat) : Nat := if r < 8 then 0 else 1

/-- The address of the descriptor that a ring serves (R378). -/
def State.descAddr (s : State) (n : Nat) : Nat :=
  let r := s.ring n
  (r.base.toNat + 64 * (r.head.toNat % 2 ^ r.size.toNat)) % 2 ^ 52

/-! ### The end of a program (R355, R380, R381) -/

/-- RING_ERR of a ring and its interrupt; a TAIL write of the same KCLK acts after the setting, which leaves RING_ERR clear (R381, R539,
R543). -/
def State.ringError (s : State) (n : Nat) : State :=
  let s := s.modRing n fun r => { r with err := decide (r.tailK ≠ some s.kclk) }
  if n < 8 then s.irqS 22 else s.irqNs 22

/-- The last steps of a program: HEAD advances and the completion source is set; `bad` when its status could not be
written (R380, R381). -/
def State.ezFinish (s : State) (n : Nat) (irq bad : Bool) : State :=
  let s := if bad then s.ringError n else s
  let s := (s.modRing n fun r => { r with head := r.head + 1 }).modCtx n fun c => { c with running := false, wait := .idle }
  if irq then (if n < 8 then s.irqS n else s.irqNs (n - 8)) else s

/-- Write STATUS, and RESULT when there is one, of the descriptor a ring serves. -/
def State.descWrite (s : State) (n : Nat) (status : Nat) (result : Option (BitVec 64)) (irq : Bool) : State :=
  let pa := s.descAddr n + 0x30
  let s := s.modCtx n fun c => { c with ibuf := [], rep := none }
  if (s.mgmtDecode true pa).isNone then s.ezFinish n irq true
  else match result with
    | some v => s.ezIssue n (.status irq) 2 pa (ringWorld n) 4 (BitVec.ofNat 512 (status + v.toNat * 2 ^ 64)) 16
    | none => s.ezIssue n (.status irq) 2 pa (ringWorld n) 3 (BitVec.ofNat 512 status) 8

/-- The end of a ring's program with a fault or a code (R355, R377, R379, R380). -/
def State.endProgram (s : State) (n fault code : Nat) (result : BitVec 64) : State :=
  let c := s.ctx n
  let s := s.modCtx n fun c => { c with fault := BitVec.ofNat 8 fault, lastOk := decide (fault = 0) }
  s.descWrite n (2 ^ 63 + fault % 256 * 2 ^ 40 + c.idx.toNat * 2 ^ 16 + code % 256) (some result)
    (c.dflags.getLsbD 0 || decide (fault ≠ 0))

/-- A fault: the program ends, and RESULT is its PC (R355, R377, R379). -/
def State.ezFault (s : State) (n fault : Nat) : State := s.endProgram n fault 0 (s.ctx n).pc

/-! ### The end of an instruction (R351, R373) -/

/-- An instruction of `len` bytes of ring `r` has ended. -/
def State.ezDone (s : State) (r len : Nat) : State :=
  s.modCtx r fun c =>
    let c := { c with ibuf := [], wait := .idle }
    if c.inrep then
      let c := { c with idx := c.idx + 1, rem := c.rem - 1 }
      if c.rem = 0 then { c with inrep := false, rep := none, pc := c.pc + 4 + BitVec.ofNat 64 len } else c
    else { c with pc := c.pc + BitVec.ofNat 64 len }

/-- A branch of ring `r` is taken. -/
def State.ezJump (s : State) (r : Nat) (pc : BitVec 64) : State :=
  s.modCtx r fun c => { c with ibuf := [], pc := pc }

/-! ### Fetching (R351, R355, R359 to R361, R397) -/

/-- The instruction a ring has fetched: its words, its length, DISP as this iteration runs it, whether its fetch was a
violation, and the local-store words read. -/
structure Inst where
  word : BitVec 32
  ext : BitVec 32 := 0
  succ : Option (BitVec 32 × BitVec 32) := none
  viol : Bool := false
  locs : List Nat := []
deriving DecidableEq, Repr

/-- What a fetch comes to. -/
inductive Got
  | ok (i : Inst) | need (pa ns key : Nat) | fault (c : Nat)
deriving DecidableEq, Repr

/-- Fetch one word at `a`; `key` numbers the line it comes from when it lies in memory. -/
def State.fetchWord (s : State) (r key : Nat) (a : BitVec 64) : Got :=
  if a.toNat % 4 ≠ 0 then .fault 6
  else match s.access r a 4 .fetch with
    | .fault c => .fault c
    | .viol _ => .ok { word := 0, viol := true }
    | .loc addr =>
      match lightDec (s.locRaw (addr / 8)).toNat with
      | .ue _ => .fault 4
      | d => .ok { word := BitVec.ofNat 32 (bitsN d.data (8 * (addr % 8)) 32), locs := [addr / 8] }
    | .mem pa ns =>
      match ((s.ctx r).ibuf.find? fun e => e.1 = key) with
      | some e => .ok { word := BitVec.ofNat 32 (bitsN e.2.toNat (8 * (pa % 64)) 32) }
      | none => .need pa ns key
    | .spc _ _ => .fault 7

/-- The words at `a` and the next lie in one line of memory. -/
def State.sameLine (s : State) (r : Nat) (a : BitVec 64) : Bool :=
  match s.access r a 4 .fetch, s.access r (a + 4) 4 .fetch with
  | .mem x n, .mem y k => decide (x / 64 = y / 64) && decide (n = k)
  | _, _ => false

/-- Fetch an instruction with its extension word. -/
def State.fetchInst (s : State) (r key : Nat) (a : BitVec 64) : Got :=
  match s.fetchWord r key a with
  | .ok i =>
    if hasExt (wOpc i.word) then
      match s.fetchWord r (if s.sameLine r a then key else key + 1) (a + 4) with
      | .ok x => .ok { i with ext := x.word, viol := i.viol || x.viol, locs := i.locs ++ x.locs }
      | g => g
    else .ok i
  | g => g

/-- What ring `r` runs next: the latched instruction of a repeat, or the one at PC, a REP with the one after it. The one after is fetched,
and its fetch's fault or violation is taken, also where the condition of REP fails or its count is 0, so that it is skipped: R372 does
not say whether a skipped instruction is fetched (DESIGN CHOICE, log entry 31). -/
def State.fetched (s : State) (r : Nat) : Got :=
  let c := s.ctx r
  match c.rep with
  | some w => .ok { word := w.1, ext := w.2 }
  | none =>
    match s.fetchInst r 0 c.pc with
    | .ok i =>
      if wOpc i.word = 0x3D then
        match s.fetchInst r 2 (c.pc + 4) with
        | .ok x => .ok { i with succ := some (x.word, x.ext), viol := i.viol || x.viol, locs := i.locs ++ x.locs }
        | g => g
      else .ok i
    | g => g

/-- The Easel goes on as far as it can by itself: it issues the read of the next line that a fetch needs, or ends the
program at a fault met in fetching; an uncorrectable local-store word is counted (R355, R361, R415). -/
def State.ezBegin (s : State) : State :=
  match s.ezPick with
  | none => s
  | some r =>
    if ¬ (s.ctx r).running then s
    else match s.fetched r with
      | .ok _ => s
      | .fault c => (if c = 4 then (s.ezClaim r).bucketUe 0xA1040 else s.ezClaim r).ezFault r c
      | .need pa ns key => (s.ezClaim r).ezIssue r (.fetch key) 1 (pa / 64 * 64) ns 6 0 0

/-- The effects of the fetch on the words it read: a corrected local-store word is rewritten, a violation recorded
(R355, R407). -/
def State.ezTouch (s : State) (r : Nat) (i : Inst) : State :=
  let s := i.locs.foldl (fun (s : State) k => (s.locTake k).1) s
  if i.viol then s.violate r 2 else s

/-- The ring that runs and its instruction, when it is fetched. -/
def State.ezNext (s : State) : Option (Nat × Inst) :=
  match s.ezPick with
  | some r => if (s.ctx r).running then (match s.fetched r with | .ok i => some (r, i) | _ => none) else none
  | none => none

/-- Opcodes whose DISP steps in a repeat: loads, stores, LEA and management operations (R373). -/
def stepsDisp (opc : Nat) : Bool := (decide (1 ≤ opc) && decide (opc ≤ 9)) || (decide (0x28 ≤ opc) && decide (opc ≤ 0x36))

/-- DISP as the instruction runs with it (R373). -/
def Ctx.dispOf (c : Ctx) (w : BitVec 32) : BitVec 14 :=
  if c.inrep ∧ stepsDisp (wOpc w) then
    wDisp w + c.idx.setWidth 14 * (c.repw.extractLsb' 0 12).signExtend 14
  else wDisp w

/-- Run the instruction of word `w`: it is the one that the ring which runs has fetched. An instruction whose condition
fails only passes (R353). -/
def State.ezRunWord (s : State) (w ext : BitVec 32) (body : State → Nat → Inst → State) : State :=
  match s.ezNext with
  | none => s
  | some (r, i) =>
    if i.word ≠ w ∨ (hasExt (wOpc w) ∧ i.ext ≠ ext) then s
    else
      let s := (s.ezClaim r).ezTouch r i
      let c := s.ctx r
      (if condHolds (wCond w) c.flags c.rc then body s r i else s.ezDone r (instLen w)).ezBegin

/-- Run an instruction with opcode `opc`: `body` takes the ring, its context and DISP as it runs (R349, R373). -/
def State.ezRun (s : State) (opc : Nat) (f : Fld) (body : State → Nat → Ctx → BitVec 14 → State) : State :=
  s.ezRunWord (fldWord opc f) f.ext fun s r i => body s r (s.ctx r) ((s.ctx r).dispOf i.word)

/-- An Easel command: nothing in reset. -/
def State.atEasel (s : State) (f : State → State) : Res := .next (s.whenLive f)

/-! ### Descriptors (R348, R378 to R381) -/

/-- The Easel picks a ring with no program and reads its next descriptor (R378, R381, R383). -/
def State.descStart (s : State) : State :=
  match s.ezPick with
  | none => s
  | some n =>
    if (s.ctx n).running then s
    else
      let r := s.ring n
      let s := s.ezClaim n
      if 2 ^ r.size.toNat < (r.tail - r.head).toNat ∨ (s.mgmtDecode true (s.descAddr n)).isNone then (s.ringError n).ezBegin
      else s.ezIssue n .desc 1 (s.descAddr n) (ringWorld n) 6 0 0

/-- A ring that the Easel serves, and whose TAIL has run too far ahead of HEAD, is stopped, from the KCLK after the write of TAIL on
(R381). -/
def State.ringCheck (s : State) (n : Nat) : State :=
  let r := s.ring n
  if r.err ∨ r.tailK = some s.kclk ∨ (r.tail - r.head).toNat ≤ 2 ^ r.size.toNat then s else s.ringError n

/-- Every ring's check, at each KCLK while the Easel serves rings (R378, R381). -/
def State.ringsCheck (s : State) : State :=
  if s.host.bootEn ∧ ¬ s.clk.initBusy then (List.range 16).foldl State.ringCheck s else s

/-- RING_DESCRIPTOR_START (R348). -/
def execRingDescriptorStart (s : State) : Res := s.atEasel State.descStart

/-- A descriptor's word at byte offset `o`. -/
def descWord (l : BitVec 512) (o : Nat) : BitVec 64 := BitVec.ofNat 64 (bitsN l.toNat (8 * o) 64)

/-- A descriptor has been read: the context is loaded, or the descriptor skipped (R348, R379, R380). Its WIN0 enters W0 as a write of the
ring does: one with NS 0 on rings 8 to 15 is a violation of KIND 2, which sets VIOL as the program starts, though it is the Easel that
loads it and no rule says which of the two R359 means (DESIGN CHOICE, log entry 65). -/
def State.descLoad (s : State) (n : Nat) (l : BitVec 512) : State :=
  let old := s.ctx n
  let fl := descWord l 0x28
  if fl.getLsbD 2 ∧ ¬ old.lastOk then
    (s.modCtx n fun c => { c with lastOk := false }).descWrite n (2 ^ 63 + 2 ^ 62) none (fl.getLsbD 0)
  else
    let c : Ctx := {
      g := smPut 0 (smPut 0 (smPut 0 [] 0 (descWord l 8)) 1 (descWord l 0x10)) 2 (descWord l 0x18),
      pc := descWord l 0, w := old.w, running := true, dflags := fl, lastOk := old.lastOk }
    let s := s.modCtx n fun _ => c
    if fl.getLsbD 1 then s.setWin n 0 (descWord l 0x20) else s

/-! ### Slot tables (R212) -/

/-- The tables that a mask names: their shadow and active bases. -/
def swapBases (mask : Nat) : List (Nat × Nat) :=
  ((List.range 16).filter fun p => bitN mask p).map (fun p => (p, pnBase p)) ++
    ((List.range 8).filter fun m => bitN mask (16 + m)).map fun m => (16 + m, mpBase m)

/-- Copy a table's shadow into its active slots (R212). -/
def State.swapTable (s : State) (base : Nat) : State :=
  (List.range 64).foldl (fun (s : State) i => s.w6s (base + 0x400 + 8 * i) (s.w6g (base + 0x200 + 8 * i))) s

/-- A frame boundary: pending TSWAPs take effect, then the shadow stores that waited (R212). -/
def State.frameBoundary (s : State) : State :=
  let due := s.ez.ops.filter fun o => decide (o.opc = 0x30) && o.started && o.status.isNone
  let s := due.foldl (fun (s : State) o => (swapBases (o.word 0)).foldl (fun (s : State) e => s.swapTable e.2) s) s
  let held := s.ez.tswap
  let s := { s with ez := { s.ez with
    tswap := [],
    ops := s.ez.ops.map fun o => if o.opc = 0x30 ∧ o.started ∧ o.status = none then { o with status := some 1 } else o } }
  held.foldl (fun (s : State) e => s.w6s e.1 (BitVec.ofNat 64 e.2)) s

/-- SLOT_FRAME_BOUNDARY (R208, R212): the HCLK cycle count is a multiple of 64. -/
def execSlotFrameBoundary (s : State) : Res :=
  s.atEasel fun s => if s.clk.cyc % 64 = 0 then s.frameBoundary.ezBegin else s

end Sys2Proof.Machine
end

