-- ==== Sys2Proof/Machine/EaselAlu.lean ====
section
/-! DEFINITION. The Easel's register instructions: arithmetic, logic, shifts, comparisons, counts, LEA, LIM, LIMH, MTS and
MFS (R349 to R354). -/

namespace Sys2Proof.Machine

/-- The second operand of an instruction: X, or I as DISP sign-extended. A shift by DISP[5:0] takes it from I too, since
its count is modulo 64 (R349, R350). -/
inductive Src | x | i
deriving DecidableEq, Repr

/-- The value of the second operand; none where X faults ILL. -/
def Ctx.src (c : Ctx) (k : Src) (disp : BitVec 14) : Option (BitVec 64) :=
  match k with
  | .x => c.xOf disp
  | .i => some (sext14 disp)

/-- Write a result and FLAGS, and end the instruction. -/
def State.aluDone (s : State) (r len d : Nat) (a : Alu) : State :=
  (s.modCtx r fun c => { (c.setGr d a.1) with flags := a.2 }).ezDone r len

/-- An instruction G[D] from G[B] and a second operand, with flags (R350, R352). -/
def State.ezAlu (s : State) (opc : Nat) (f : Fld) (k : Src) (op : BitVec 64 → BitVec 64 → Alu) : State :=
  s.ezRun opc f fun s r c disp =>
    match c.src k disp with
    | some v => s.aluDone r 4 f.d.toNat (op (c.gr f.b.toNat) v)
    | none => s.ezFault r 1

/-- An instruction that only sets FLAGS (R352). -/
def State.ezTest (s : State) (opc : Nat) (f : Fld) (k : Src) (op : BitVec 64 → BitVec 64 → Alu) : State :=
  s.ezRun opc f fun s r c disp =>
    match c.src k disp with
    | some v => (s.modCtx r fun c => { c with flags := (op (c.gr f.b.toNat) v).2 }).ezDone r 4
    | none => s.ezFault r 1

/-- An instruction of G[B] alone, with flags (R350, R352). -/
def State.ezCount (s : State) (opc : Nat) (f : Fld) (op : BitVec 64 → Alu) : State :=
  s.ezRun opc f fun s r c _ => s.aluDone r 4 f.d.toNat (op (c.gr f.b.toNat))

/-- An instruction that writes G[D] and leaves FLAGS (R350). -/
def State.ezSet (s : State) (opc : Nat) (f : Fld) (v : State → Nat → Ctx → BitVec 14 → BitVec 64) : State :=
  s.ezRun opc f fun s r c disp => (s.setG r f.d.toNat (v s r c disp)).ezDone r (if hasExt opc then 8 else 4)

/-- ADD (R350, R352). -/
def execEzAdd (f : Fld) (s : State) : Res := s.atEasel fun s => s.ezAlu 0x10 f .x aluAdd

/-- ADDI (R350, R352). -/
def execEzAddi (f : Fld) (s : State) : Res := s.atEasel fun s => s.ezAlu 0x11 f .i aluAdd

/-- SUB (R350, R352). -/
def execEzSub (f : Fld) (s : State) : Res := s.atEasel fun s => s.ezAlu 0x12 f .x aluSub

/-- SUBI (R350, R352). -/
def execEzSubi (f : Fld) (s : State) : Res := s.atEasel fun s => s.ezAlu 0x13 f .i aluSub

/-- AND (R350, R352). -/
def execEzAnd (f : Fld) (s : State) : Res := s.atEasel fun s => s.ezAlu 0x14 f .x aluAnd

/-- ANDI (R350, R352). -/
def execEzAndi (f : Fld) (s : State) : Res := s.atEasel fun s => s.ezAlu 0x15 f .i aluAnd

/-- OR (R350, R352). -/
def execEzOr (f : Fld) (s : State) : Res := s.atEasel fun s => s.ezAlu 0x16 f .x aluOr

/-- ORI (R350, R352). -/
def execEzOri (f : Fld) (s : State) : Res := s.atEasel fun s => s.ezAlu 0x17 f .i aluOr

/-- XOR (R350, R352). -/
def execEzXor (f : Fld) (s : State) : Res := s.atEasel fun s => s.ezAlu 0x18 f .x aluXor

/-- XORI (R350, R352). -/
def execEzXori (f : Fld) (s : State) : Res := s.atEasel fun s => s.ezAlu 0x19 f .i aluXor

/-- SHL (R350, R352). -/
def execEzShl (f : Fld) (s : State) : Res := s.atEasel fun s => s.ezAlu 0x1A f .x aluShl

/-- SHLI (R350, R352). -/
def execEzShli (f : Fld) (s : State) : Res := s.atEasel fun s => s.ezAlu 0x1B f .i aluShl

/-- SHR (R350, R352). -/
def execEzShr (f : Fld) (s : State) : Res := s.atEasel fun s => s.ezAlu 0x1C f .x aluShr

/-- SHRI (R350, R352). -/
def execEzShri (f : Fld) (s : State) : Res := s.atEasel fun s => s.ezAlu 0x1D f .i aluShr

/-- SAR (R350, R352). -/
def execEzSar (f : Fld) (s : State) : Res := s.atEasel fun s => s.ezAlu 0x1E f .x aluSar

/-- SARI (R350, R352). -/
def execEzSari (f : Fld) (s : State) : Res := s.atEasel fun s => s.ezAlu 0x1F f .i aluSar

/-- CMP (R352). -/
def execEzCmp (f : Fld) (s : State) : Res := s.atEasel fun s => s.ezTest 0x20 f .x aluSub

/-- CMPI (R352). -/
def execEzCmpi (f : Fld) (s : State) : Res := s.atEasel fun s => s.ezTest 0x21 f .i aluSub

/-- TST (R352). -/
def execEzTst (f : Fld) (s : State) : Res := s.atEasel fun s => s.ezTest 0x22 f .x aluAnd

/-- TSTI (R352). -/
def execEzTsti (f : Fld) (s : State) : Res := s.atEasel fun s => s.ezTest 0x23 f .i aluAnd

/-- POPC (R350, R352). -/
def execEzPopc (f : Fld) (s : State) : Res := s.atEasel fun s => s.ezCount 0x24 f aluPopc

/-- FFS (R350, R352). -/
def execEzFfs (f : Fld) (s : State) : Res := s.atEasel fun s => s.ezCount 0x25 f aluFfs

/-- LEA (R350): EA with scale 1, no access. -/
def execEzLea (f : Fld) (s : State) : Res := s.atEasel fun s => s.ezSet 0x09 f fun _ _ c disp => c.ea f.b.toNat disp 1

/-- LIM (R350, R351). -/
def execEzLim (f : Fld) (s : State) : Res := s.atEasel fun s => s.ezSet 0x0B f fun _ _ _ _ => f.ext.signExtend 64

/-- LIMH (R350, R351). -/
def execEzLimh (f : Fld) (s : State) : Res :=
  s.atEasel fun s => s.ezSet 0x0C f fun _ _ c _ => f.ext ++ (c.gr f.d.toNat).setWidth 32

/-- MFS (R354). -/
def execEzMfs (f : Fld) (s : State) : Res := s.atEasel fun s => s.ezSet 0x27 f fun s r _ disp => s.special r disp.toNat

/-- MTS (R354, R359). -/
def execEzMts (f : Fld) (s : State) : Res :=
  s.atEasel fun s => s.ezRun 0x26 f fun s r c disp => (s.setSpecial r disp.toNat (c.gr f.b.toNat)).ezDone r 4

end Sys2Proof.Machine
end

