-- ==== Sys2Proof/Machine/EaselMem.lean ====
section
/-! DEFINITION. The Easel's loads and stores (R350, R355 to R366, R395). -/

namespace Sys2Proof.Machine

/-- A loaded value reaches G[D]. -/
def State.ezLoaded (s : State) (r d : Nat) (v : BitVec 64) : State := (s.setG r d v).ezDone r 4

/-- A load that an internal space answers, with LCE and LUE (R366). -/
def State.spcLoad (s : State) (r sp off : Nat) : State × BitVec 64 :=
  let (s, v, e) := s.spaceLoad r sp off
  (if sp = 1 ∨ sp = 2 ∨ sp = 3 ∨ sp = 5 then
      s.modCtx r fun c => { c with lce := decide (e = .ce), lue := decide (e = .ue) }
    else s, v)

/-- A load of space 0x4 or 0x6 by ring `r` waits for the end of the KCLK in which it samples (R496). -/
def State.ezSample (s : State) (r sp off : Nat) (u : MemUse) : State := s.modCtx r fun c => { c with wait := .sample sp off u }

/-- The words that a load samples at the end of its KCLK, so that counters read as R496 says. -/
def sampled (sp : Nat) : Bool := decide (sp = 4) || decide (sp = 6)

/-- A load of the partition table by ring `r` checks its word (R407). -/
def State.sitCheck (s : State) (sp off : Nat) (e : Ecc) : State :=
  match sp, s.build.blk6 off with
  | 6, .pt off =>
    let s := s.bucket 0xA10A0 e
    if e = .ue then s.w6s off 4096#64 else s
  | _, _ => s

/-- A load of `n` bytes at `ea` by ring `r` into G[d]; `e` is what the check of a partition-table word finds (R355, R361, R395, R407). -/
def State.loadAt (s : State) (r : Nat) (ea : BitVec 64) (n d : Nat) (e : Ecc) : State :=
  match s.access r ea n .load with
  | .fault c => s.ezFault r c
  | .viol k => (s.violate r k).ezLoaded r d 0
  | .loc a =>
    match s.locLoad a n with
    | (s, some v) => s.ezLoaded r d v
    | (s, none) => s.ezFault r 4
  | .spc sp off =>
    if sampled sp then (s.sitCheck sp off e).ezSample r sp off (.load d 8 0)
    else
      let (s, v) := s.spcLoad r sp off
      s.ezLoaded r d v
  | .mem pa ns => s.ezIssue r (.load d n (pa % 64)) 1 pa ns (sizeCode n) 0 0

/-- A store of the low `n` bytes of `v` at `ea` by ring `r` (R355, R361, R370, R395). -/
def State.storeAt (s : State) (r : Nat) (ea : BitVec 64) (n : Nat) (v : BitVec 64) : State :=
  match s.access r ea n .store with
  | .fault c => s.ezFault r c
  | .viol k => (s.violate r k).ezDone r 4
  | .loc a =>
    match s.locStore a n v with
    | (s, true) => s.ezDone r 4
    | (s, false) => s.ezFault r 4
  | .spc sp off => if s.storeWaits r sp off then s else (s.spaceStore r sp off v).ezDone r 4
  | .mem pa ns => s.ezIssue r .store 2 pa ns (sizeCode n) (BitVec.ofNat 512 (v.toNat % 2 ^ (8 * n))) n

/-- A load instruction of `n` bytes. -/
def State.ezLoadInst (s : State) (opc n : Nat) (f : Fld) : State :=
  s.ezRun opc f fun s r c disp => s.loadAt r (c.ea f.b.toNat disp n) n f.d.toNat f.sit

/-- A store instruction of `n` bytes. -/
def State.ezStoreInst (s : State) (opc n : Nat) (f : Fld) : State :=
  s.ezRun opc f fun s r c disp => s.storeAt r (c.ea f.b.toNat disp n) n (c.gr f.d.toNat)

/-- LD (R350). -/
def execEzLd (f : Fld) (s : State) : Res := s.atEasel fun s => s.ezLoadInst 0x01 8 f

/-- LDW (R350). -/
def execEzLdw (f : Fld) (s : State) : Res := s.atEasel fun s => s.ezLoadInst 0x02 4 f

/-- LDH (R350). -/
def execEzLdh (f : Fld) (s : State) : Res := s.atEasel fun s => s.ezLoadInst 0x03 2 f

/-- LDB (R350). -/
def execEzLdb (f : Fld) (s : State) : Res := s.atEasel fun s => s.ezLoadInst 0x04 1 f

/-- ST (R350). -/
def execEzSt (f : Fld) (s : State) : Res := s.atEasel fun s => s.ezStoreInst 0x05 8 f

/-- STW (R350). -/
def execEzStw (f : Fld) (s : State) : Res := s.atEasel fun s => s.ezStoreInst 0x06 4 f

/-- STH (R350). -/
def execEzSth (f : Fld) (s : State) : Res := s.atEasel fun s => s.ezStoreInst 0x07 2 f

/-- STB (R350). -/
def execEzStb (f : Fld) (s : State) : Res := s.atEasel fun s => s.ezStoreInst 0x08 1 f

end Sys2Proof.Machine
end

