-- ==== Sys2Proof/Machine/EaselCtl.lean ====
section
/-! DEFINITION. The Easel's control: END, WAIT, SIGNAL, branches, LOOP, REP, reserved opcodes, and the ends of a wait (R350,
R355, R371 to R376, R379, R380, R390, R391). -/

namespace Sys2Proof.Machine

/-- END (R350, R380). -/
def execEzEnd (f : Fld) (s : State) : Res :=
  s.atEasel fun s => s.ezRun 0x0D f fun s r c disp => s.endProgram r 0 (disp.toNat % 256) (c.gr f.d.toNat)

/-! ### Events (R390, R391) -/

/-- Ring `r` takes events: they clear in EVENTS and reach G[D] (R391). -/
def State.takeEvents (s : State) (r d : Nat) (got : BitVec 16) : State :=
  (({ s with ez := { s.ez with events := s.ez.events &&& ~~~got } }).setG r d (got.setWidth 64)).ezDone r 4

/-- WAIT (R391). -/
def execEzWait (f : Fld) (s : State) : Res :=
  s.atEasel fun s => s.ezRun 0x0E f fun s r c disp =>
    let d := f.d.toNat
    let m := (c.gr d).setWidth 16 &&& eventsSeen r
    let t := c.gr f.b.toNat + sext14 disp
    let got := s.takable r m
    if got ≠ 0 ∨ (m = 0 ∧ t = 0) then s.takeEvents r d got
    else
      let u := if t = 0 then none else some (s.kclk + t.toNat)
      s.modCtx r fun c => { c with ibuf := [], wait := .event m u d }

/-- SIGNAL (R390). One that names an EVENTS bit which its ring may not signal records KIND 0x04 in EZ_VLAST, as one that names what its
ring may not touch (R395, R396; DESIGN CHOICE, log entry 19). -/
def execEzSignal (f : Fld) (s : State) : Res :=
  s.atEasel fun s => s.ezRun 0x0F f fun s r c disp =>
    let v := (c.gr f.d.toNat).setWidth 16 &&& 0xFFE0#16
    let may : BitVec 16 := if r < 8 then 0xFFE0 else 0xFF00
    let s := if v &&& ~~~may = 0 then s else s.violate r 4
    let s := { s with ez := { s.ez with events := s.ez.events ||| (v &&& may) } }
    let s := if disp.getLsbD 0 then (if r < 8 then s.irqS (8 + r) else s.irqNs r) else s
    s.ezDone r 4

/-- WAIT_EVENT_TAKEN (R391). -/
def State.waitTaken (s : State) (r : Nat) : State :=
  match (s.ctx r).wait with
  | .event m _ d => if s.takable r m = 0 then s else (s.takeEvents r d (s.takable r m)).ezBegin
  | _ => s

/-- WAIT_EVENT_TAKEN (R391). -/
def execWaitEventTaken (ring : Nat) (s : State) : Res := s.atRing ring fun s => s.waitTaken ring

/-- WAIT_TIMEOUT (R391): T KCLK have passed and no event ended the wait. -/
def State.waitOver (s : State) (r : Nat) : State :=
  match (s.ctx r).wait with
  | .event m (some u) d =>
    if u ≤ s.kclk ∧ s.takable r m = 0 then (s.takeEvents r d 0).ezBegin else s
  | _ => s

/-- WAIT_TIMEOUT (R391). -/
def execWaitTimeout (ring : Nat) (s : State) : Res := s.atRing ring fun s => s.waitOver ring

/-! ### Branches (R350) -/

/-- Four times DISP, signed. -/
def disp4 (d : BitVec 14) : BitVec 64 := sext14 d * 4

/-- BR (R350). -/
def execEzBr (f : Fld) (s : State) : Res :=
  s.atEasel fun s => s.ezRun 0x38 f fun s r c disp => s.ezJump r (c.pc + disp4 disp)

/-- BRL (R350). -/
def execEzBrl (f : Fld) (s : State) : Res :=
  s.atEasel fun s => s.ezRun 0x39 f fun s r c disp => (s.setG r f.d.toNat (c.pc + 4)).ezJump r (c.pc + disp4 disp)

/-- JMP (R350). -/
def execEzJmp (f : Fld) (s : State) : Res :=
  s.atEasel fun s => s.ezRun 0x3A f fun s r c disp => s.ezJump r (c.ea f.b.toNat disp 4)

/-- JMPL (R350): the target is taken before the link is written. -/
def execEzJmpl (f : Fld) (s : State) : Res :=
  s.atEasel fun s => s.ezRun 0x3B f fun s r c disp => (s.setG r f.d.toNat (c.pc + 4)).ezJump r (c.ea f.b.toNat disp 4)

/-- LOOP (R350). -/
def execEzLoop (f : Fld) (s : State) : Res :=
  s.atEasel fun s => s.ezRun 0x3C f fun s r c disp =>
    let s := s.modCtx r fun c => { c with rc := c.rc - 1 }
    if c.rc - 1 = 0 then s.ezDone r 4 else s.ezJump r (c.pc + disp4 disp)

/-! ### REP (R371 to R376) -/

/-- The instructions that REP does not repeat: REP, branches, LOOP, END, WAIT and SIGNAL (R376). -/
def noRepeat (opc : Nat) : Bool := decide (opc ∈ [0x3D, 0x38, 0x39, 0x3A, 0x3B, 0x3C, 0x0D, 0x0E, 0x0F])

/-- The REP prefix, its condition holding or a repeat going on (R372, R375, R376). The instruction that R376 forbids is tested first: it
runs once with MALF even where the count is 0, and R372 would skip it (DEDUCED, log entry 31). -/
def State.repStep (s : State) (r : Nat) (f : RepFld) (x e : BitVec 32) : State :=
  let c := s.ctx r
  let latch (c : Ctx) : Ctx := { c with ibuf := [], rep := some (x, e), repw := repWord f, inrep := true }
  if noRepeat (wOpc x) then
    s.modCtx r fun c => { c with
      malf := true, pc := c.pc + 4, inrep := false,
      ibuf := c.ibuf.filterMap fun l => if 2 ≤ l.1 then some (l.1 - 2, l.2) else none }
  else if c.inrep then s.modCtx r latch
  else
    let n : BitVec 16 := if f.csrc then c.rc else f.count.setWidth 16
    let s := s.modCtx r fun c => { c with rem := n, idx := 0 }
    if n = 0 then s.ezJump r (c.pc + 4 + BitVec.ofNat 64 (instLen x)) else s.modCtx r latch

/-- REP (R372): a repeat that resumes does not look at its condition again (R375). -/
def State.ezRepRun (s : State) (f : RepFld) : State :=
  match s.ezNext with
  | none => s
  | some (r, i) =>
    match i.succ with
    | none => s
    | some (x, e) =>
      if i.word ≠ repWord f then s
      else
        let s := (s.ezClaim r).ezTouch r i
        let c := s.ctx r
        (if c.inrep ∨ condHolds f.cond c.flags c.rc then s.repStep r f x e
          else s.ezJump r (c.pc + 4 + BitVec.ofNat 64 (instLen x))).ezBegin

/-- REP (R371, R372). -/
def execEzRep (f : RepFld) (s : State) : Res := s.atEasel fun s => s.ezRepRun f

/-- Opcodes that R350 does not list. -/
def reservedOpc (opc : Nat) : Bool := decide (opc ∈ [0x00, 0x0A, 0x37, 0x3E, 0x3F])

/-- RESERVED_OPCODE (R355): a word whose opcode R350 does not list faults ILL. -/
def execEzReserved (w : BitVec 32) (s : State) : Res :=
  s.atEasel fun s => if reservedOpc (wOpc w) then s.ezRunWord w 0 fun s r _ => s.ezFault r 1 else s

end Sys2Proof.Machine
end

