-- ==== Sys2Proof/Machine/Branch.lean ====
section
/-! DEFINITION. Branches: eclipse requests, fences, liveness and the return to service: the meanings of BR_ECL_REQ_RISE,
BR_ECL_REQ_FALL, BRANCH_FENCE_CLOSES and BRANCH_LIVENESS_LOSS, and the parts of ECLIPSE and DAWN that act on a branch (R458,
R469 to R478). -/

namespace Sys2Proof.Machine

/-- A command to branch `b`: nothing where the build has no such branch (R24, log entry 8). -/
def State.atBranch (s : State) (b : Nat) (f : State → State) : Res := .next (if s.build.hasBranch b then f s else s)

/-- BSTATE moves from in service to fencing; ports that are introducing themselves go to DOWN (R470, R471). -/
def State.fenceBranch (s : State) (b : Nat) : State :=
  let s := s.modBr b fun x => { x with bstate := 1 }
  (s.build.branchSlots b).foldl (fun (s : State) n =>
    if (s.port n).lstate = .introduce ∨ (s.port n).lstate = .ready then s.portDown n else s) s

/-- BSTATE returns to in service; the held ports enter INTRODUCE (R471). -/
def State.openBranch (s : State) (b : Nat) : State :=
  let s := s.modBr b fun x => { x with bstate := 0 }
  (s.build.branchSlots b).foldl (fun (s : State) n => s.attach n) s

/-- A captured rise of BR_ECL_REQ (R470). -/
def State.brRise (s : State) (b : Nat) (ns : Bool) : State :=
  let x := s.br b
  let s := s.modBr b fun x => { x with eclReq := true }
  if ns ∧ x.shold then s
  else
    let s := ((s.event 4).irqS 23).modBr b fun x => { x with eclAcc := true }
    match x.bstate with
    | 0 => s.fenceBranch b
    | 1 => s
    | 2 => s.modBr b fun x => { x with eclAck := true }
    | _ => s.modBr b fun x => { x with risePend := true }

/-- BR_ECL_REQ_RISE (R470, R483): a rise before the initialisation ends is captured when it ends. -/
def execBrEclReqRise (b : Nat) (ns : Bool) (s : State) : Res :=
  s.atBranch b fun s =>
    if (s.br b).eclReq then s
    else if s.clk.shut || s.clk.initBusy then s.modBr b fun x => { x with risePend := true }
    else s.brRise b ns

/-- A captured fall of BR_ECL_REQ (R473). -/
def State.brFall (s : State) (b : Nat) : State :=
  let s := s.modBr b fun x => { x with eclReq := false, eclAcc := false, eclAck := false, risePend := false }
  if (s.br b).bstate = 1 ∧ ¬ (s.br b).eclOp then s.openBranch b else s

/-- BR_ECL_REQ_FALL (R473). -/
def execBrEclReqFall (b : Nat) (s : State) : Res := s.atBranch b fun s => s.brFall b

/-- The places of the branch router and its leaves. -/
def State.branchLocs (s : State) (b : Nat) : List Loc :=
  [.branchDown b, .synth (32 + b)] ++
  (s.build.branchLeaves b).flatMap (fun q => [.leafDown q, .branchUp q, .synth q]) ++
  (s.build.branchSlots b).flatMap fun n => [.leafUp n, .portDown n]

/-- The places of the root. -/
def State.rootLocs (s : State) : List Loc :=
  (List.range 8).map .rootUp ++ (List.range s.build.panels).map .rootPanel ++ [.rootEasel, .rootRestorer, .synth 40]

/-- The condition of the branch fence (R472). -/
def State.branchReady (s : State) (b : Nat) : Bool :=
  decide ((s.br b).bstate = 1) &&
  (s.build.branchSlots b).all (fun n =>
    (decide ((s.port n).lstate = .eclipsed) || decide ((s.port n).lstate = .down)) && (s.port n).psnp.isEmpty) &&
  (s.branchLocs b).all (fun l => (s.held l).isEmpty) &&
  (s.router (32 + b)).comb.isEmpty && (s.build.branchLeaves b).all (fun q => (s.router q).comb.isEmpty) &&
  s.rootLocs.all fun l => (s.held l).all fun k => !(s.destOf l k).contains (.rootToBranch b)

/-- BRANCH_FENCE_CLOSES (R472): BSTATE becomes eclipsed, and BR_ECL_ACK rises if BR_ECL_REQ is 1; a request that
was ignored stays so (R464). An ECLIPSE operation on the branch ends with 0x01. -/
def execBranchFenceCloses (b : Nat) (s : State) : Res :=
  s.atBranch b fun s =>
    if s.clk.shut || s.clk.frozenRoot || !s.branchReady b then s
    else (s.modBr b fun x => { x with bstate := 2, eclAck := x.eclReq && x.eclAcc, eclOp := false }).eclipseEnds (256 + b) 1

/-- BRANCH_LIVENESS_LOSS (R478): the toggle has not changed for `quiet` HCLK. -/
def execBranchLivenessLoss (b quiet : Nat) (s : State) : Res :=
  s.atBranch b fun s =>
    if s.clk.shut || decide (quiet < 1024) || decide (2 ≤ (s.br b).bstate) || s.clk.frozenRoot then s
    else
      let s := (s.modBr b fun x => { x with liveLoss := true }).fatalRow 2
      { s with clk := { s.clk with frozenRoot := true } }.ephPump.calFlush

/-- DAWN of a branch, its last steps (R476, R477): the branch domain starts afresh, the mirror is written back, the epoch
and the home-decode copies are renewed, and the branch returns to service. -/
def State.branchBack (s : State) (b : Nat) : State :=
  let e := (s.router 40).epoch
  let qs := s.build.branchLeaves b
  let s := ((32 + b) :: qs).foldl (fun (s : State) r =>
    s.modRouter r fun x => { x with epoch := e, flipAt := none, rr := [], comb := [] }) s
  let s := s.refreshLeaves qs
  let s := (s.build.branchSlots b).foldl (fun (s : State) n =>
    s.modPort n fun x => { x with hsPend := true, rlReq := !x.rlReq, dnCrd := noCredits, upHeld := noCredits, upFreed := noCredits }) s
  let pend := (s.br b).risePend && (s.br b).eclReq
  let s := s.modBr b fun x => { x with risePend := false, bstate := 0 }
  if pend then s.fenceBranch b else s

end Sys2Proof.Machine
end

