-- ==== Sys2Proof/Machine/MgmtOps.lean ====
section
/-! DEFINITION. The management operations of the Easel: their operand words, their order, what each does, and the meanings of
ADMIT to TINV, MANAGEMENT_OP_COMPLETE and ECLIPSE_TIMEOUT (R384 to R389, R392, R394). -/

namespace Sys2Proof.Machine

/-! ### Opcodes (R350) and operand words (R384) -/

abbrev opAdmit : Nat := 0x28
abbrev opExpel : Nat := 0x29
abbrev opRecall : Nat := 0x2A
abbrev opSweep : Nat := 0x2B
abbrev opRetire : Nat := 0x2C
abbrev opDawn : Nat := 0x2E
abbrev opRsync : Nat := 0x2F
abbrev opTswap : Nat := 0x30
abbrev opBist : Nat := 0x31
abbrev opScrubq : Nat := 0x32
abbrev opLedger : Nat := 0x33
abbrev opProfile : Nat := 0x34
abbrev opLock : Nat := 0x35
abbrev opTinv : Nat := 0x36

/-- How many operand words an operation reads, given those it has read (R384). -/
def opTotal (opc : Nat) (got : List (BitVec 64)) : Nat :=
  match opc with
  | 0x28 | 0x2A | 0x2D => 2
  | 0x2F | 0x31 => 0
  | 0x32 => 3
  | 0x33 =>
    (match got with
      | [] => 1
      | w :: _ => if w.toNat % 4 = 2 then 3 else if w.toNat % 4 = 3 then 2 else 1)
  | 0x36 => 5
  | _ => 1

/-- Operations that rings 8 to 15 may never use (R394). -/
def neverNs (opc : Nat) : Bool := decide (opc ∈ [0x2B, 0x2C, 0x2F, 0x30, 0x31, 0x32, 0x33, 0x34, 0x35])

/-- Operations that run one at a time (R385). -/
def serialOp (opc : Nat) : Bool := decide (opc ∈ [0x28, 0x2E, 0x2B, 0x2C, 0x2F, 0x30, 0x31, 0x33, 0x34, 0x35])

/-- Change the operation of a ring. -/
def State.modOp (s : State) (ring : Nat) (f : MOp → MOp) : State :=
  { s with ez := { s.ez with ops := s.ez.ops.map fun o => if o.ring = ring then f o else o } }

/-- The status of a ring's operation is known. -/
def State.opDone (s : State) (ring st : Nat) : State := s.modOp ring fun o => { o with status := some st }

/-- The operation of a ring. -/
def State.opOf (s : State) (ring : Nat) : Option MOp := s.ez.ops.find? fun o => decide (o.ring = ring)

/-! ### Ports (R291, R302, R384, R386) -/

/-- The capacity check of ADMIT (R386). -/
def State.capacityOk (s : State) (n : Nat) : Bool :=
  let used := (s.ports.filter fun e => e.1 ≠ n ∧ e.2.attached ∧ e.2.mode.kind = 1).map fun e => e.2.mode.tracked
  decide (used.sum + (s.port n).mode.tracked ≤ s.build.panels * s.build.sets * 16)

/-- The ADMIT record of a port (R284). -/
def Port.admitRecord (x : Port) : List (BitVec 32) :=
  let ws : List (BitVec 32) := [0x83000000#32, BitVec.ofNat 32 (x.agent + x.part * 2 ^ 8 + b2n x.nsOnly * 2 ^ 16),
    BitVec.ofNat 32 x.sitCyc, BitVec.ofNat 32 x.hbCyc, BitVec.ofNat 32 x.limit, 0#32, 0#32]
  ws ++ [crc32 ws]

/-- Send STATE and the ADMIT record of a port that has become ADMITTED (R291, R302). R302 orders them so for DAWN, and no rule orders them
for ADMIT: the model sends STATE first there too (DESIGN CHOICE, log entry 64). -/
def State.sendAdmit (s : State) (n : Nat) : State := (s.sendState n).out (.link n (linkWords (s.port n).admitRecord))

/-- ADMIT (R291, R384, R386, R518). -/
def State.admitStart (s : State) (o : MOp) : State :=
  let n := o.word 0 % 256
  let x := s.port n
  let a := bitsN (o.word 0) 8 8
  let limit := bitsN (o.word 0) 32 13
  let sit := bitsN (o.word 1) 0 32
  if s.host.prof = 0 then s.opDone o.ring 2
  else if x.lstate ≠ .ready then s.opDone o.ring 3
  else if ¬ s.capacityOk n then s.opDone o.ring 4
  else if (s.slotOfAgent a).isSome then s.opDone o.ring 5
  else if sit < x.maxSit then s.opDone o.ring 6
  else if limit < 8 ∨ 4096 < limit then s.opDone o.ring 7
  else
    let s := s.setPort n { x with
      lstate := .admitted, agent := a, part := bitsN (o.word 0) 16 6, nsOnly := bitN (o.word 0) 24, limit := limit,
      sitCyc := sit, hbCyc := bitsN (o.word 1) 32 32, cause := 0, held := false, hbStart := s.kclk, reqs := [], psnp := [],
      reclaimed := false, rstSince := false, stored := none }
    let s := (List.range s.build.panels).foldl (fun (s : State) p => s.modPanel p fun y => { y with
      dead := y.dead &&& ~~~(vbit a), errs := y.errs &&& ~~~(vbit a) }) s
    ((s.stage (0x200 + 8 * (n / 2)) (if n % 2 = 0 then 1 else 2 ^ 32)).sendAdmit n).opDone o.ring 1

/-- EXPEL of a port in ECLIPSED: DEAD with nothing to reclaim (R290, R474). -/
def State.expelEclipsed (s : State) (n : Nat) : State :=
  let x := s.port n
  let gone := decide (2 ≤ s.slotBr n)
  let s := s.setPort n { x with
    lstate := .dead, cause := 6, held := x.shold, reqs := [], psnp := [], stored := none, reclaimed := false,
    rstSince := x.rst || (gone && x.rstSince) }
  let s := ((s.event 0).irqS 19).stage 0x60 1
  (if gone then s else s.sendState n).reclaim n

/-- EXPEL begins (R290, R384). -/
def State.expelStart (s : State) (o : MOp) : State :=
  let n := o.word 0 % 256
  match (s.port n).lstate with
  | .admitted => s.portDead n 6
  | .eclipsed => s.expelEclipsed n
  | _ => s.opDone o.ring 2

/-- The conditions of R302 for DAWN of a port. -/
def State.dawnOk (s : State) (n : Nat) : Bool :=
  let x := s.port n
  decide (x.lstate = .eclipsed) && !x.eclReq && decide (s.slotBr n < 2) &&
  (!x.rstSince ||
    (match x.stored with
      | some m => decide (m.version = x.mode.version) && decide (m.kind = x.mode.kind) && decide (m.feats = x.mode.feats) &&
          decide (m.tracked ≤ x.mode.tracked)
      | none => false))

/-- DAWN (R302, R384, R476). -/
def State.dawnStart (s : State) (o : MOp) : State :=
  let n := o.word 0 % 256
  if bitN (o.word 0) 8 then
    (if s.build.hasBranch n ∧ (s.br n).bstate = 2 ∧ ¬ (s.br n).eclReq then s else s.opDone o.ring 2)
  else if s.dawnOk n then
    ((s.modPort n fun x => { x with
      lstate := .admitted, hbStart := s.kclk, reqs := [], psnp := [], rstSince := false, stored := none,
      mode := { x.mode with beat := (x.stored.getD x.mode).beat } }).sendAdmit n).opDone o.ring 1
  else s.opDone o.ring 2

/-! ### Downward TIv (R304, R387) -/

/-- Send the TIv that an operation owes, once the root's Easel input has a buffer. -/
def State.tivSend (s : State) (o : MOp) (agent world : Nat) (desc : BitVec 256) : State :=
  if o.tiv = 3 ∧ s.hasCredit .rootEasel cREQ then
    let h : Hdr := { cls := cREQ, opc := oTIv, src := nEasel, dst := agent, tag := o.mark % 4096, world := world,
                     part := (s.portOf agent).part }
    (s.modOp o.ring fun o => { o with tiv := 1 }).enter .rootEasel { hdr := h, desc := tivDesc desc world }
  else s

/-- The descriptor of a TINV (R250, R384). -/
def MOp.tinvDesc (o : MOp) : BitVec 256 :=
  BitVec.ofNat 256 (o.word 1 + o.word 2 * 2 ^ 64 + o.word 3 * 2 ^ 128 + o.word 4 * 2 ^ 192)

/-- World of the TIv of a TINV: 1 for rings 8 to 15 (R394). -/
def MOp.tinvWorld (o : MOp) : Nat := if 8 ≤ o.ring then 1 else b2n (o.tinvDesc.getLsbD 136)

/-- TINV begins (R304, R384). -/
def State.tinvStart (s : State) (o : MOp) : State :=
  let a := o.word 0 % 256
  let x := s.portOf a
  if x.lstate = .admitted ∧ bitN x.mode.feats 4 then
    (s.modOp o.ring fun o => { o with tiv := 3 }).tivSend { o with tiv := 3 } a o.tinvWorld o.tinvDesc
  else s.opDone o.ring 2

/-! ### Lines (R124, R384, R387) -/

/-- The written, occupied ways of a panel: set, way and entry. -/
def State.entries (s : State) (p : Nat) : List (Nat × Ent) :=
  (s.panel p).dir.filterMap fun e =>
    let d := Ent.ofPay (strongDec 56 e.2.toNat).data
    if d.st = 0 then none else some (e.1 / 16, d)

/-- The Easel has requests for a panel, which go to the root's management input as its buffers last (R40, R151, R220). -/
def State.askPanel (s : State) (p : Nat) (qs : List MReq) : State :=
  { s with ez := { s.ez with asks := s.ez.asks ++ qs.map fun q => (p, q) } }

/-- The operation of a request. -/
def MReq.op : MReq → Nat
  | .recall _ i _ | .inv _ _ i | .sweep _ i | .retire _ i | .scrub _ _ i => i

/-- A request of an operation has not reached its panel. -/
def State.opAsking (s : State) (id : Nat) : Bool :=
  s.ez.asks.any (fun q => decide (q.2.op = id)) || s.net.ezMgt.any fun q => decide (q.req.op = id)

/-- Requests of an operation wait or run at some panel. -/
def State.opWorking (s : State) (id : Nat) : Bool :=
  s.opAsking id || (List.range s.build.panels).any fun p =>
    (s.panel p).trigs.any (fun t => decide (t.2 = id)) || (s.panel p).htcs.any fun e => decide (e.2.opId = id)

/-- RECALL begins (R124, R384, R394). It skips lines of Secure regions, and 'skips any' of R394 is taken to hold when its range overlaps
any Secure region in force, whether or not a tracked line lies there (DESIGN CHOICE, log entry 19). -/
def State.recallStart (s : State) (o : MOp) : State :=
  let first := bitsN (o.word 0) 6 46
  let count := o.word 1
  if count = 0 ∨ 2 ^ 32 < count ∨ 2 ^ 46 < first + count then s.opDone o.ring 2
  else
    let ns := decide (8 ≤ o.ring)
    let hit := s.inForce.any fun r => decide (r.world = 0) && decide (r.base < (first + count) * 64) &&
      decide (first * 64 < r.base + 2 ^ r.size)
    let s := if ns ∧ hit then s.violate o.ring 4 else s
    (List.range s.build.panels).foldl (fun (s : State) p =>
      s.askPanel p ((s.entries p).filterMap fun e =>
        let l := s.unhash p e.1 e.2.tag
        match s.decode (l * 64) with
        | some r => if first ≤ l ∧ l < first + count ∧ r.kind = 0 ∧ ¬ (ns ∧ r.world = 0) then some (.recall l o.mark false) else none
        | none => none)) s

/-- The panel and the set that SWEEP and RETIRE name, when the build has them. -/
def State.opSet (s : State) (o : MOp) : Option (Nat × Nat) :=
  let p := o.word 0 % 16
  let set := bitsN (o.word 0) 16 15
  if p < s.build.panels ∧ set < s.build.sets then some (p, set) else none

/-- One look of RETIRE: with nothing of it under way and no sweep of its set, it asks the panel for its next step (R152, R153, R384). -/
def State.retireStep (s : State) (o : MOp) (p set : Nat) : State :=
  if s.panelFrozen p ∨ s.opWorking o.mark ∨ set ∈ (s.panel p).sweeping then s
  else s.askPanel p [.retire set o.mark]

/-- SWEEP begins (R384, R427). -/
def State.sweepOp (s : State) (o : MOp) : State :=
  match s.opSet o with
  | some (p, set) => s.askPanel p [.sweep set o.mark]
  | none => s.opDone o.ring 2

/-- RETIRE begins (R384). -/
def State.retireOp (s : State) (o : MOp) : State :=
  match s.opSet o with
  | none => s.opDone o.ring 2
  | some (p, set) =>
    if set ∈ (s.panel p).retired then s.opDone o.ring 3
    else if 32 ≤ (s.panel p).retired.length then s.opDone o.ring 4
    else s.retireStep o p set

/-! ### ECLIPSE (R387, R389, R472) -/

/-- ECLIPSE begins (R384, R387, R470). -/
def State.eclipseStart (s : State) (o : MOp) : State :=
  let n := o.word 0 % 256
  if bitN (o.word 0) 8 then
    if s.build.hasBranch n ∧ (s.build.branchSlots n).all fun m => (s.port m).lstate = .eclipsed ∨ (s.port m).lstate = .down then
      (match (s.br n).bstate with
        | 0 => (s.modBr n fun x => { x with eclOp := true }).fenceBranch n
        | 1 => s.modBr n fun x => { x with eclOp := true }
        | _ => s)
    else s.opDone o.ring 2
  else if (s.port n).lstate ≠ .admitted then s.opDone o.ring 2
  else
    let s := s.modPort n fun x => { x with fencing := true, eclOp := true }
    if bitN (s.port n).mode.feats 4 then
      (s.modOp o.ring fun o => { o with tiv := 3 }).tivSend { o with tiv := 3 } (s.port n).agent (ringWorld o.ring) 0
    else s

/-- The entry records agent `a`: as a holder, or as the holder in U-any or S-solo or the owner. -/
def Hold'.records (d : Hold') (a : Nat) : Bool :=
  d.vec.getLsbD a || ((isU d.ent.st || isO d.ent.st || decide (d.ent.st = 4)) && decide (d.ent.agent = a))

/-- The scan of one written way for agent `a`: the way and the Palette slot it names are read and checked, an untrusted way starts a sweep
of its set, and a set being swept is the sweep's (R49, R70, R71, R387, R425). -/
def PX.agentWay (a : Nat) (r : PX × List Nat) (i : Nat) : PX × List Nat :=
  let set := i / 16
  if set ∈ r.1.pn.sweeping then r
  else
    let (x, rd) := r.1.readWay noHtc set none (r.1, { ents := [], bad := false }) (i % 16)
    if rd.bad then (x.sweepTrigger set 0, r.2)
    else rd.ents.foldl (fun (r : PX × List Nat) e =>
      if e.2.st = 0 then r
      else
        let (x, d) := r.1.holders e.2
        (x, if d.records a then r.2 ++ [x.s.unhash x.p set e.2.tag] else r.2)) (x, r.2)

/-- The lines of a panel whose entries record agent `a`. -/
def PX.agentLines (x : PX) (a : Nat) : PX × List Nat := (x.pn.dir.map (·.1)).foldl (PX.agentWay a) (x, [])

/-- Step 3 of R387: every panel recalls or removes what records the agent; a line that was busy when the scan passed is
taken by the next look. -/
def State.eclipseScan (s : State) (o : MOp) (a : Nat) : State :=
  let s := s.modOp o.ring fun o => { o with work := [(1, 0)] }
  (List.range s.build.panels).foldl (fun (s : State) p =>
    if s.panelFrozen p then s
    else
      let r := (s.px p {}).agentLines a
      (s.commitPx p r.1).askPanel p (r.2.map fun l => .inv l a o.mark)) s

/-- One look of ECLIPSE (R387, R389, R472). -/
def State.eclipseStep (s : State) (o : MOp) : State :=
  let n := o.word 0 % 256
  if bitN (o.word 0) 8 then
    if (s.br n).bstate = 2 then s.opDone o.ring 1 else s
  else
    let x := s.port n
    match x.lstate with
    | .eclipsed => s.opDone o.ring 1
    | .admitted =>
      let s := s.tivSend o x.agent (ringWorld o.ring) 0
      if x.reqs.isEmpty ∧ s.reqsHeld n = 0 ∧ ¬ s.opWorking o.mark then s.eclipseScan o x.agent else s
    | _ => s.opDone o.ring 5

/-- TIMEOUT KCLK have passed (R389, R473): the operation of a port or branch that is still draining ends with 0x04, and its fence is
cancelled unless the request pin is 1. Its requests that no buffer of the root holds yet are dropped. -/
def State.eclipseOver (s : State) (ring : Nat) : State :=
  match s.opOf ring with
  | none => s
  | some o =>
    let n := o.word 0 % 256
    let t := o.word 1
    let branch := bitN (o.word 0) 8
    if o.opc ≠ opEclipse ∨ ¬ o.started ∨ o.status.isSome ∨ t = 0 ∨ s.kclk < o.startK + t then s
    else if branch ∧ (s.br n).bstate = 2 ∨ ¬ branch ∧ (s.port n).lstate = .eclipsed then s.opDone ring 1
    else if ¬ branch ∧ (s.port n).lstate ≠ .admitted then s.opDone ring 5
    else
      let s := s.opDone ring 4
      let s := { s with ez := { s.ez with asks := s.ez.asks.filter fun q => decide (q.2.op ≠ o.mark) } }
      if branch then
        let s := s.modBr n fun x => { x with eclOp := false }
        if (s.br n).bstate = 1 ∧ ¬ (s.br n).eclReq then s.openBranch n else s
      else s.modPort n fun x => { x with eclOp := false, fencing := x.fencing && x.eclReq }

/-! ### The whole block (R37, R212, R257, R384, R392) -/

/-- The HTC has decoded its line's address at D1: it is one of a line, past its queue and past D0 (R161, R257). One that a sweep has sent
back to D0 decodes again, and RSYNC does not wait for it (DEDUCED, log entry 60). -/
def Htc.decoded (h : Htc) : Bool :=
  h.job.ofLine && decide (h.phase ≠ .queued) && !(decide (h.phase = .decide) && (decide (h.hold = .sweep) || decide (h.hold = .go)))

/-- RSYNC begins: every lookaside is invalidated, the leaf copies are refreshed, and the HTCs whose decode preceded it are noted
(R257, R475). -/
def State.rsyncStart (s : State) (o : MOp) : State :=
  let old (p : Nat) : List (Nat × Nat) := (s.panel p).htcs.filterMap fun (e : Nat × Htc) =>
    if e.2.decoded then some (p, e.2.seq) else none
  let work := (List.range s.build.panels).flatMap old
  let s := (List.range s.build.panels).foldl (fun (s : State) p => s.modPanel p fun n => { n with look := [] }) s
  let s := s.refreshLeaves ((List.range s.build.leafN).filter fun q => !s.mirrored q)
  s.modOp o.ring fun o => { o with work := work }

/-- RSYNC completes once the noted HTCs have closed (R257). -/
def State.rsyncStep (s : State) (o : MOp) : State :=
  if o.work.any fun w => (s.panel w.1).htcs.any fun e => e.2.seq = w.2 then s else s.opDone o.ring 1

/-- TSWAP begins (R212, R384, R392). -/
def State.tswapStart (s : State) (o : MOp) : State :=
  let m := o.word 0 % 2 ^ 24
  if (s.locked 2 ∧ m % 2 ^ 16 ≠ 0) ∨ (s.locked 3 ∧ m / 2 ^ 16 ≠ 0) then (s.violate o.ring 5).opDone o.ring 0
  else if 2 ^ s.build.panels ≤ m % 2 ^ 16 ∨ 2 ^ s.build.memPorts ≤ m / 2 ^ 16 then s.opDone o.ring 2
  else s

/-- How many words an array has for SCRUBQ (R384). -/
def Build.scrubSize (b : Build) (array : Nat) : Nat :=
  match array with
  | 0 => b.sets * 16
  | 1 => 4 * b.palSets
  | 2 => 32 + b.p
  | 3 => 512
  | _ => 0

/-- The word number that an Ephemeris scrub and a panel scrub found bad raise EVENTS bit 1 and source 20 (R390, R543). -/
def State.scrubSignal (s : State) (ue : Bool) : State := if ue then (s.event 1).irqS 20 else s

/-- One word of SCRUBQ in an array that no panel holds: the region map or the Ephemeris SRAM (R384, R421). -/
def State.scrubWord (s : State) (array i : Nat) : State :=
  if array = 3 then
    let t := (s.ephTake i 0).1
    (t.scrubSignal (decide (bitsN (t.w6g 0xA1098).toNat 0 48 ≠ bitsN (s.w6g 0xA1098).toNat 0 48))).calFlush
  else
    let x := (s.px 0 {}).readRgn i
    ((s.commitPx 0 x).scrubSignal (decide ((found x.effs).2 ≠ 0))).calFlush

/-- One look of SCRUBQ: one word in a KCLK, in a panel's arrays as a management request of its own; `work` holds how many it has asked
for or served and the KCLK, plus one, of the last (R152, R153, R384, R421). -/
def State.scrubStep (s : State) (o : MOp) : State :=
  let array := o.word 0 % 8
  let at' := o.work.headD (0, 0)
  let next := [(at'.1 + 1, s.kclk + 1)]
  let i := o.word 1 + at'.1
  if o.word 2 ≤ at'.1 then (if s.opWorking o.mark then s else s.opDone o.ring 1)
  else if array ≠ 2 ∧ s.host.prof = 0 then s
  else if array < 2 then
    if s.opAsking o.mark then s
    else (s.askPanel (bitsN (o.word 0) 4 4) [.scrub array i o.mark]).modOp o.ring fun o => { o with work := next }
  else if at'.2 = s.kclk + 1 then s
  else
    let s := (s.scrubWord array i).modOp o.ring fun o => { o with work := next }
    if at'.1 + 1 = o.word 2 then s.opDone o.ring 1 else s

/-- SCRUBQ begins (R384). -/
def State.scrubStart (s : State) (o : MOp) : State :=
  let array := o.word 0 % 8
  if 3 < array ∨ (array < 2 ∧ s.build.panels ≤ bitsN (o.word 0) 4 4) ∨ s.build.scrubSize array < o.word 1 + o.word 2 then
    s.opDone o.ring 2
  else s.scrubStep o

/-- LEDGER FUNC 3: the entry is made once no checkpoint or restore runs; before the first FUNC 1 it is written at the end of its KCLK into
the SRAM as it stands, and the operation ends then (R384, R520, R523; DESIGN CHOICE, log entry 65). -/
def State.ledgerCal (s : State) (o : MOp) : State :=
  let made := (s.calendar false (o.word 1 % 2 ^ 32)).calFlush
  if s.ep.held then
    if s.ep.job ≠ .none then s
    else match o.work with
      | [] => made.modOp o.ring fun o => { o with work := [(1, s.kclk)] }
      | (_, k) :: _ => if k < s.kclk then s.calFlush.opDone o.ring 1 else s
  else if s.ephHeld then s
  else if o.work ≠ [] then s.calFlush.opDone o.ring 1
  else made.opDone o.ring 1

/-- LEDGER begins (R384, R520, R522, R526). -/
def State.ledgerStart (s : State) (o : MOp) : State :=
  match o.word 0 % 4 with
  | 0 =>
    if s.ep.slots.isNone then s.opDone o.ring 4
    else ((s.modOp o.ring fun o => { o with mark := 1 }).wantCheck 1).ephPump
  | 1 =>
    if s.host.prof ≠ 0 then s.opDone o.ring 3
    else if s.ep.slots.isNone then s.opDone o.ring 4
    else s.modOp o.ring fun o => { o with mark := 1 }
  | 2 =>
    let ok (a : Nat) : Bool := decide (a % 4096 = 0) && (s.mgmtDecode false a).isSome
    if ok (o.word 1) && ok (o.word 2) then
      ({ s with ep := { s.ep with slots := some (o.word 1, o.word 2) } }).opDone o.ring 1
    else s.opDone o.ring 3
  | _ => s.ledgerCal o

/-- LEDGER FUNC 1 reads the slots as soon as no checkpoint runs (R526). -/
def State.ledgerStep (s : State) (o : MOp) : State :=
  if o.word 0 % 4 = 3 then s.ledgerCal o
  else if o.word 0 % 4 = 1 ∧ o.mark = 1 ∧ s.ep.job = .none then (s.modOp o.ring fun o => { o with mark := 2 }).restoreStart
  else s.ephPump

/-- PROFILE (R37, R384). -/
def State.profileStart (s : State) (o : MOp) : State :=
  let prof := o.word 0 % 4
  let n := bitsN (o.word 0) 16 10
  if s.host.prof ≠ 0 then s.opDone o.ring 2
  else if prof ≠ 1 ∧ prof ≠ 2 then s.opDone o.ring 3
  else if prof = 1 ∧ 896 < n then s.opDone o.ring 4
  else
    let s := { s with
      host := { s.host with prof := BitVec.ofNat 2 prof },
      ep := { s.ep with profSince := some s.clk.cyc, lastPeriod := s.clk.cyc } }
    ((List.range s.build.panels).foldl (fun (s : State) p =>
      s.modPanel p fun x => { x with bhtc := if prof = 1 then n else 0 }) s).opDone o.ring 1

/-- LOCK (R384, R392). -/
def State.lockStart (s : State) (o : MOp) : State :=
  ({ s with host := { s.host with locks := s.host.locks ||| BitVec.ofNat 6 (o.word 0) } }).opDone o.ring 1

/-! ### Running (R385) -/

/-- An operation may begin: the ones it waits for have ended (R385). -/
def mayBegin (s : State) : List MOp → MOp → Bool
  | [], _ => true
  | e :: r, o =>
    if e.ring = o.ring then true
    else
      let blocks := e.status.isNone &&
        ((serialOp o.opc && serialOp e.opc) ||
          (decide (o.opc = opEclipse) && decide (e.opc = opEclipse) && decide (e.word 0 % 512 = o.word 0 % 512)))
      !blocks && mayBegin s r o

/-- A branch that is dawning lets no ECLIPSE begin. -/
def State.branchFree (s : State) (o : MOp) : Bool :=
  !(decide (o.opc = opEclipse) && bitN (o.word 0) 8 && decide ((s.br (o.word 0 % 256)).bstate = 3))

/-- What an operation does as it begins. -/
def State.opBegin (s : State) (o : MOp) : State :=
  let begun (o : MOp) : MOp := { o with started := true, startK := s.kclk, startC := s.clk.cyc }
  let s := s.modOp o.ring begun
  let o := begun o
  match o.opc with
  | 0x28 => s.admitStart o
  | 0x29 => s.expelStart o
  | 0x2A => s.recallStart o
  | 0x2B => s.sweepOp o
  | 0x2C => s.retireOp o
  | 0x2D => s.eclipseStart o
  | 0x2E => s.dawnStart o
  | 0x2F => s.rsyncStart o
  | 0x30 => s.tswapStart o
  | 0x31 => if s.host.prof = 0 then s else s.opDone o.ring 3
  | 0x32 => s.scrubStart o
  | 0x33 => s.ledgerStart o
  | 0x34 => s.profileStart o
  | 0x35 => s.lockStart o
  | _ => s.tinvStart o

/-- One look at an operation that has begun and has not ended. -/
def State.opLook (s : State) (o : MOp) : State :=
  let n := o.word 0 % 256
  match o.opc with
  | 0x29 => if (s.port n).lstate ≠ .dead ∨ (s.port n).reclaimed then s.opDone o.ring 1 else s
  | 0x2A => if s.opWorking o.mark then s else s.opDone o.ring 1
  | 0x2B =>
    (match s.opSet o with
      | some (p, set) => if s.panelFrozen p ∨ s.opWorking o.mark ∨ set ∈ (s.panel p).sweeping then s else s.opDone o.ring 1
      | none => s)
  | 0x2C => (match s.opSet o with | some (p, set) => s.retireStep o p set | none => s)
  | 0x2D => s.eclipseStep o
  | 0x2E =>
    (match o.work with
      | (_, c) :: _ => if c + 16 ≤ s.clk.cyc then (s.branchBack n).opDone o.ring 1 else s
      | [] => if o.startC + 1024 < s.clk.cyc then s.opDone o.ring 2 else s)
  | 0x2F => s.rsyncStep o
  | 0x32 => s.scrubStep o
  | 0x33 => s.ledgerStep o
  | 0x36 => if o.tiv = 2 then s.opDone o.ring 1 else s.tivSend o (o.word 0 % 256) o.tinvWorld o.tinvDesc
  | _ => s

/-- Begin the operation of a ring if it may begin, then look at it. -/
def State.opMove (s : State) (ring : Nat) : State :=
  match s.opOf ring with
  | none => s
  | some o =>
    let s := if ¬ o.started ∧ mayBegin s s.ez.ops o ∧ s.branchFree o then s.opBegin o else s
    match s.opOf ring with
    | none => s
    | some o => if o.started ∧ o.status.isNone then s.opLook o else s

/-- Every operation moves as far as it can, in the order in which they were issued. -/
def State.opsPump (s : State) : State := ((s.ez.ops.map (·.ring)).foldl (fun (s : State) r => s.opMove r) s).fillMgt

/-! ### Issue (R384, R394, R395) -/

/-- What an operation names that rings 8 to 15 may not touch (R394). -/
def State.opForbidden (s : State) (opc : Nat) (ws : List (BitVec 64)) : Bool :=
  let w0 := (ws.getD 0 0).toNat
  let x := s.port (w0 % 256)
  match opc with
  | 0x28 => !bitN w0 24 || x.shold
  | 0x29 => x.shold || !x.attached || !x.nsOnly
  | 0x2D | 0x2E => bitN w0 8 || x.shold || !x.attached || !x.nsOnly
  | 0x36 => !(s.portOf (w0 % 256)).attached || !(s.portOf (w0 % 256)).nsOnly
  | _ => false

/-- An operation that is not performed: status 0 (R384). -/
def State.opRefused (s : State) (r kind d : Nat) : State := ((s.violate r kind).setG r d 0).ezDone r 4

/-- The operation is issued and its ring blocks (R384, R385). Its privilege is checked here, also where it must wait for its turn
(DEDUCED, log entry 19). -/
def State.opIssue (s : State) (r opc d : Nat) (ws : List (BitVec 64)) : State :=
  if 8 ≤ r ∧ neverNs opc then s.opRefused r 3 d
  else if 8 ≤ r ∧ s.opForbidden opc ws then s.opRefused r 4 d
  else
    let o : MOp := { ring := r, opc := opc, d := d, words := ws, mark := s.ez.opSeq + 3 }
    let s := { s with ez := { s.ez with opSeq := s.ez.opSeq + 1, ops := s.ez.ops ++ [o] } }
    (s.modCtx r fun c => { c with wait := .op, ibuf := [] }).opsPump

/-- Read the operand words of an operation in turn, then issue it; `fuel` bounds the words still to read (R384). -/
def ezOperand : Nat → State → Nat → Nat → Nat → BitVec 64 → List (BitVec 64) → State
  | 0, s, r, opc, d, _, got => s.opIssue r opc d got
  | k + 1, s, r, opc, d, ea, got =>
    if opTotal opc got ≤ got.length then s.opIssue r opc d got
    else
      match s.access r (ea + BitVec.ofNat 64 (8 * got.length)) 8 .load with
      | .fault c => s.ezFault r c
      | .viol kind => ezOperand k (s.violate r kind) r opc d ea (got ++ [0])
      | .loc a =>
        (match s.locLoad a 8 with
          | (s, some v) => ezOperand k s r opc d ea (got ++ [v])
          | (s, none) => s.ezFault r 4)
      | .spc sp off =>
        if sampled sp then s.ezSample r sp off (.operand opc d ea got 0) else
        let t := s.spcLoad r sp off
        ezOperand k t.1 r opc d ea (got ++ [t.2])
      | .mem pa ns => s.ezIssue r (.operand opc d ea got (pa % 64)) 1 pa ns 3 0 0

/-- W0 of the operand block at `ea`, when it is at hand. -/
def State.peekW0 (s : State) (r : Nat) (ea : BitVec 64) : Option Nat :=
  match s.access r ea 8 .load with
  | .viol _ => some 0
  | .loc a => (s.locLoad a 8).2.map (·.toNat)
  | .spc sp off => if sampled sp then none else some (s.spcLoad r sp off).2.toNat
  | _ => none

/-- A management-operation instruction (R384, R394). The rows of one opcode that its operand tells apart are told apart by
`row`, where W0 is at hand before the operation begins. -/
def State.ezMgmt (s : State) (opc : Nat) (row : Nat → Bool) (f : Fld) : State :=
  let other := match s.ezNext with
    | some (r, i) =>
      let c := s.ctx r
      match s.peekW0 r (c.ea f.b.toNat (c.dispOf i.word) 8) with
      | some w => !row w
      | none => false
    | none => false
  if other then s
  else s.ezRun opc f fun s r c disp =>
    ezOperand 5 s r opc f.d.toNat (c.ea f.b.toNat disp 8) []

/-- ADMIT (R291, R384). -/
def execEzAdmit (f : Fld) (s : State) : Res := s.atEasel fun s => s.ezMgmt 0x28 (fun _ => true) f
/-- EXPEL (R290, R384). -/
def execEzExpel (f : Fld) (s : State) : Res := s.atEasel fun s => s.ezMgmt 0x29 (fun _ => true) f
/-- RECALL (R124, R384). -/
def execEzRecall (f : Fld) (s : State) : Res := s.atEasel fun s => s.ezMgmt 0x2A (fun _ => true) f
/-- SWEEP (R384, R427). -/
def execEzSweep (f : Fld) (s : State) : Res := s.atEasel fun s => s.ezMgmt 0x2B (fun _ => true) f
/-- RETIRE (R384). -/
def execEzRetire (f : Fld) (s : State) : Res := s.atEasel fun s => s.ezMgmt 0x2C (fun _ => true) f
/-- ECLIPSE of a port (R384, R387). -/
def execEzEclipse (f : Fld) (s : State) : Res := s.atEasel fun s => s.ezMgmt 0x2D (fun w => !bitN w 8) f
/-- ECLIPSE of a branch (R384, R472). -/
def execEzEclipseBranch (f : Fld) (s : State) : Res := s.atEasel fun s => s.ezMgmt 0x2D (fun w => bitN w 8) f
/-- DAWN of a port (R302, R384). -/
def execEzDawn (f : Fld) (s : State) : Res := s.atEasel fun s => s.ezMgmt 0x2E (fun w => !bitN w 8) f
/-- DAWN of a branch (R384, R476). -/
def execEzDawnBranch (f : Fld) (s : State) : Res := s.atEasel fun s => s.ezMgmt 0x2E (fun w => bitN w 8) f
/-- RSYNC (R257, R384). -/
def execEzRsync (f : Fld) (s : State) : Res := s.atEasel fun s => s.ezMgmt 0x2F (fun _ => true) f
/-- TSWAP (R212, R384). -/
def execEzTswap (f : Fld) (s : State) : Res := s.atEasel fun s => s.ezMgmt 0x30 (fun _ => true) f
/-- BIST (R384, R413). -/
def execEzBist (f : Fld) (s : State) : Res := s.atEasel fun s => s.ezMgmt 0x31 (fun _ => true) f
/-- SCRUBQ (R384). -/
def execEzScrubq (f : Fld) (s : State) : Res := s.atEasel fun s => s.ezMgmt 0x32 (fun _ => true) f
/-- LEDGER FUNC 0 (R384, R522). -/
def execEzLedgerFunc0 (f : Fld) (s : State) : Res := s.atEasel fun s => s.ezMgmt 0x33 (fun w => decide (w % 4 = 0)) f
/-- LEDGER FUNC 1 (R384, R526). -/
def execEzLedgerFunc1 (f : Fld) (s : State) : Res := s.atEasel fun s => s.ezMgmt 0x33 (fun w => decide (w % 4 = 1)) f
/-- LEDGER FUNC 2 (R384). -/
def execEzLedgerFunc2 (f : Fld) (s : State) : Res := s.atEasel fun s => s.ezMgmt 0x33 (fun w => decide (w % 4 = 2)) f
/-- LEDGER FUNC 3 (R384, R520). -/
def execEzLedgerFunc3 (f : Fld) (s : State) : Res := s.atEasel fun s => s.ezMgmt 0x33 (fun w => decide (w % 4 = 3)) f
/-- PROFILE (R37, R384). -/
def execEzProfile (f : Fld) (s : State) : Res := s.atEasel fun s => s.ezMgmt 0x34 (fun _ => true) f
/-- LOCK (R384, R392). -/
def execEzLock (f : Fld) (s : State) : Res := s.atEasel fun s => s.ezMgmt 0x35 (fun _ => true) f
/-- TINV (R304, R384). -/
def execEzTinv (f : Fld) (s : State) : Res := s.atEasel fun s => s.ezMgmt 0x36 (fun _ => true) f

/-! ### Completion (R384, R413, R476, R542) -/

/-- The checkers that BIST tests, class by class and unit by unit (R413, R542; the order is a DESIGN CHOICE, log entry 28). -/
def Build.checkers (b : Build) : List (Nat × Nat) :=
  let panels := List.range b.panels
  let routers := (List.range 41).filter b.hasRouter
  let of (c : Nat) (us : List Nat) : List (Nat × Nat) := us.map fun u => (c, u)
  of 1 panels ++ of 2 panels ++ [(3, 0), (4, 0), (5, 0)] ++ of 6 panels ++ of 7 routers ++ of 8 (List.range b.memPorts) ++
    of 9 (panels ++ routers.map (0x100 + ·)) ++ (if b.twin then of 10 (panels ++ [0x100]) else [])

/-- The checkers that gave a wrong answer (R413). -/
def State.bistFails (s : State) (rep : OpReport) : List (Nat × Nat) :=
  s.build.checkers.filter fun c => rep.bist.any fun a => decide ((a.cls, a.unit) = c) && BistAns.wrong a

/-- DRV_BIST_STAT for the checkers that failed (R536, R542). -/
def bistWord (fails : List (Nat × Nat)) : Nat :=
  let first := match fails with | (c, u) :: _ => c * 2 ^ 12 + u | [] => 0
  2 ^ 31 + b2n fails.isEmpty * 2 ^ 30 + b2n (fails.any fun c => decide (c.1 = 10)) * 2 ^ 29 + min 255 fails.length * 2 ^ 16 + first

/-- What the outside reports of a completing operation: the self-test's outcome, the branch's liveness, the check of a
partition-table word (R407, R413, R476, R542). -/
def State.opReport (s : State) (o : MOp) (rep : OpReport) : State :=
  match o.opc with
  | 0x31 =>
    if o.status.isSome then s
    else
      let bad := s.bistFails rep
      ({ s with host := { s.host with bist := BitVec.ofNat 32 (bistWord bad) } }).opDone o.ring (if bad = [] then 1 else 2)
  | 0x2E =>
    if o.status.isSome ∨ o.work ≠ [] ∨ ¬ bitN (o.word 0) 8 then s
    else if rep.live ∧ (s.br (o.word 0 % 256)).bstate = 2 ∧ ¬ (s.br (o.word 0 % 256)).eclReq ∧ s.clk.cyc ≤ o.startC + 1024 then
      (s.modBr (o.word 0 % 256) fun x => { x with bstate := 3 }).modOp o.ring fun o => { o with work := [(1, s.clk.cyc)] }
    else s.opDone o.ring 2
  | 0x28 =>
    if o.status = some 1 then
      let off := 0xA0000 + 8 * bitsN (o.word 0) 16 6
      let s := s.bucket 0xA10A0 rep.sit
      if rep.sit = .ue then s.w6s off 4096#64 else s
    else s
  | _ => s

/-- A blocked operation of a ring completes if it can: its status reaches G[D], and its ring goes on (R384). -/
def State.opComplete (s : State) (r : Nat) (rep : OpReport) : State :=
  match s.opOf r with
  | none => s
  | some o =>
    let s := (if o.started then s.opReport o rep else s).opsPump
    match (s.opOf r).bind fun (o : MOp) => o.status with
    | none => s
    | some v =>
      let s := { s with ez := { s.ez with ops := s.ez.ops.filter fun o => o.ring ≠ r } }
      (((s.setG r o.d (BitVec.ofNat 64 v)).ezDone r 4).opsPump).ezBegin

/-- MANAGEMENT_OP_COMPLETE (R384). -/
def execManagementOpComplete (ring : Nat) (rep : OpReport) (s : State) : Res := s.atRing ring fun s => s.opComplete ring rep

/-- ECLIPSE_TIMEOUT (R389). -/
def execEclipseTimeout (ring : Nat) (s : State) : Res := s.atRing ring fun s => s.eclipseOver ring

end Sys2Proof.Machine
end

