-- ==== Sys2Proof/Machine/ControlPort.lean ====
section
/-! DEFINITION. The control port: its two pages, accesses, and the meanings of DRV_BOOT_WRITE to CP_REGISTER_WRITE and of
CP_REGISTER_READ (R382, R392, R528 to R544). -/

namespace Sys2Proof.Machine

/-! ### Reads (R536, R537) -/

/-- The ring whose program is running. -/
def State.runRing (s : State) : Option Nat :=
  match (List.range 16).find? fun n => match (s.ctx n).wait with | .mem _ | .sample _ _ _ => (s.ctx n).running | _ => false with
  | some n => some n
  | none => s.ezPick.filter fun n => (s.ctx n).running

/-- RING_ERR of all rings, bit n of ring n (R381). -/
def State.ringErrs (s : State) : Nat := (List.range 16).foldl (fun v n => if (s.ring n).err then v + 2 ^ n else v) 0

/-- INIT and PROF of DRV_EASEL_STAT. -/
def State.initProf (s : State) : Nat := b2n s.clk.initBusy * 4 + s.host.prof.toNat

/-- DRV_EASEL_STAT of page 0. -/
def State.easelStat (s : State) : Nat :=
  s.ringErrs * 2 ^ 16 + (match s.runRing with | some n => n * 2 ^ 8 + 2 ^ 7 | none => 0) + s.initProf

/-- BOVF: the OR of the OVF bits of the buckets of R417. -/
def State.bovf (s : State) : Bool := s.w6.any fun e => decide (8 ≤ e.1) && isBkCtl (e.1 - 8) && e.2.getLsbD 63

/-- DRV_ERR_SUMMARY. -/
def State.errSummary (s : State) : Nat :=
  b2n s.clk.fatal * 2 ^ 31 + b2n s.host.warnSeen * 2 ^ 30 + b2n s.rs.dip * 2 ^ 29 + b2n s.bovf * 2 ^ 28 +
    s.clk.fatalRows.toNat * 2 ^ 20 + s.clk.frozenPanels.toNat

/-- A ring register at an offset within its block of 32 bytes. -/
def State.ringRead (s : State) (n o : Nat) : Nat :=
  let r := s.ring n
  match o with
  | 0 => r.base.toNat % 2 ^ 32
  | 4 => r.base.toNat / 2 ^ 32
  | 8 => r.size.toNat
  | 12 => r.tail.toNat
  | 16 => r.head.toNat
  | _ => 0

/-- The words that both pages show (R5, R29, R536, R537). -/
def State.cpCommon (s : State) (off : Nat) : Nat :=
  if off = 0 then 0xD7E00301
  else if 8 ≤ off ∧ off < 0x28 then (s.build.feat ((off - 8) / 8)).toNat / 2 ^ (32 * (off / 4 % 2)) % 2 ^ 32
  else if off = 0x54 then s.host.timeFreq.toNat
  else 0

/-- A word of page 0. -/
def State.cpRead0 (s : State) (off : Nat) : Nat :=
  match off with
  | 0x40 => s.host.bootPort.toNat * 16 + b2n s.host.bootEn
  | 0x44 => s.easelStat
  | 0x48 => s.errSummary
  | 0x4C => s.host.bist.toNat
  | 0x50 => s.host.locks.toNat
  | 0x58 => s.host.cpViol.toNat
  | 0x60 => s.host.irqStatS.toNat
  | 0x64 => s.host.irqMaskS.toNat
  | _ => if 0x100 ≤ off ∧ off < 0x200 then s.ringRead ((off - 0x100) / 32) (off % 32) else s.cpCommon off

/-- A word of page 1. -/
def State.cpRead1 (s : State) (off : Nat) : Nat :=
  match off with
  | 0x44 => s.ringErrs / 2 ^ 8 * 2 ^ 24 + s.initProf
  | 0x60 => s.host.irqStatNs.toNat
  | 0x64 => s.host.irqMaskNs.toNat
  | _ => if 0x100 ≤ off ∧ off < 0x200 then s.ringRead (8 + (off - 0x100) / 32) (off % 32) else s.cpCommon off

/-! ### Writes (R382, R392, R538, R539, R543) -/

/-- A violation counted at the control port (R529, R543). -/
def State.cpViolation (s : State) : State :=
  ({ s with host := { s.host with
    cpViol := if s.host.cpViol = BitVec.allOnes 32 then s.host.cpViol else s.host.cpViol + 1 } }).irqS 24

/-- The port that a write of BOOTPORT stores (R538). -/
def Build.bootPort (b : Build) (v : Nat) : Nat :=
  if v < b.memPorts ∧ ¬ b.devMask.getLsbD v then v
  else ((List.range b.memPorts).find? fun m => !b.devMask.getLsbD m).getD 0

/-- A write of DRV_BOOT (R538). -/
def State.bootWrite (s : State) (v : BitVec 32) : State :=
  if s.host.bootEn then s
  else { s with host := { s.host with
    bootPort := BitVec.ofNat 3 (s.build.bootPort (bitsN v.toNat 4 3)), bootEn := v.getLsbD 0 } }

/-- Ring `n` has no program running and is empty (R382). -/
def State.ringIdle (s : State) (n : Nat) : Bool :=
  !(s.ctx n).running && decide ((s.ctx n).wait = .idle) && decide ((s.ring n).tail = (s.ring n).head)

/-- A write of DRV_RINGn_TAIL (R378, R381, R539). -/
def State.tailWrite (s : State) (n : Nat) (v : BitVec 32) : State :=
  s.modRing n fun r => { r with tail := v.setWidth 16, err := false, tailK := some s.kclk }

/-- A write of a word of DRV_RINGn_BASE (0 or 4) or of DRV_RINGn_SIZE (8) (R382, R392, R539). -/
def State.ringWrite (s : State) (n o : Nat) (v : BitVec 32) : State :=
  if n < 8 ∧ s.locked 4 then s.cpViolation
  else if ¬ s.ringIdle n then s
  else
    let x := v.toNat
    s.modRing n fun r =>
      if o = 0 then { r with base := BitVec.ofNat 52 (r.base.toNat / 2 ^ 32 * 2 ^ 32 + x / 64 * 64) }
      else if o = 4 then { r with base := BitVec.ofNat 52 (r.base.toNat % 2 ^ 32 + x % 2 ^ 20 * 2 ^ 32) }
      else if x % 16 ≤ 12 then { r with size := v.setWidth 4 } else r

/-- A write to ring `n`'s block at an offset within its 32 bytes. -/
def State.ringBlock (s : State) (n o : Nat) (v : BitVec 32) : State :=
  if o = 12 then s.tailWrite n v
  else if o = 0 ∨ o = 4 ∨ o = 8 then s.ringWrite n o v
  else s

/-- A write of an interrupt status register, W1C (R543). -/
def State.irqClear (s : State) (page : Nat) (v : BitVec 32) : State :=
  if page = 0 then
    { s with host := { s.host with irqStatS := s.host.irqStatS &&& ~~~((s.clears (kIrqS 0) 25 v).setWidth 25) } }
  else { s with host := { s.host with irqStatNs := s.host.irqStatNs &&& ~~~((s.clears (kIrqNs 0) 23 v).setWidth 23) } }

/-- A write to page 0. -/
def State.cpWrite0 (s : State) (off : Nat) (v : BitVec 32) : State :=
  match off with
  | 0x40 => s.bootWrite v
  | 0x48 => { s with host := { s.host with warnSeen := s.host.warnSeen && (!v.getLsbD 30 || s.justSet kWarn) } }
  | 0x54 => { s with host := { s.host with timeFreq := v } }
  | 0x60 => s.irqClear 0 v
  | 0x64 => { s with host := { s.host with irqMaskS := v.setWidth 25 } }
  | _ => if 0x100 ≤ off ∧ off < 0x200 then s.ringBlock ((off - 0x100) / 32) (off % 32) v else s

/-- A write to page 1. -/
def State.cpWrite1 (s : State) (off : Nat) (v : BitVec 32) : State :=
  match off with
  | 0x60 => s.irqClear 1 v
  | 0x64 => { s with host := { s.host with irqMaskNs := v.setWidth 23 } }
  | _ => if 0x100 ≤ off ∧ off < 0x200 then s.ringBlock (8 + (off - 0x100) / 32) (off % 32) v else s

/-! ### Accesses (R528 to R535) -/

/-- CP_REQ_READY: the crossing is in service, and no access is under way between two commands, since each ends in the command that
brings it (R488, R532, R533). -/
def State.cpReady (s : State) : Bool := !s.clk.shut && s.clk.cpSvc

/-- A control response: its read data, their odd byte parity, and CP_RSP_ERR (R532). -/
def State.cpAnswer (s : State) (err : Bool) (data : BitVec 32) : State := s.out (.cp err data (BitVec.ofNat 4 (oddPar 4 data.toNat)))

/-- A control access: nothing in reset or while the crossing is out of service (R488, R535). -/
def State.cpAccess (s : State) (f : State → State) : Res := .next (if s.cpReady then f s else s)

/-- A control write; `par` is CP_REQ_PAR (R529, R532, R534). -/
def State.cpPut (s : State) (ns : Bool) (par : BitVec 5) (addr : Nat) (v : BitVec 32) : State :=
  let page := addr / 4096 % 2
  let off := addr % 4096 / 4 * 4
  if par ≠ cpReqPar true ns addr v then s.cpAnswer true 0
  else
    let s := if ns ∧ page = 0 then s.cpViolation else if page = 0 then s.cpWrite0 off v else s.cpWrite1 off v
    s.cpAnswer false 0

/-- A control read, whose CP_REQ_WDATA is zero (R529, R532, R534). -/
def State.cpGet (s : State) (ns : Bool) (par : BitVec 5) (addr : Nat) : State :=
  let page := addr / 4096 % 2
  let off := addr % 4096 / 4 * 4
  if par ≠ cpReqPar false ns addr 0 then s.cpAnswer true 0
  else if ns ∧ page = 0 then s.cpViolation.cpAnswer false 0
  else s.cpAnswer false (BitVec.ofNat 32 (if page = 0 then s.cpRead0 off else s.cpRead1 off))

/-- The byte offset of ring `n`'s register at offset `o` of its block, bit 12 the page. -/
def ringAddr (n o : Nat) : Nat := n / 8 * 4096 + 0x100 + 32 * (n % 8) + o

/-- DRV_BOOT_WRITE (R538). -/
def execDrvBootWrite (ns : Bool) (par : BitVec 5) (v : BitVec 32) (s : State) : Res := s.cpAccess fun s => s.cpPut ns par 0x40 v

/-- DRV_RING_TAIL_WRITE (R539). -/
def execDrvRingTailWrite (ns : Bool) (par : BitVec 5) (n : Nat) (v : BitVec 32) (s : State) : Res :=
  if n < 16 then s.cpAccess fun s => s.cpPut ns par (ringAddr n 12) v else .next s

/-- DRV_RING_BASE_SIZE_WRITE (R382): words 0 and 1 are DRV_RINGn_BASE, word 2 DRV_RINGn_SIZE. -/
def execDrvRingBaseSizeWrite (ns : Bool) (par : BitVec 5) (n word : Nat) (v : BitVec 32) (s : State) : Res :=
  if n < 16 ∧ word < 3 then s.cpAccess fun s => s.cpPut ns par (ringAddr n (4 * word)) v else .next s

/-- DRV_IRQ_STAT_WRITE (R543). -/
def execDrvIrqStatWrite (ns : Bool) (par : BitVec 5) (page : Nat) (v : BitVec 32) (s : State) : Res :=
  s.cpAccess fun s => s.cpPut ns par (page % 2 * 4096 + 0x60) v

/-- CP_REGISTER_WRITE (R535). -/
def execCpRegisterWrite (a : CpAcc) (s : State) : Res := s.cpAccess fun s => s.cpPut a.ns a.par a.addr a.wdata

/-- CP_REGISTER_READ (R529). -/
def execCpRegisterRead (a : CpAcc) (s : State) : Res := s.cpAccess fun s => s.cpGet a.ns a.par a.addr

end Sys2Proof.Machine
end

