-- ==== Sys2Proof/Machine/Hop.lean ====
section
/-! DEFINITION. What crosses an output of the tree: management requests at the root, then packets; the meanings of PACKET_HOP and
RLS_HOLD_RELEASED (R151 to R153, R178, R203, R220, R240). -/

namespace Sys2Proof.Machine

/-- The request of the Easel that is due at panel `p`: the oldest for it in the root's input, when the panel can take it (R152, R153). -/
def State.mgmtDue (s : State) (p : Nat) : Option MgtIn :=
  if (s.px p {}).mgmtFree then s.net.ezMgt.find? fun q => q.panel = p else none

/-- The request that is due crosses to its panel, the first choice of R151. -/
def State.crossMgmt (s : State) (q : MgtIn) : State :=
  ((({ s with net := { s.net with ezMgt := s.net.ezMgt.erase q } }).cross q.panel q.epoch {} fun x => x.presentMgmt q.req)).fillMgt

/-- One HCLK of an output. Of two management requests for one panel, the Restorer's goes first (DESIGN CHOICE, log entry 17). -/
def State.hop (s : State) (o : HopOut) (u : HopUps) : State :=
  let r := routerOut s.build o
  if s.routerFrozen r then s
  else
    let s := s.combFlaws u
    let cs := s.cands o
    match o with
    | .rootToPanel p =>
      if ¬ s.linkFree p then s
      else match s.restDue p, s.mgmtDue p with
      | some q, _ => s.restLeave q {}
      | none, some q => s.crossMgmt q
      | none, none =>
        match s.pickPanel p u.table cs with
        | (s, some (c, slot)) => s.hopOne o c (cs.filter fun x => x.l = c.l) slot u
        | (s, none) => s
    | _ =>
      match s.pickOut r o cs with
      | some c => s.hopOne o c cs false u
      | none => s

/-- The output exists in the build. -/
def State.hasOut (s : State) : HopOut → Bool
  | .leafToBranch q | .branchToLeaf q => decide (q < s.build.leafN)
  | .leafToPort n => decide (n < s.build.slots)
  | .branchToRoot b | .rootToBranch b => s.build.hasBranch b
  | .rootToPanel p | .panelToRoot p => decide (p < s.build.panels)
  | .rootToEasel | .rootToRestorer => true

/-- PACKET_HOP (R178). -/
def execPacketHop (o : HopOut) (u : HopUps) (s : State) : Res :=
  .next (if s.hasOut o then s.whenLive fun s => s.hop o u else s)

/-- The held request at the head of a port's REQ input is forwarded, in its turn at the leaf's upward output (R203, R240): another packet
whose turn it is goes by its own hop first. -/
def State.rlsRelease (s : State) (slot : Nat) : State :=
  let q := s.build.leafOf slot
  let cs := s.cands (.leafToBranch q)
  if s.routerFrozen q then s
  else match s.pickOut q (.leafToBranch q) cs with
    | some c => if c.l = .leafUp slot ∧ isRls c.k then s.hopOne (.leafToBranch q) c cs false {} else s
    | none => s

/-- RLS_HOLD_RELEASED (R240). -/
def execRlsHoldReleased (slot : Nat) (s : State) : Res :=
  .next (if slot < s.build.slots then s.whenLive fun s => s.rlsRelease slot else s)

end Sys2Proof.Machine
end

