-- ==== Sys2Proof/Machine/Observe.lean ====
section
/-! DEFINITION. Observation: the deadline monitor, byte windows, the trace port, time and debug enables: the meanings of
DEADLINE_MISS, BYTE_WINDOW_END, TRACE_SYNC, TRACE_WORD_SENT, TIME_VALUE_TAKEN and DEBUG_ENABLE_CHANGE (R463, R492, R504,
R505, R508 to R517). -/

namespace Sys2Proof.Machine

/-! ### The deadline monitor (R515 to R517) -/

/-- The group of an HTC (R515). -/
def Htc.group (h : Htc) : Nat :=
  match h.job with
  | .req =>
    let o := h.pkt.hdr.opc
    if o = oRdS then 0 else if o = oRdU ∨ o = oUpg then 1 else if o = oRdO then 2 else if o = oWrU then 3 else 4
  | .wbk => 5
  | .ebar | .tiv | .tsy => 6
  | _ => 7

/-- The Accept HCLK of an HTC (R507); a management HTC's is that of its allocation. -/
def Htc.accepted (h : Htc) : Nat := smGet h.acc h.stamps 0

/-- Words 0 and 1 of the log entry of a miss (R517). -/
def Htc.missLog (h : Htc) (k : Nat) : List Nat :=
  let w := h.who k
  let own := match h.ow with | some a => if h.owAck then 0 else 2 ^ 55 + a % 256 * 2 ^ 47 | none => 0
  [2 ^ 63 + phaseCode h.phase * 2 ^ 60 + h.group * 2 ^ 56 + own + (h.expect - h.sum) % 512 * 2 ^ 32 +
      bitsN w 33 9 * 2 ^ 16 + w % 4096, h.addr k]

/-- Log a miss at panel `p` (R517). -/
def State.logMiss (s : State) (p i : Nat) (h : Htc) : State :=
  let base := pnBase p + 0x880
  let ws := h.missLog (p * 1024 + i)
  match (List.range 16).find? fun j => !(s.w6g (base + 16 * j)).getLsbD 63 with
  | some j => (s.logNew (base + 16 * j) (BitVec.ofNat 64 (ws.getD 0 0))).w6s (base + 16 * j + 8) (BitVec.ofNat 64 (ws.getD 1 0))
  | none => s.ctr6 (pnBase p + 0x840) 1

/-- The trace record of a miss (R508, R509). -/
def Htc.missTrace (h : Htc) (p i cyc : Nat) : List (BitVec 64) :=
  let k := p * 1024 + i
  let w := h.who k
  let q := h.pkt.hdr
  [BitVec.ofNat 64 (2 * 2 ^ 60 + p * 2 ^ 56 + i * 2 ^ 46 + q.world % 2 * 2 ^ 45 + q.part % 64 * 2 ^ 39 + bitsN w 33 8 * 2 ^ 31 +
      bitsN w 27 6 * 2 ^ 25 + phaseCode h.phase * 2 ^ 22 + h.group * 2 ^ 18 + w % 4096),
    BitVec.ofNat 64 (h.addr k), BitVec.ofNat 64 cyc]

/-- HTC `i` of panel `p` misses (R502, R515, R516). -/
def State.miss (s : State) (p i : Nat) (h : Htc) : State :=
  let s := s.modPanel p fun n => { n with htcs := smSet n.htcs i { h with missed := true } }
  let mine := decide (h.pool ≠ 2)
  let s := (s.ctr4 (0x100 * p + 0x18) 1).pnEvent p 0x19 1 (if mine then wpOf h.pkt else none)
  if ¬ s.bounded then s
  else
    let s := ((s.logMiss p i h).event 3).irqS 17
    if !mine || s.dbgOn h.pkt.hdr.world then s.traceRec (1 + 2 * p) (h.missTrace p i s.clk.cyc) else s

/-- DEADLINE_MISS (R515). -/
def execDeadlineMiss (p h : Nat) (s : State) : Res :=
  s.atPanel p <|
    match smFind (s.panel p).htcs h with
    | none => s
    | some c =>
      let lim := bitsN (s.w6g (pnBase p + 0x800 + 8 * c.group)).toNat 0 20
      if c.missed ∨ lim = 0 ∨ s.clk.cyc < c.accepted + lim then s else s.miss p h c

/-! ### Byte windows (R504, R505) -/

/-- Something that comes at most once in an HCLK, under a key: whether it has come in this one, and noting it. -/
def State.isNew (s : State) (key : Nat) : Bool := decide (smGet 0 s.clk.once key ≠ s.clk.cyc + 1)

/-- Note that what has this key has come in this HCLK. -/
def State.noted (s : State) (key : Nat) : State := { s with clk := { s.clk with once := smSet s.clk.once key (s.clk.cyc + 1) } }

/-- Base of a byte-window block (R500). -/
def winBase : WinId → Nat
  | .port n => 0x1000 + 0x40 * n
  | .mem m => 0x5000 + 0x40 * m

/-- The length of a window (R505). -/
def State.winLen (s : State) (base : Nat) : Nat := 2 ^ max 10 (min 36 (bitsN (s.w4g base).toNat 0 6))

/-- The sums of a window take their words, the maxima follow, and a store to a maximum in this KCLK will be compared with them (R504,
R505). -/
def State.winWords (s : State) (base up dn : Nat) : State :=
  let put (s : State) (off v : Nat) : State :=
    let v := min v (2 ^ 48 - 1)
    let s := s.w4s (base + off) (BitVec.ofNat 64 v)
    if bitsN (s.w4g (base + off + 0x10)).toNat 0 48 < v then s.w4s (base + off + 0x10) (BitVec.ofNat 64 v) else s
  put (put { s with winLast := smSet s.winLast base (s.kclk + 1, min up (2 ^ 48 - 1), min dn (2 ^ 48 - 1)) } 8 up) 0x10 dn

/-- The window of an owner ends when CYC modulo its length is its length less one (R504). -/
def State.winEnd (s : State) (w : WinId) : State :=
  let base := winBase w
  let n := s.winLen base
  if s.clk.cyc % n ≠ n - 1 ∨ ¬ s.isNew base then s
  else
    let s := s.noted base
    match w with
    | .port k =>
      let x := s.port k
      (s.setPort k { x with winUp := 0, winDn := 0 }).winWords base x.winUp x.winDn
    | .mem m =>
      let x := s.mp m
      (s.modMp m fun x => { x with winUp := 0, winDn := 0 }).winWords base x.winUp x.winDn

/-- The build has the owner of a window. -/
def State.hasWin (s : State) : WinId → Bool
  | .port n => decide (n < s.build.slots)
  | .mem m => decide (m < s.build.memPorts)

/-- BYTE_WINDOW_END (R505). -/
def execByteWindowEnd (w : WinId) (s : State) : Res :=
  .next (if s.hasWin w then s.whenLive fun s => s.winEnd w else s)

/-! ### Trace (R511 to R514) -/

/-- HCLK between sync records: none when SYNC is 0 (R500). -/
def State.syncLen (s : State) : Option Nat :=
  let k := bitsN (s.w4g 0x6000).toNat 0 6
  if k = 0 then none else some (2 ^ max 12 (min 40 k))

/-- A sync record (R511). -/
def State.syncStep (s : State) : State :=
  match s.syncLen with
  | none => s
  | some n =>
    if s.clk.cyc % n ≠ 0 ∨ ¬ s.isNew 0x6000 then s
    else (s.noted 0x6000).traceRec 0 [BitVec.ofNat 64 (3 * 2 ^ 60 + s.clk.cyc % 2 ^ 56), s.clk.time]

/-- TRACE_SYNC (R511). -/
def execTraceSync (s : State) : Res := .next (s.whenLive State.syncStep)

/-- A trace word leaves, with its odd byte parity TP_PAR (R500, R512, R514). -/
def State.traceSend (s : State) : State :=
  match s.tr.words with
  | [] => s
  | (sof, last, w) :: rest =>
    if ¬ s.clk.tpSvc then s
    else
      let s := ({ s with tr := { s.tr with words := rest } }).out (.trace sof w (BitVec.ofNat 8 (oddPar 8 w.toNat)))
      if last then s.ctr4 0x6010 1 else s

/-- TRACE_WORD_SENT (R514). -/
def execTraceWordSent (s : State) : Res := .next (s.whenLive State.traceSend)

/-- TP_RST_N is asserted: the buffer is discarded, and each record in it counts as dropped (R488, R514). -/
def State.tpReset (s : State) : State :=
  let n := (s.tr.words.filter fun e => e.2.1).length
  let s := { s with
    clk := { s.clk with tpRst := true, tpSvc := false }, tr := { s.tr with words := [], owed := s.tr.owed + n } }
  if n = 0 then s else s.ctr4 0x6008 n

/-- TP_RST_N_ASSERT (R488, R514). -/
def execTpRstAssert (s : State) : Res := .next s.tpReset

/-! ### Time and debug enables (R463, R492) -/

/-- TIME_VALUE_TAKEN (R492): no value is taken while the time crossing is out of service (R488). -/
def execTimeValueTaken (t : BitVec 64) (s : State) : Res :=
  .next (s.whenLive fun s => if s.clk.tsSvc then { s with clk := { s.clk with time := t } } else s)

/-- DEBUG_ENABLE_CHANGE (R463). -/
def execDebugEnableChange (sec ns : Bool) (s : State) : Res :=
  .next (s.whenLive fun s => { s with clk := { s.clk with dbgS := sec, dbgNs := ns } })

end Sys2Proof.Machine
end

