-- ==== Sys2Proof/Machine/Resets.lean ====
section
/-! DEFINITION. Block reset, the initialisation, the resets of one side and the test wrapper: the meanings of
BLOCK_RST_N_ASSERT, BLOCK_RST_N_RELEASE, INITIALISATION_COMPLETE, CP_RST_N_ASSERT, TS_RST_N_ASSERT,
CROSSING_RESET_RELEASE, WIR_UPDATE and TW_WRSTN_ASSERT (R479 to R488, R553 to R555). -/

namespace Sys2Proof.Machine

/-! ### Block reset (R479 to R483) -/

/-- What a port keeps through a block reset: the levels of its reset and of its eclipse request, whose rise is captured
later (R483). The toggles of its crossing are 0 (R282). -/
def Port.afterReset (x : Port) : Port := { rst := x.rst, rlReq := false, risePend := if x.eclReq || x.risePend.isSome then some false else none }

/-- What a branch keeps through a block reset (R483). -/
def Br.afterReset (x : Br) : Br := { risePend := x.eclReq || x.risePend }

/-- What a memory port keeps through a block reset. -/
def MemPort.afterReset (x : MemPort) : MemPort := { rst := x.rst, psnCap := x.psnCap }

/-- The pins, and what of the clocks and the test wrapper a block reset leaves; every crossing is out of service until its handshake
(R479, R488, R553). -/
def Clk.afterReset (x : Clk) : Clk :=
  { inReset := true, warnPin := x.warnPin, cpRst := x.cpRst, tpRst := x.tpRst, tsRst := x.tsRst, wir := x.wir, twRst := x.twRst,
    bypass := x.bypass, cells := x.cells, cellsOpen := x.cellsOpen, wso := x.wso, wpo := x.wpo, loads := x.loads }

/-- The block in reset (R479, R481): everything at its reset value but the pins; the contents of the arrays become new
free values. -/
def State.blockReset (s : State) : State :=
  { pending := s.pending, build := s.build, nonce := s.nonce + 1, outs := s.outs, clk := s.clk.afterReset,
    ports := s.ports.map (fun e => (e.1, e.2.afterReset)), mps := s.mps.map (fun e => (e.1, e.2.afterReset)),
    net := { brs := s.net.brs.map fun e => (e.1, e.2.afterReset) } }

/-- BLOCK_RST_N_ASSERT (R479, R481). -/
def execBlockRstAssert (s : State) : Res := .next s.blockReset

/-- HCLK leaves reset (R282, R453, R479, R483, R487): WDOG_CAUSE and MP_PSN_CAP are sampled, a supply warning that stands is
captured, and the block's side of each port crossing inverts its RESYNC_REQ. -/
def State.blockRelease (s : State) (wdog : Bool) (psnCap : BitVec 8) : State :=
  if ¬ s.clk.inReset then s
  else
    let warn := s.clk.warnPin
    let s := { s with clk := { s.clk with inReset := false, initBusy := true, cyc := 0, wdog := wdog } }
    let s := (List.range s.build.memPorts).foldl (fun (s : State) m =>
      s.modMp m fun x => { x with psnCap := psnCap.getLsbD m }) s
    let s := { s with ports := s.ports.map fun e => (e.1, { e.2 with rlReq := !e.2.rlReq }) }
    if warn then s.warnRise else s

/-- BLOCK_RST_N_RELEASE (R479). -/
def execBlockRstRelease (wdog : Bool) (psnCap : BitVec 8) (s : State) : Res := .next (s.blockRelease wdog psnCap)

/-- A rise of a port's eclipse request that waited for the initialisation (R483). -/
def State.latePort (s : State) (n : Nat) : State :=
  match (s.port n).risePend with
  | some ns => (s.modPort n fun x => { x with risePend := none }).eclRise n ns
  | none => s

/-- A rise of a branch's eclipse request that waited for the initialisation (R483). -/
def State.lateBranch (s : State) (b : Nat) : State :=
  if (s.br b).risePend then (s.modBr b fun x => { x with risePend := false }).brRise b false else s

/-- The end of the initialisation, 4,096 HCLK after reset (R480, R483, R539). -/
def State.initEnd (s : State) : State :=
  if ¬ s.clk.initBusy ∨ s.clk.cyc < 4096 then s
  else
    let s := { s with clk := { s.clk with initBusy := false } }
    let s := (s.ports.map (·.1)).foldl State.latePort s
    let s := ((List.range 8).filter s.build.hasBranch).foldl State.lateBranch s
    let s := (s.ports.map (·.1)).foldl State.attach s
    s.ezBegin

/-- INITIALISATION_COMPLETE (R480). -/
def execInitialisationComplete (s : State) : Res := .next (s.whenLive State.initEnd)

/-! ### Resets of one side (R488) -/

/-- CP_RST_N_ASSERT (R488). -/
def execCpRstAssert (s : State) : Res := .next { s with clk := { s.clk with cpRst := true, cpSvc := false } }

/-- TS_RST_N_ASSERT (R488): the block keeps the last time value. -/
def execTsRstAssert (s : State) : Res := .next { s with clk := { s.clk with tsRst := true, tsSvc := false } }

/-- CROSSING_RESET_RELEASE (R282, R317, R488): the crossing's handshake follows. -/
def execCrossingResetRelease (x : Crossing) (s : State) : Res :=
  match x with
  | .agent n => .next (if n < s.build.slots then s.apRelease n else s)
  | .mem m => .next (if m < s.build.memPorts then s.modMp m fun y => { y with rst := false } else s)
  | .cp => .next { s with clk := { s.clk with cpRst := false } }
  | .tp => .next { s with clk := { s.clk with tpRst := false } }
  | .ts => .next { s with clk := { s.clk with tsRst := false } }

/-! ### The test wrapper (R553 to R555) -/

/-- The instruction that a WIR value acts as: every value that R555 does not list acts as WS_BYPASS. -/
def wirActs (w : BitVec 4) : BitVec 4 := if w.toNat ≤ 4 then w else 0

/-- WS_MBIST overwrites every SRAM array (R489, R555): the arrays hold new free values. -/
def State.mbist (s : State) : State :=
  { s with
    nonce := s.nonce + 1,
    rgn := (List.range (32 + s.build.p)).foldl
      (fun m i => smPut (rgnReset s.build.p i) m i (Config.freeRgn (s.nonce + 1) i)) s.rgn,
    panels := s.panels.map (fun e => (e.1, { e.2 with dir := [], pal := [] })),
    ez := { s.ez with loc := [] },
    ep := { s.ep with sram := [] } }

/-- The wrapper under WIR value `w` (R553, R555): with WS_BYPASS or WS_CLAMP the bypass register stands between TW_WSI and TW_WSO; the
boundary cells are transparent unless they drive, hold or scan, and WS_EXTEST and WS_INTEST_SCAN give them new contents; what the spec
gives no value for is free. -/
def Clk.wrap (x : Clk) (w : BitVec 4) : Clk :=
  let i := wirActs w
  let out := Config.freeWrap x.loads i
  { x with
    wir := w, twRst := false, loads := x.loads + 1, cellsOpen := decide (i = 0 ∨ i = 4),
    cells := if i = 1 ∨ i = 3 then Config.freeCells x.loads else x.cells,
    wso := if i = 0 ∨ i = 2 then x.bypass else out.getLsbD 0,
    wpo := if i = 3 then out.extractLsb' 1 32 else 0 }

/-- WIR_UPDATE (R555): an update shows that TW_WRSTN is released (log entry 42). -/
def execWirUpdate (w : BitVec 4) (s : State) : Res :=
  let s := if wirActs w = 4 then s.mbist else s
  .next { s with clk := s.clk.wrap w }

/-- TW_WRSTN_ASSERT (R553): the WIR holds WS_BYPASS, every cell is transparent, and TW_WSO and TW_WPO are 0. -/
def execTwWrstnAssert (s : State) : Res :=
  .next { s with clk := { s.clk with wir := 0, twRst := true, bypass := false, cellsOpen := true, wso := false, wpo := 0 } }

end Sys2Proof.Machine
end

