-- ==== Sys2Proof/Machine/MemIn.lean ====
section
/-! DEFINITION. Memory-port grants and inbound messages: the meanings of MEMPORT_GRANT, MDATA, MWRCMP,
EASEL_MEMORY_RESPONSE and EPHEMERIS_WRITER_MDATA (R316 to R338, R361, R381, R526, R559). -/

namespace Sys2Proof.Machine

/-! ### Answers to the Easel (R355, R361, R380, R381, R384) -/

/-- The fault of a failed memory access: POISON before MERR (R355). -/
def memFault (poison : Bool) (err : Nat) : Option Nat :=
  if poison then some 5 else if err = 1 then some 8 else none

/-- `n` bytes at byte `off` of a line (R322). -/
def lineBytes (l : BitVec 512) (off n : Nat) : BitVec 64 := BitVec.ofNat 64 (bitsN l.toNat (8 * off) (8 * n))

/-- What an access of ring `r` comes to when its answer arrives. -/
def State.easelUse (s : State) (r : Nat) (u : MemUse) (b : Buf) : State :=
  let bad := memFault b.poison b.err
  match u with
  | .desc =>
    let s := s.modCtx r fun c => { c with wait := .idle }
    if bad.isSome then s.ringError r else s.descLoad r b.data
  | .fetch key =>
    (match bad with
      | some c => s.ezFault r c
      | none => s.modCtx r fun c => { c with wait := .idle, ibuf := c.ibuf ++ [(key, b.data)] })
  | .load d size off =>
    (match bad with
      | some c => s.ezFault r c
      | none => s.ezLoaded r d (lineBytes b.data off size))
  | .store =>
    (match bad with
      | some c => s.ezFault r c
      | none => s.ezDone r 4)
  | .operand opc d ea got off =>
    (match bad with
      | some c => s.ezFault r c
      | none => ezOperand 5 s r opc d ea (got ++ [lineBytes b.data off 8]))
  | .status irq => s.ezFinish r irq bad.isSome

/-- The answer to an access of ring `r` arrives (R361). -/
def State.easelMem (s : State) (r : Nat) (b : Buf) : State :=
  match (s.ctx r).wait with
  | .mem u => (s.easelUse r u b).ezBegin
  | _ => s

/-! ### Delivery (R128, R243 to R245, R320) -/

/-- A completion of a write reaches its requester; a frozen panel takes nothing (R438). -/
def State.writeDone (s : State) (own : MOwner) (err : Nat) : State :=
  match own with
  | .wr p wid => if s.panelFrozen p then s else s.panelStep p {} fun x => x.wrDone wid err
  | .easel r => s.easelMem r { data := 0, err := err }
  | .eph k => s.ephWrDone k err
  | .htc _ _ => s

/-- Data of a read reaches its requester. -/
def State.readDone (s : State) (own : MOwner) (b : Buf) (u : Upset) : State :=
  match own with
  | .htc p q => if s.panelFrozen p then s else s.panelStep p u fun x => x.mData q b
  | .easel r => s.easelMem r b
  | .eph k => s.ephMData k b
  | .wr _ _ => s

/-- The ERR of a completion as its requester sees it: the write of the Easel or the Ephemeris writer that the port
replaced with MPoison has failed (R559). -/
def MemReq.compErr (q : MemReq) (err : Nat) : Nat :=
  match q.own with
  | .easel _ | .eph _ => if q.mopc = 3 then 1 else err
  | _ => err

/-- The port takes an inbound packet from its dual-clock queue: its bytes count, and its credit goes back, whatever its header shows (R316,
R504). -/
def State.takeIn (s : State) (m : Nat) (data : Bool) : State :=
  (s.modMp m fun x => { x with winDn := x.winDn + if data then 80 else 16 }).out (.memCredit m)

/-- An inbound message at a memory port in service (R316, R320, R322, R327, R328, R504): `row` says which deliveries the
command stands for. A header that shows two events of R327 has the CAUSE of the first that is tested here, 0x1, 0x5, then 0x2 (DESIGN
CHOICE, log entry 11). -/
def State.memInbound (s : State) (m : Nat) (r : MemResp) (u : Upset) (row : Nat → MOwner → Bool) : State :=
  let x := s.mp m
  let data := decide (r.mopc = 4)
  let t := s.takeIn m data
  if ¬ x.svc then s
  else if r.hdrPerr ∨ r.gap then t.mpFault m 1
  else if r.mopc ≠ 4 ∧ r.mopc ≠ 5 then t.mpFault m 5
  else match smFind x.tags r.mtag with
    | none => t.mpFault m 2
    | some q =>
      if decide (r.mopc = 4) ≠ decide (q.mopc = 1) then t.mpFault m 2
      else if ¬ row r.mopc q.own then s
      else
        let s := t.modMp m fun x => { x with tags := smErase x.tags r.mtag }
        let s := s.mpChecks m r.hd (if data then r.dat else .ok)
        let s := if data ∧ r.dataPerr then s.ctr6 (mpBase m + 0x30) 1 else s
        if r.hd = .ue then s else
        if data then s.readDone q.own { data := r.data, poison := r.poison || r.dataPerr || decide (r.dat = .ue), err := r.err } u
        else s.writeDone q.own (q.compErr r.err)

/-- MDATA (R128): MData for a panel. -/
def execMdata (m : Nat) (r : MemResp) (u : Upset) (s : State) : Res :=
  s.atMp m (s.memInbound m r u fun o own => decide (o = 4) && match own with | .htc _ _ => true | _ => false)

/-- MWRCMP (R245): MWrCmp completes covered writes, Device WrAcc, Easel stores or checkpoint lines. -/
def execMwrcmp (m : Nat) (r : MemResp) (s : State) : Res := s.atMp m (s.memInbound m r {} fun o _ => decide (o = 5))

/-- EASEL_MEMORY_RESPONSE (R361). -/
def execEaselMemoryResponse (m : Nat) (r : MemResp) (s : State) : Res :=
  s.atMp m (s.memInbound m r {} fun _ own => match own with | .easel _ => true | _ => false)

/-- EPHEMERIS_WRITER_MDATA (R526). -/
def execEphemerisWriterMdata (m : Nat) (r : MemResp) (s : State) : Res :=
  s.atMp m (s.memInbound m r {} fun o own => decide (o = 4) && match own with | .eph _ => true | _ => false)

/-! ### The grant (R337, R338, R407, R559) -/

/-- Send the granted message, or what stands in its place when its data is uncorrectable (R407, R559). -/
def State.grantOne (s : State) (m tag who : Nat) (r : MemReq) (hd dat : Ecc) : State :=
  let s := s.mpChecks m hd (if r.mopc = 2 then dat else .ok)
  if hd = .ue then s
  else if r.mopc = 2 ∧ dat = .ue then
    match s.badWrite m tag who r with
    | (s, some err) => s.writeDone r.own err
    | (s, none) => s
  else s.sendMem m tag who r

/-- One grant of memory port `m` (R316, R320, R337, R338). -/
def State.grant (s : State) (m : Nat) (slot hd dat : Ecc) : State :=
  let x := s.mp m
  if ¬ x.svc ∨ s.clk.cyc < x.busyUntil ∨ x.credits = 0 then s
  else
    match smFree x.tags 0 64 with
    | none => s
    | some tag =>
      match s.choose m slot with
      | (s, none) => s
      | (s, some (who, r)) =>
        let s := (s.takeMem m who).grantOne m tag who r hd dat
        if who = 18 then s.ephPump else s

/-- MEMPORT_GRANT (R338). -/
def execMemportGrant (m : Nat) (slot : Ecc) (chk : FlitChk) (s : State) : Res := s.atMp m (s.grant m slot chk.hd chk.dat)

end Sys2Proof.Machine
end

