-- ==== Sys2Proof/Machine/Dispatch.lean ====
section
/-! DEFINITION. One arm per command, each a direct call of its meaning. -/

namespace Sys2Proof.Machine

def exec (i : Instr) (s : State) : Host.Outcome State Fault Refusal :=
  match i with
  | .blockRstAssert => Sys2Proof.Machine.execBlockRstAssert s
  | .blockRstRelease wdog psnCap => Sys2Proof.Machine.execBlockRstRelease wdog psnCap s
  | .initialisationComplete => Sys2Proof.Machine.execInitialisationComplete s
  | .apRstAssert slot => Sys2Proof.Machine.execApRstAssert slot s
  | .apRstRelease slot => Sys2Proof.Machine.execApRstRelease slot s
  | .handshakeComplete x => Sys2Proof.Machine.execHandshakeComplete x s
  | .intro slot head body crc => Sys2Proof.Machine.execIntro slot head body crc s
  | .heartbeat slot w => Sys2Proof.Machine.execHeartbeat slot w s
  | .heartbeatLapse slot => Sys2Proof.Machine.execHeartbeatLapse slot s
  | .snoopDeadlineExpiry slot => Sys2Proof.Machine.execSnoopDeadlineExpiry slot s
  | .apEclReqRise slot ns => Sys2Proof.Machine.execApEclReqRise slot ns s
  | .apEclReqFall slot => Sys2Proof.Machine.execApEclReqFall slot s
  | .portFenceCloses slot => Sys2Proof.Machine.execPortFenceCloses slot s
  | .reclamationComplete slot => Sys2Proof.Machine.execReclamationComplete slot s
  | .upwardPacketCheck slot f => Sys2Proof.Machine.execUpwardPacketCheck slot f s
  | .rlsHoldReleased slot => Sys2Proof.Machine.execRlsHoldReleased slot s
  | .downwardCredit slot c => Sys2Proof.Machine.execDownwardCredit slot c s
  | .upwardCreditReturn slot cls => Sys2Proof.Machine.execUpwardCreditReturn slot cls s
  | .packetHop o u => Sys2Proof.Machine.execPacketHop o u s
  | .creditReturned l key => Sys2Proof.Machine.execCreditReturned l key s
  | .combineAck l mgt ecc => Sys2Proof.Machine.execCombineAck l mgt ecc s
  | .combineFlush r htc => Sys2Proof.Machine.execCombineFlush r htc s
  | .epochCaptured r => Sys2Proof.Machine.execEpochCaptured r s
  | .rds p u => Sys2Proof.Machine.execRds p u s
  | .rdu p u => Sys2Proof.Machine.execRdu p u s
  | .upg p u => Sys2Proof.Machine.execUpg p u s
  | .rdo p u => Sys2Proof.Machine.execRdo p u s
  | .wru p u => Sys2Proof.Machine.execWru p u s
  | .atp p u => Sys2Proof.Machine.execAtp p u s
  | .ebar b p u => Sys2Proof.Machine.execEbar b p u s
  | .ebarPanelCompletion p => Sys2Proof.Machine.execEbarPanelCompletion p s
  | .tiv p => Sys2Proof.Machine.execTiv p s
  | .tsy p => Sys2Proof.Machine.execTsy p s
  | .evc p u => Sys2Proof.Machine.execEvc p u s
  | .wbd p u => Sys2Proof.Machine.execWbd p u s
  | .wbo p u => Sys2Proof.Machine.execWbo p u s
  | .wbkLineRelease p h u => Sys2Proof.Machine.execWbkLineRelease p h u s
  | .dirtyhint p u => Sys2Proof.Machine.execDirtyhint p u s
  | .snpack p mgt u => Sys2Proof.Machine.execSnpack p mgt u s
  | .datafwdToHome p u => Sys2Proof.Machine.execDatafwdToHome p u s
  | .sweepdata p u => Sys2Proof.Machine.execSweepdata p u s
  | .compack p u => Sys2Proof.Machine.execCompack p u s
  | .htcFreed p h u => Sys2Proof.Machine.execHtcFreed p h u s
  | .htcStartQueued p h u => Sys2Proof.Machine.execHtcStartQueued p h u s
  | .htcReplay p h uncorrectable u => Sys2Proof.Machine.execHtcReplay p h uncorrectable u s
  | .mdata m r u => Sys2Proof.Machine.execMdata m r u s
  | .mwrcmp m r => Sys2Proof.Machine.execMwrcmp m r s
  | .memportGrant m slot chk => Sys2Proof.Machine.execMemportGrant m slot chk s
  | .mpReqCrd m => Sys2Proof.Machine.execMpReqCrd m s
  | .mpRstAssert m => Sys2Proof.Machine.execMpRstAssert m s
  | .mpRstRelease m => Sys2Proof.Machine.execMpRstRelease m s
  | .deathMarker p u => Sys2Proof.Machine.execDeathMarker p u s
  | .deadScanPaletteSlot p u => Sys2Proof.Machine.execDeadScanPaletteSlot p u s
  | .deadScanDirectorySet p u => Sys2Proof.Machine.execDeadScanDirectorySet p u s
  | .restorerDirectoryStep p u => Sys2Proof.Machine.execRestorerDirectoryStep p u s
  | .restorerPaletteStep p u => Sys2Proof.Machine.execRestorerPaletteStep p u s
  | .setSweepStart p set u => Sys2Proof.Machine.execSetSweepStart p set u s
  | .supplyWarnRise => Sys2Proof.Machine.execSupplyWarnRise s
  | .supplyWarnCleared => Sys2Proof.Machine.execSupplyWarnCleared s
  | .afterDipSweepEnd => Sys2Proof.Machine.execAfterDipSweepEnd s
  | .checkpointPeriod => Sys2Proof.Machine.execCheckpointPeriod s
  | .ephemerisStagingFlush ups => Sys2Proof.Machine.execEphemerisStagingFlush ups s
  | .bucketLeak => Sys2Proof.Machine.execBucketLeak s
  | .deadlineMiss p h => Sys2Proof.Machine.execDeadlineMiss p h s
  | .byteWindowEnd w => Sys2Proof.Machine.execByteWindowEnd w s
  | .traceSync => Sys2Proof.Machine.execTraceSync s
  | .traceWordSent => Sys2Proof.Machine.execTraceWordSent s
  | .tpRstAssert => Sys2Proof.Machine.execTpRstAssert s
  | .cpRstAssert => Sys2Proof.Machine.execCpRstAssert s
  | .tsRstAssert => Sys2Proof.Machine.execTsRstAssert s
  | .timeValueTaken t => Sys2Proof.Machine.execTimeValueTaken t s
  | .debugEnableChange sec ns => Sys2Proof.Machine.execDebugEnableChange sec ns s
  | .brEclReqRise b ns => Sys2Proof.Machine.execBrEclReqRise b ns s
  | .brEclReqFall b => Sys2Proof.Machine.execBrEclReqFall b s
  | .branchFenceCloses b => Sys2Proof.Machine.execBranchFenceCloses b s
  | .branchLivenessLoss b quiet => Sys2Proof.Machine.execBranchLivenessLoss b quiet s
  | .twinMismatch panel => Sys2Proof.Machine.execTwinMismatch panel s
  | .slotFrameBoundary => Sys2Proof.Machine.execSlotFrameBoundary s
  | .ringDescriptorStart => Sys2Proof.Machine.execRingDescriptorStart s
  | .easelMemoryResponse m r => Sys2Proof.Machine.execEaselMemoryResponse m r s
  | .managementOpComplete ring rep => Sys2Proof.Machine.execManagementOpComplete ring rep s
  | .eclipseTimeout ring => Sys2Proof.Machine.execEclipseTimeout ring s
  | .waitEventTaken ring => Sys2Proof.Machine.execWaitEventTaken ring s
  | .waitTimeout ring => Sys2Proof.Machine.execWaitTimeout ring s
  | .ezLd f => Sys2Proof.Machine.execEzLd f s
  | .ezLdw f => Sys2Proof.Machine.execEzLdw f s
  | .ezLdh f => Sys2Proof.Machine.execEzLdh f s
  | .ezLdb f => Sys2Proof.Machine.execEzLdb f s
  | .ezSt f => Sys2Proof.Machine.execEzSt f s
  | .ezStw f => Sys2Proof.Machine.execEzStw f s
  | .ezSth f => Sys2Proof.Machine.execEzSth f s
  | .ezStb f => Sys2Proof.Machine.execEzStb f s
  | .ezLea f => Sys2Proof.Machine.execEzLea f s
  | .ezLim f => Sys2Proof.Machine.execEzLim f s
  | .ezLimh f => Sys2Proof.Machine.execEzLimh f s
  | .ezEnd f => Sys2Proof.Machine.execEzEnd f s
  | .ezWait f => Sys2Proof.Machine.execEzWait f s
  | .ezSignal f => Sys2Proof.Machine.execEzSignal f s
  | .ezAdd f => Sys2Proof.Machine.execEzAdd f s
  | .ezAddi f => Sys2Proof.Machine.execEzAddi f s
  | .ezSub f => Sys2Proof.Machine.execEzSub f s
  | .ezSubi f => Sys2Proof.Machine.execEzSubi f s
  | .ezAnd f => Sys2Proof.Machine.execEzAnd f s
  | .ezAndi f => Sys2Proof.Machine.execEzAndi f s
  | .ezOr f => Sys2Proof.Machine.execEzOr f s
  | .ezOri f => Sys2Proof.Machine.execEzOri f s
  | .ezXor f => Sys2Proof.Machine.execEzXor f s
  | .ezXori f => Sys2Proof.Machine.execEzXori f s
  | .ezShl f => Sys2Proof.Machine.execEzShl f s
  | .ezShli f => Sys2Proof.Machine.execEzShli f s
  | .ezShr f => Sys2Proof.Machine.execEzShr f s
  | .ezShri f => Sys2Proof.Machine.execEzShri f s
  | .ezSar f => Sys2Proof.Machine.execEzSar f s
  | .ezSari f => Sys2Proof.Machine.execEzSari f s
  | .ezCmp f => Sys2Proof.Machine.execEzCmp f s
  | .ezCmpi f => Sys2Proof.Machine.execEzCmpi f s
  | .ezTst f => Sys2Proof.Machine.execEzTst f s
  | .ezTsti f => Sys2Proof.Machine.execEzTsti f s
  | .ezPopc f => Sys2Proof.Machine.execEzPopc f s
  | .ezFfs f => Sys2Proof.Machine.execEzFfs f s
  | .ezMts f => Sys2Proof.Machine.execEzMts f s
  | .ezMfs f => Sys2Proof.Machine.execEzMfs f s
  | .ezAdmit f => Sys2Proof.Machine.execEzAdmit f s
  | .ezExpel f => Sys2Proof.Machine.execEzExpel f s
  | .ezRecall f => Sys2Proof.Machine.execEzRecall f s
  | .ezSweep f => Sys2Proof.Machine.execEzSweep f s
  | .ezRetire f => Sys2Proof.Machine.execEzRetire f s
  | .ezEclipse f => Sys2Proof.Machine.execEzEclipse f s
  | .ezEclipseBranch f => Sys2Proof.Machine.execEzEclipseBranch f s
  | .ezDawn f => Sys2Proof.Machine.execEzDawn f s
  | .ezDawnBranch f => Sys2Proof.Machine.execEzDawnBranch f s
  | .ezRsync f => Sys2Proof.Machine.execEzRsync f s
  | .ezTswap f => Sys2Proof.Machine.execEzTswap f s
  | .ezBist f => Sys2Proof.Machine.execEzBist f s
  | .ezScrubq f => Sys2Proof.Machine.execEzScrubq f s
  | .ezLedgerFunc0 f => Sys2Proof.Machine.execEzLedgerFunc0 f s
  | .ezLedgerFunc1 f => Sys2Proof.Machine.execEzLedgerFunc1 f s
  | .ezLedgerFunc2 f => Sys2Proof.Machine.execEzLedgerFunc2 f s
  | .ezLedgerFunc3 f => Sys2Proof.Machine.execEzLedgerFunc3 f s
  | .ezProfile f => Sys2Proof.Machine.execEzProfile f s
  | .ezLock f => Sys2Proof.Machine.execEzLock f s
  | .ezTinv f => Sys2Proof.Machine.execEzTinv f s
  | .ezBr f => Sys2Proof.Machine.execEzBr f s
  | .ezBrl f => Sys2Proof.Machine.execEzBrl f s
  | .ezJmp f => Sys2Proof.Machine.execEzJmp f s
  | .ezJmpl f => Sys2Proof.Machine.execEzJmpl f s
  | .ezLoop f => Sys2Proof.Machine.execEzLoop f s
  | .ezRep f => Sys2Proof.Machine.execEzRep f s
  | .ezReserved w => Sys2Proof.Machine.execEzReserved w s
  | .rootFlip ring v => Sys2Proof.Machine.execRootFlip ring v s
  | .rtClr ring r v => Sys2Proof.Machine.execRtClr ring r v s
  | .routeEntryWrite ring r epoch id v => Sys2Proof.Machine.execRouteEntryWrite ring r epoch id v s
  | .regionMapWrite ring off v => Sys2Proof.Machine.execRegionMapWrite ring off v s
  | .hashKeyWrite ring j v => Sys2Proof.Machine.execHashKeyWrite ring j v s
  | .directoryWordStore ring off v => Sys2Proof.Machine.execDirectoryWordStore ring off v s
  | .paletteCodewordStore ring off v => Sys2Proof.Machine.execPaletteCodewordStore ring off v s
  | .counterStore ring off v => Sys2Proof.Machine.execCounterStore ring off v s
  | .psPrioWrite ring slot v => Sys2Proof.Machine.execPsPrioWrite ring slot v s
  | .psHbWrite ring slot v => Sys2Proof.Machine.execPsHbWrite ring slot v s
  | .rtSnpdlWrite ring r v => Sys2Proof.Machine.execRtSnpdlWrite ring r v s
  | .dlLimWrite ring p g v => Sys2Proof.Machine.execDlLimWrite ring p g v s
  | .bwCtlWrite ring off v => Sys2Proof.Machine.execBwCtlWrite ring off v s
  | .easelRegisterStore ring space off v => Sys2Proof.Machine.execEaselRegisterStore ring space off v s
  | .drvBootWrite ns perr v => Sys2Proof.Machine.execDrvBootWrite ns perr v s
  | .drvRingTailWrite ns perr n v => Sys2Proof.Machine.execDrvRingTailWrite ns perr n v s
  | .drvRingBaseSizeWrite ns perr n word v => Sys2Proof.Machine.execDrvRingBaseSizeWrite ns perr n word v s
  | .drvIrqStatWrite ns perr page v => Sys2Proof.Machine.execDrvIrqStatWrite ns perr page v s
  | .cpRegisterWrite a => Sys2Proof.Machine.execCpRegisterWrite a s
  | .crossingResetRelease x => Sys2Proof.Machine.execCrossingResetRelease x s
  | .ephemerisWriterMdata m r => Sys2Proof.Machine.execEphemerisWriterMdata m r s
  | .cpRegisterRead a => Sys2Proof.Machine.execCpRegisterRead a s
  | .linkWordDiscarded slot => Sys2Proof.Machine.execLinkWordDiscarded slot s
  | .wirUpdate w => Sys2Proof.Machine.execWirUpdate w s
  | .twWrstnAssert => Sys2Proof.Machine.execTwWrstnAssert s

end Sys2Proof.Machine
end

