-- ==== Sys2Proof/Machine/Tick.lean ====
section
/-! DEFINITION. One HCLK in which no command waits: what is due at its end (decisions of HTCs at D2, trace records, and at the end of a
KCLK the loads that sample and the checks of the rings), the cycle count, the interrupt outputs, the two event counts that rise in every
HCLK, and the moves that ports, the Ephemeris writer, the management operations and the Easel make by themselves (R161, R280, R375, R381,
R385, R496, R499, R502, R513, R520, R522, R544). -/

namespace Sys2Proof.Machine

/-- At a KCLK edge the interrupt outputs follow their sources and masks (R544). -/
def State.driveIrq (s : State) : State :=
  if s.clk.cyc % 8 = 0 then
    { s with clk := { s.clk with
      irqS := decide (s.host.irqStatS &&& ~~~s.host.irqMaskS ≠ 0),
      irqNs := decide (s.host.irqStatNs &&& ~~~s.host.irqMaskNs ≠ 0) } }
  else s

/-- A programmable counter of panel `p` is enabled in this KCLK (R502). -/
def State.counting (s : State) (p : Nat) : Bool :=
  (List.range 8).any fun i => (s.evSel (0x100 * p + 0x40 + 8 * i)).getLsbD 31

/-- Events 0x04 and 0x17 of panel `p` in one HCLK (R149, R502). -/
def State.tickPanel (s : State) (p : Nat) : State :=
  if ¬ s.counting p ∨ s.panelFrozen p then s
  else
    let x := s.px p {}
    let s := [cREQ, 8].foldl (fun (s : State) key =>
      match (s.q (.panelIn p) key).head? with
      | some k => if (x.reqPool k).isNone ∨ (x.freeHtc 0).isNone then s.pnEvent p 0x04 1 (wpOf k) else s
      | none => s) s
    let n := x.pn.htcs.length
    if n = 0 then s else s.pnEvent p 0x17 n none

/-- The HTCs of panel `p` whose D2 this HCLK is take their decisions (R161). -/
def State.decidePanel (s : State) (p : Nat) : State :=
  let x := s.px p {}
  if s.panelFrozen p ∨ ¬ (x.pn.htcs.any fun e => x.due e.1 e.2) then s else s.panelStep p {} fun x => x.pumpGo.pumpEbar

/-- A load of ring `r` that samples at the end of this KCLK goes on (R496). -/
def State.sampleLoad (s : State) (r : Nat) : State :=
  match (s.ctx r).wait with
  | .sample sp off u =>
    let t := s.spcLoad r sp off
    t.1.easelUse r u { data := t.2.setWidth 512 }
  | _ => s

/-- The end of a KCLK: loads sample, and rings whose TAIL ran too far ahead are stopped (R381, R496). -/
def State.kclkEnd (s : State) : State :=
  if s.clk.cyc % 8 = 7 then ((List.range 16).foldl State.sampleLoad s).ringsCheck else s

/-- The leaves take what waits in the ports' upward dual-clock queues, as far as they can (R280). -/
def State.upPorts (s : State) : State :=
  ((s.ports.filter fun e => !e.2.upq.isEmpty).map (·.1)).foldl State.upPump s

/-- What is due at the end of this HCLK: decisions at D2, trace records, and at the end of a KCLK its loads and checks. -/
def State.hclkEnd (s : State) : State := ((List.range s.build.panels).foldl State.decidePanel s).traceFlush.kclkEnd

/-- One HCLK; nothing in reset. -/
def State.tick (s : State) : State :=
  if s.clk.inReset then s
  else
    let s := s.hclkEnd
    let s := { s with clk := { s.clk with cyc := s.clk.cyc + 1 } }.driveIrq
    let s := (List.range s.build.panels).foldl State.tickPanel s
    (if s.clk.cyc % 8 = 0 then s.calFlush else s).upPorts.ephPump.opsPump.ezBegin

end Sys2Proof.Machine
end

