-- ==== Sys2Proof/WellFormed.lean ====
section
/-! DEFINITION. Well-formed commands: every number an operand gives lies in the range its field or unit has in the largest
build (R24 to R28). A command may be well formed and name a unit the build at hand lacks; that one changes nothing. -/

namespace Sys2Proof

/-- An agent-port slot (R25). -/
def slotOk (n : Nat) : Bool := decide (n < 256)
/-- A panel (R24). -/
def panelOk (p : Nat) : Bool := decide (p < 16)
/-- An HTC of a panel (R28). -/
def htcOk (h : Nat) : Bool := decide (h < 1024)
/-- A memory port (R314). -/
def memOk (m : Nat) : Bool := decide (m < 8)
/-- A leaf (R176). -/
def leafOk (q : Nat) : Bool := decide (q < 32)
/-- A branch (R176). -/
def branchOk (b : Nat) : Bool := decide (b < 8)
/-- A router number (R367). -/
def routerOk (r : Nat) : Bool := decide (r ≤ 40)
/-- A ring of the Easel (R346). -/
def ringOk (r : Nat) : Bool := decide (r < 16)
/-- A message class (R73). -/
def classOk (c : Nat) : Bool := decide (c < 6)
/-- A queue of a place: a class, or a bounded REQ lane (R206). -/
def keyOk (k : Nat) : Bool := decide (k < 6) || (decide (8 ≤ k) && decide (k < 24))
/-- An 8-byte word's offset in an internal space (R357). -/
def offOk (off : Nat) : Bool := decide (off < 2 ^ 60)

/-- A place of the tree. -/
def Loc.wf : Loc → Bool
  | .leafUp n | .portDown n => slotOk n
  | .leafDown q | .branchUp q => leafOk q
  | .branchDown b | .rootUp b => branchOk b
  | .rootPanel p | .panelIn p | .panelOut p => panelOk p
  | .synth r => routerOk r
  | .rootEasel | .rootRestorer => true

/-- An output of the tree. -/
def HopOut.wf : HopOut → Bool
  | .leafToPort n => slotOk n
  | .leafToBranch q | .branchToLeaf q => leafOk q
  | .branchToRoot b | .rootToBranch b => branchOk b
  | .rootToPanel p | .panelToRoot p => panelOk p
  | .rootToEasel | .rootToRestorer => true

/-- A clock crossing. -/
def Crossing.wf : Crossing → Bool
  | .agent n => slotOk n
  | .mem m => memOk m
  | .cp | .tp | .ts => true

/-- A byte-window owner. -/
def WinId.wf : WinId → Bool
  | .port n => slotOk n
  | .mem m => memOk m

/-- Array disturbances name words that arrays have: 16 ways, the Palette codewords of 16,384 slots, the region map with the
hash keys, and from 64 on the Ephemeris words, and 32 proxy slots. -/
def Upset.wf (u : Upset) : Bool :=
  u.dir.all (fun e => decide (e.1 < 16)) && u.pal.all (fun e => decide (e.1 < 16384 * 8)) &&
  u.rgn.all (fun e => decide (e.1 < 64 + 512)) && u.prx.all (fun e => decide (e.1 < 32))

/-- An upward packet stands on one of the eight values of a class field; it has a header flit, and at most the four data flits
of a line at the smallest beat (R263, R265). -/
def UpFlits.wf (f : UpFlits) : Bool := decide (f.chan < 8) && decide (1 ≤ f.flits.length) && decide (f.flits.length ≤ 5)

/-- An inbound memory message has a header flit, and at most one data flit (R315). -/
def MemResp.wf (r : MemResp) : Bool := decide (1 ≤ r.flits.length) && decide (r.flits.length ≤ 2)

/-- A control-port access: 13 bits of byte address (R532). -/
def CpAcc.wf (a : CpAcc) : Bool := decide (a.addr < 8192)

/-- The opcode of a reserved instruction word is one that R350 does not list. -/
def reservedWord (w : BitVec 32) : Bool := decide ((w.extractLsb' 22 6).toNat ∈ [0x00, 0x0A, 0x37, 0x3E, 0x3F])

/-- A command is well formed. -/
def Instr.wf : Instr → Bool
  | .apRstAssert n | .apRstRelease n | .heartbeat n _ | .heartbeatLapse n | .snoopDeadlineExpiry n | .apEclReqRise n _
  | .apEclReqFall n | .portFenceCloses n | .reclamationComplete n | .rlsHoldReleased n | .linkWordDiscarded n => slotOk n
  | .handshakeComplete x | .crossingResetRelease x => x.wf
  | .intro n _ b c => slotOk n && decide (b.length ≤ 14) && (c.isNone || decide (b.length = 14))
  | .upwardPacketCheck n f => slotOk n && f.wf
  | .downwardCredit n c => slotOk n && classOk c.cls
  | .upwardCreditReturn n c => slotOk n && classOk c
  | .packetHop o _ => o.wf
  | .creditReturned l k => l.wf && keyOk k
  | .combineAck l _ _ => l.wf
  | .combineFlush r h => routerOk r && decide (h < 2 ^ 14)
  | .epochCaptured r => routerOk r
  | .rds p u | .rdu p u | .upg p u | .rdo p u | .wru p u | .atp p u | .evc p u | .wbd p u | .wbo p u | .dirtyhint p u
  | .snpack p _ u | .datafwdToHome p u | .sweepdata p u | .compack p u | .deathMarker p u | .deadScanPaletteSlot p u
  | .deadScanDirectorySet p u | .restorerDirectoryStep p u | .restorerPaletteStep p u => panelOk p && u.wf
  | .ebar b p u => branchOk b && panelOk p && u.wf
  | .ebarPanelCompletion p | .tiv p | .tsy p => panelOk p
  | .wbkLineRelease p h u | .htcFreed p h u | .htcStartQueued p h u | .htcReplay p h _ u => panelOk p && htcOk h && u.wf
  | .mdata m r u => memOk m && r.wf && u.wf
  | .mwrcmp m r | .easelMemoryResponse m r | .ephemerisWriterMdata m r => memOk m && r.wf
  | .memportGrant m _ _ | .mpReqCrd m | .mpRstAssert m | .mpRstRelease m => memOk m
  | .setSweepStart p set u => panelOk p && decide (set < 32768) && u.wf
  | .ephemerisStagingFlush ups => ups.all fun e => decide (e.1 < 512)
  | .deadlineMiss p h => panelOk p && htcOk h
  | .byteWindowEnd w => w.wf
  | .brEclReqRise b _ | .brEclReqFall b | .branchFenceCloses b | .branchLivenessLoss b _ => branchOk b
  | .twinMismatch p => (p.map panelOk).getD true
  | .managementOpComplete r _ | .eclipseTimeout r | .waitEventTaken r | .waitTimeout r | .rootFlip r _ => ringOk r
  | .ezReserved w => reservedWord w
  | .rtClr r n _ | .rtSnpdlWrite r n _ => ringOk r && routerOk n
  | .routeEntryWrite r n e i _ => ringOk r && routerOk n && decide (e < 2) && decide (i < 256)
  | .regionMapWrite r off _ => ringOk r && decide (off < 0x100)
  | .directoryWordStore r off _ | .paletteCodewordStore r off _ | .counterStore r off _ | .bwCtlWrite r off _ =>
    ringOk r && offOk off
  | .hashKeyWrite r j _ => ringOk r && decide (j < 4)
  | .psPrioWrite r n _ | .psHbWrite r n _ => ringOk r && slotOk n
  | .dlLimWrite r p g _ => ringOk r && panelOk p && decide (g < 8)
  | .easelRegisterStore r sp off _ => ringOk r && decide (1 ≤ sp) && decide (sp < 8) && offOk off
  | .drvRingTailWrite _ _ n _ => ringOk n
  | .drvRingBaseSizeWrite _ _ n w _ => ringOk n && decide (w < 3)
  | .drvIrqStatWrite _ _ page _ => decide (page < 2)
  | .cpRegisterWrite a | .cpRegisterRead a => a.wf
  | .blockRstAssert | .blockRstRelease _ _ | .initialisationComplete | .supplyWarnRise | .supplyWarnCleared
  | .afterDipSweepEnd | .checkpointPeriod | .bucketLeak | .traceSync | .traceWordSent | .tpRstAssert | .cpRstAssert
  | .tsRstAssert | .timeValueTaken _ | .debugEnableChange _ _ | .slotFrameBoundary | .ringDescriptorStart
  | .ezLd _ | .ezLdw _ | .ezLdh _ | .ezLdb _ | .ezSt _ | .ezStw _ | .ezSth _ | .ezStb _ | .ezLea _ | .ezLim _ | .ezLimh _
  | .ezEnd _ | .ezWait _ | .ezSignal _ | .ezAdd _ | .ezAddi _ | .ezSub _ | .ezSubi _ | .ezAnd _ | .ezAndi _ | .ezOr _
  | .ezOri _ | .ezXor _ | .ezXori _ | .ezShl _ | .ezShli _ | .ezShr _ | .ezShri _ | .ezSar _ | .ezSari _ | .ezCmp _
  | .ezCmpi _ | .ezTst _ | .ezTsti _ | .ezPopc _ | .ezFfs _ | .ezMts _ | .ezMfs _ | .ezAdmit _ | .ezExpel _ | .ezRecall _
  | .ezSweep _ | .ezRetire _ | .ezEclipse _ | .ezEclipseBranch _ | .ezDawn _ | .ezDawnBranch _ | .ezRsync _ | .ezTswap _
  | .ezBist _ | .ezScrubq _ | .ezLedgerFunc0 _ | .ezLedgerFunc1 _ | .ezLedgerFunc2 _ | .ezLedgerFunc3 _ | .ezProfile _
  | .ezLock _ | .ezTinv _ | .ezBr _ | .ezBrl _ | .ezJmp _ | .ezJmpl _ | .ezLoop _ | .ezRep _ | .drvBootWrite _ _ _
  | .wirUpdate _ | .twWrstnAssert => true

end Sys2Proof
end

