-- ==== Sys2Proof/Safety.lean ====
section
/-! DEFINITION. The terms in which claims are made: a legal build, a unit that acts, what a command leaves as it was, what an
array word reads as, an Easel instruction that runs, and the invariants of every step. -/

namespace Sys2Proof.Machine

/-! ### Builds and units -/

/-- Branch `c` has a leaf at one of its four positions (R24, R176). -/
def Build.hasLeaf (b : Build) (c : Nat) : Prop := ∃ j, j < 4 ∧ (b.leaves.getD (4 * c + j) none).isSome = true

/-- The parameters are ones that R24 to R26 accept: branches from 0 on with a leaf each, a memory port outside DEV_PORT_MASK,
at most 2 wire stages on any link. -/
def Build.ok (b : Build) : Prop :=
  (b.p = 2 ∨ b.p = 3 ∨ b.p = 4) ∧ (b.setsK = 16 ∨ b.setsK = 20 ∨ b.setsK = 24 ∨ b.setsK = 32) ∧ b.psets ≤ 2 ∧
  1 ≤ b.memPorts ∧ b.memPorts ≤ 8 ∧ (∀ m, m < 8 → b.devMask.getLsbD m = true → m < b.memPorts) ∧
  (∃ m, m < b.memPorts ∧ b.devMask.getLsbD m = false) ∧ b.leaves.length = 32 ∧
  (∀ x ∈ b.leaves, match x with | some (w, n) => w ≤ 2 ∧ 1 ≤ n ∧ n ≤ 8 | none => True) ∧
  b.hasLeaf 0 ∧ (∀ c, c < 7 → b.hasLeaf (c + 1) → b.hasLeaf c) ∧
  ∀ w ∈ b.brWire ++ b.mpWire ++ b.pnWire, w ≤ 2

/-- The block is out of reset, and its boundary cells are transparent: no test is on (R479, R554). -/
abbrev State.live (s : State) : Prop := s.clk.inReset = false ∧ s.clk.cellsOpen = true

/-- Panel `p` is built, not frozen, and the block in service. -/
def State.acts (s : State) (p : Nat) : Prop := p < s.build.panels ∧ s.live ∧ s.panelFrozen p = false

/-- Panel `p` acts, and takes messages from its inputs, which a frozen root stops (R438). -/
def State.takes (s : State) (p : Nat) : Prop := s.acts p ∧ s.clk.frozenRoot = false

/-- Memory port `m` is built, not frozen, and the block in service. -/
def State.mpActs (s : State) (m : Nat) : Prop :=
  m < s.build.memPorts ∧ s.live ∧ s.clk.frozenRoot = false ∧ (s.mp m).stopped = false

/-- A safe run: no fatal error has been declared. -/
def State.sound (s : State) : Prop := s.clk.fatal = false

/-! ### What stays -/

/-- The parts that no command but a block reset or the queue changes. -/
def SameBase (s t : State) : Prop := t.pending = s.pending ∧ t.build = s.build ∧ t.nonce = s.nonce

/-- The tree stays: ports, routers, packets, credits. -/
def SameTree (s t : State) : Prop := t.ports = s.ports ∧ t.routers = s.routers ∧ t.net = s.net

/-- The homes stay: panels, memory ports, region map. -/
def SameHomes (s t : State) : Prop := t.panels = s.panels ∧ t.mps = s.mps ∧ t.rgn = s.rgn

/-- The clocks, pins and fatal state stay, and what has left the block. -/
def SamePins (s t : State) : Prop := t.clk = s.clk ∧ t.outs = s.outs

/-- The registers that only counters, windows and trace change stay, with the Restorer's. -/
def SameObs (s t : State) : Prop := t.w4 = s.w4 ∧ t.tr = s.tr ∧ t.rs = s.rs

/-- What a command of panel `p` leaves as it was when it only counts panel events: everything but the tree's queues, the
counters of space 0x4 and panel `p`. -/
def PanelFrame (s t : State) (p : Nat) : Prop :=
  SameBase s t ∧ SamePins s t ∧ t.host = s.host ∧ t.ez = s.ez ∧ t.rgn = s.rgn ∧ t.ports = s.ports ∧ t.routers = s.routers ∧
  t.net.ebars = s.net.ebars ∧ t.net.brs = s.net.brs ∧ t.mps = s.mps ∧ t.rs = s.rs ∧ t.ep = s.ep ∧ t.tr = s.tr ∧ t.w6 = s.w6 ∧
  ∀ q, q ≠ p → t.panel q = s.panel q

/-- A message is taken from one queue and no other: its head goes, and its buffer's credit is owed (R186). -/
def Took (s t : State) (l : Loc) (key : Nat) : Prop :=
  t.q l key = (s.q l key).tail ∧ t.owed l key = s.owed l key + 1 ∧
  ∀ l' key', locKey l' key' ≠ locKey l key → t.q l' key' = s.q l' key' ∧ t.owed l' key' = s.owed l' key'

/-- No set sweep of a panel waits for other HTCs, and no barrier copy waits in COLLECT. -/
def Panel.calm (n : Panel) : Prop :=
  ∀ e ∈ n.htcs, ¬ (e.2.job = .sweep ∧ e.2.phase = .decide) ∧ ¬ (e.2.job = .ebar ∧ e.2.phase = .collect)

/-- A calm panel with no request on its way to D2: nothing at it moves on beside the HTC that a message is for. -/
def Panel.quiet (n : Panel) : Prop := n.calm ∧ ∀ e ∈ n.htcs, e.2.undecided = false

/-- What a command that acts at panel `p` and in the tree leaves as it was: the ports, the other panels and routers, the memory ports,
the queues and the credits owed. -/
def CrossFrame (s t : State) (p : Nat) : Prop :=
  SameBase s t ∧ SamePins s t ∧ t.host = s.host ∧ t.ports = s.ports ∧ t.rgn = s.rgn ∧ t.mps = s.mps ∧ t.ep = s.ep ∧
  t.net.qs = s.net.qs ∧ t.net.owed = s.net.owed ∧ t.net.ebars = s.net.ebars ∧ t.net.brs = s.net.brs ∧
  (∀ r, r ≠ 40 → t.router r = s.router r) ∧ ∀ q, q ≠ p → t.panel q = s.panel q

/-- No load of a ring waits for the end of its KCLK, no ring has more work than slots, and no request is on its way to D2: the end of
an HCLK only counts it. -/
def State.calm (s : State) : Prop :=
  (∀ p, ∀ e ∈ (s.panel p).htcs, e.2.undecided = false) ∧ (∀ r sp off u, (s.ctx r).wait ≠ .sample sp off u) ∧
  ∀ r, ((s.ring r).tail - (s.ring r).head).toNat ≤ 2 ^ (s.ring r).size.toNat

/-- The interrupt outputs of `t` after one HCLK of `s`, as the sources and masks of `h` drive them at a KCLK edge (R544). -/
def Drives (s t : State) (h : HostRegs) : Prop :=
  t.clk.irqS = (if (s.clk.cyc + 1) % 8 = 0 then decide (h.irqStatS &&& ~~~h.irqMaskS ≠ 0) else s.clk.irqS) ∧
  t.clk.irqNs = (if (s.clk.cyc + 1) % 8 = 0 then decide (h.irqStatNs &&& ~~~h.irqMaskNs ≠ 0) else s.clk.irqNs)

/-- No management operation runs, and none has still a request to send. -/
def State.noOps (s : State) : Prop := s.ez.ops = [] ∧ s.ez.asks = []

/-! ### What array words read as -/

/-- The entry that a directory way reads as when its codeword is free of errors. -/
def State.wayOf (s : State) (p set way : Nat) : Option Ent :=
  match strongDec 56 (smGet (Config.freeDir s.nonce p (wayIdx set way)) (s.panel p).dir (wayIdx set way)).toNat with
  | .ok d => some (Ent.ofPay d)
  | _ => none

/-- A directory way reads as untrusted: its codeword is uncorrectable (R49). -/
def State.wayBad (s : State) (p set way : Nat) : Prop :=
  ∃ d, strongDec 56 (smGet (Config.freeDir s.nonce p (wayIdx set way)) (s.panel p).dir (wayIdx set way)).toNat = .ue d

/-- The 16 ways of a set read free of errors, way `w` as `es w`, none with a reserved STATE. -/
def State.setReads (s : State) (p set : Nat) (es : Nat → Ent) : Prop :=
  ∀ w, w < 16 → s.wayOf p set w = some (es w) ∧ (es w).st ≤ 8

/-- The word that a Palette codeword reads as when it is free of errors. -/
def State.palOf (s : State) (p slot cw : Nat) : Option Nat :=
  match decW (smGet (Config.freePal s.nonce p (slot * 8 + cw)) (s.panel p).pal (slot * 8 + cw)) with
  | .ok d => some d
  | _ => none

/-- The five codewords of a Palette slot read free of errors, as `v`. -/
def State.slotReads (s : State) (p slot : Nat) (v : PSlot) : Prop :=
  ∃ w : Nat → Nat, (∀ cw, cw < 5 → s.palOf p slot cw = some (w cw)) ∧ PSlot.ofWords w = v

/-- The Palette set of a vector: its sixteen 16-bit pieces combined, and that with its upper bits (R59). -/
def State.palSetOf (s : State) (v : Vec) : Nat :=
  let x := (List.range 16).foldl (fun a i => a ^^^ v.extractLsb' (16 * i) 16) 0#16
  (x ^^^ (x >>> 12)).toNat % s.build.palSets

/-- The four slots of the set of vector `v` read free of errors as `vs`, none uncounted; slot `e.1` of a released reference stands as
`e.2` among them. -/
def State.palSetReads (s : State) (p : Nat) (v : Vec) (rel : Option (Nat × PSlot)) (vs : Nat → PSlot) : Prop :=
  ∀ j, j < 4 → (vs j).uncnt = false ∧ (vs j).ref + 1 < 2 ^ 20 ∧
    ((∀ e, rel = some e → e.1 = 4 * s.palSetOf v + j → vs j = e.2) ∧
      ((∀ e, rel = some e → e.1 ≠ 4 * s.palSetOf v + j) → s.slotReads p (4 * s.palSetOf v + j) (vs j)))

/-- A slot holds vector `v`, and is trusted (R60). -/
def Fits (v : Vec) (x : PSlot) : Prop := x.valid = true ∧ x.lost = false ∧ x.vec = v

/-- None of four slots takes vector `v`: none holds it, and none is free (R60). -/
def NoSlot (v : Vec) (vs : Nat → PSlot) : Prop := ∀ j, j < 4 → ¬ Fits v (vs j) ∧ (vs j).valid = true

/-- PART and MIXED of a slot that holds `v` (R61). -/
def State.partRule (s : State) (v : Vec) (x : PSlot) : Prop :=
  let one (q : Nat) : Prop := ∀ a, a < 256 → v.getLsbD a = true → (s.portOf a).part = q
  (∀ q, one q → x.part = q ∧ x.mixed = false) ∧ ((¬ ∃ q, one q) → x.part = 0 ∧ x.mixed = true)

/-- Slot `j` of four is one that takes vector `v`, and it becomes `x`: one that holds it counts one entry more, and where none does the
lowest free one is written (R60, R61). -/
def State.takesSlot (s : State) (v : Vec) (vs : Nat → PSlot) (j : Nat) (x : PSlot) : Prop :=
  j < 4 ∧ ((Fits v (vs j) ∧ x = { vs j with ref := (vs j).ref + 1 }) ∨
    ((∀ i, i < 4 → ¬ Fits v (vs i)) ∧ (vs j).valid = false ∧ (∀ i, i < j → (vs i).valid = true) ∧ x.vec = v ∧ x.ref = 1 ∧
      x.valid = true ∧ x.lost = false ∧ x.uncnt = false ∧ s.partRule v x))

/-- A slot that reads as `v`, once an entry has stopped naming it (R63). -/
def PSlot.released (v : PSlot) : PSlot := { v with ref := v.ref - 1, valid := decide (v.ref ≠ 1) }

/-- The five codewords of Palette slot `k` of panel `p` stand written as those of `x`. -/
def Written (t : State) (p k : Nat) (x : PSlot) : Prop :=
  ∃ w : Nat → BitVec 64, (∀ cw, cw < 5 → smFind (t.panel p).pal (k * 8 + cw) = some (encW (w cw))) ∧
    PSlot.ofWords (fun cw => (w cw).toNat) = x

/-- The Palette of panel `p` stays but for the slots `ks`. -/
def OnlySlots (s t : State) (p : Nat) (ks : List Nat) : Prop :=
  ∀ i, (i / 8 ∉ ks ∨ 5 ≤ i % 8) → smFind (t.panel p).pal i = smFind (s.panel p).pal i

/-- Local-store word `i` reads free of errors as `d`. -/
def State.locReads (s : State) (i d : Nat) : Prop := lightDec (s.locRaw i).toNat = .ok d

/-! ### Easel instructions -/

/-- Ring `r` runs next, and the word it has fetched is that of opcode `opc` with the fields `f`; its condition holds. -/
def State.runs (s : State) (r opc : Nat) (f : Fld) : Prop :=
  s.live ∧ ∃ i, s.ezNext = some (r, i) ∧ i.word = fldWord opc f ∧ (hasExt opc = true → i.ext = f.ext) ∧
    condHolds f.cond (s.ctx r).flags (s.ctx r).rc = true

/-- The registers of a ring that only its own instructions change. -/
def SameRegs (c d : Ctx) : Prop :=
  d.g = c.g ∧ d.flags = c.flags ∧ d.rc = c.rc ∧ d.w = c.w ∧ d.pc = c.pc ∧ d.inrep = c.inrep ∧ d.idx = c.idx ∧ d.rem = c.rem

/-- Every local-store word that read free of errors reads as before. -/
def LocSame (s t : State) : Prop := ∀ i d, s.locReads i d → t.locReads i d

/-- The registers of every ring but `r` stay. -/
def OtherRings (s t : State) (r : Nat) : Prop := ∀ n, n ≠ r → SameRegs (s.ctx n) (t.ctx n)

/-- What an Easel instruction that touches no space but the local store leaves as it was. -/
def EaselFrame (s t : State) : Prop :=
  SameBase s t ∧ SamePins s t ∧ SameTree s t ∧ SameHomes s t ∧ SameObs s t ∧
  t.host.prof = s.host.prof ∧ t.host.locks = s.host.locks ∧ t.host.bootEn = s.host.bootEn ∧ t.ez.ops = s.ez.ops

/-- An instruction of `len` bytes of ring `r` has ended: PC moves past it, or a repeat counts it (R351, R373). -/
def Passed (c d : Ctx) (len : Nat) : Prop :=
  if c.inrep then
    d.idx = c.idx + 1 ∧ d.rem = c.rem - 1 ∧
    (c.rem - 1 = 0 → d.inrep = false ∧ d.pc = c.pc + 4 + BitVec.ofNat 64 len) ∧
    (c.rem - 1 ≠ 0 → d.inrep = true ∧ d.pc = c.pc)
  else d.inrep = false ∧ d.pc = c.pc + BitVec.ofNat 64 len

/-- The result, C and V of an instruction of two operands (R350, R352); its X form has an even opcode, its I form the next. -/
def aluRule (opc : Nat) (a b : BitVec 64) : BitVec 64 × Bool × Bool :=
  let k := b.toNat % 64
  match opc / 2 with
  | 0x08 => (a + b, BitVec.uaddOverflow a b, BitVec.saddOverflow a b)
  | 0x09 | 0x10 => (a - b, !BitVec.usubOverflow a b, BitVec.ssubOverflow a b)
  | 0x0A | 0x11 => (a &&& b, false, false)
  | 0x0B => (a ||| b, false, false)
  | 0x0C => (a ^^^ b, false, false)
  | 0x0D => (a <<< k, decide (0 < k) && a.getMsbD (k - 1), false)
  | 0x0E => (a >>> k, decide (0 < k) && a.getLsbD (k - 1), false)
  | _ => (a.sshiftRight k, decide (0 < k) && a.getLsbD (k - 1), false)

/-- The instructions of two operands, by opcode (R350). -/
def twoOperand (f : Fld) : List (Nat × Instr) :=
  [(0x10, .ezAdd f), (0x11, .ezAddi f), (0x12, .ezSub f), (0x13, .ezSubi f), (0x14, .ezAnd f), (0x15, .ezAndi f),
   (0x16, .ezOr f), (0x17, .ezOri f), (0x18, .ezXor f), (0x19, .ezXori f)] ++
  [(0x1A, .ezShl f), (0x1B, .ezShli f), (0x1C, .ezShr f), (0x1D, .ezShri f), (0x1E, .ezSar f), (0x1F, .ezSari f),
   (0x20, .ezCmp f), (0x21, .ezCmpi f), (0x22, .ezTst f), (0x23, .ezTsti f)]

/-- The loads and stores, by opcode and bytes (R350). -/
def loadInstr (f : Fld) : List (Nat × Nat × Instr) := [(1, 8, .ezLd f), (2, 4, .ezLdw f), (3, 2, .ezLdh f), (4, 1, .ezLdb f)]

/-- The stores, by opcode and bytes (R350). -/
def storeInstr (f : Fld) : List (Nat × Nat × Instr) := [(5, 8, .ezSt f), (6, 4, .ezStw f), (7, 2, .ezSth f), (8, 1, .ezStb f)]

/-- The instructions that are neither a REP nor reserved and whose row their opcode alone names (R350). -/
def plainInstr (f : Fld) : List (Nat × Instr) :=
  twoOperand f ++ (loadInstr f ++ storeInstr f).map (fun e => (e.1, e.2.2)) ++
  [(0x09, .ezLea f), (0x0B, .ezLim f), (0x0C, .ezLimh f), (0x0D, .ezEnd f), (0x0E, .ezWait f), (0x0F, .ezSignal f),
   (0x24, .ezPopc f), (0x25, .ezFfs f), (0x26, .ezMts f), (0x27, .ezMfs f), (0x38, .ezBr f), (0x39, .ezBrl f),
   (0x3A, .ezJmp f), (0x3B, .ezJmpl f), (0x3C, .ezLoop f)]

/-- The management operations, by opcode, with a test of W0 for the rows that share an opcode (R350, R384). -/
def mgmtInstr (f : Fld) : List (Nat × (Nat → Bool) × Instr) :=
  let all : Nat → Bool := fun _ => true
  let branch (w : Nat) : Bool := w.testBit 8
  [(0x28, all, .ezAdmit f), (0x29, all, .ezExpel f), (0x2A, all, .ezRecall f), (0x2B, all, .ezSweep f),
   (0x2C, all, .ezRetire f), (0x2D, fun w => !branch w, .ezEclipse f), (0x2D, branch, .ezEclipseBranch f),
   (0x2E, fun w => !branch w, .ezDawn f), (0x2E, branch, .ezDawnBranch f), (0x2F, all, .ezRsync f)] ++
  [(0x30, all, .ezTswap f), (0x31, all, .ezBist f), (0x32, all, .ezScrubq f), (0x33, fun w => decide (w % 4 = 0), .ezLedgerFunc0 f),
   (0x33, fun w => decide (w % 4 = 1), .ezLedgerFunc1 f), (0x33, fun w => decide (w % 4 = 2), .ezLedgerFunc2 f),
   (0x33, fun w => decide (w % 4 = 3), .ezLedgerFunc3 f), (0x34, all, .ezProfile f), (0x35, all, .ezLock f), (0x36, all, .ezTinv f)]

/-- DISP as an iteration of a repeat has it for a load, a store, LEA or a management operation (R373). -/
def iterDisp (c : Ctx) (f : Fld) : BitVec 14 :=
  if c.inrep then f.disp + c.idx.setWidth 14 * (c.repw.extractLsb' 0 12).signExtend 14 else f.disp

/-- EA of such an instruction (R349). -/
def iterEa (c : Ctx) (f : Fld) (scale : Nat) : BitVec 64 :=
  c.gr f.b.toNat + (iterDisp c f).signExtend 64 * BitVec.ofNat 64 scale

/-- `lower` holds exactly the events that rings below `r` wait for (R391). -/
def State.awaitedBelow (s : State) (r : Nat) (lower : BitVec 16) : Prop :=
  ∀ i, i < 16 → (lower.getLsbD i = true ↔ ∃ e ∈ s.ez.ctx, e.1 < r ∧ ∃ m u d, e.2.wait = .event m u d ∧ m.getLsbD i = true)

/-- The words `ws` stand in the local store at `ea` and the addresses after it, where ring `r` may load them. -/
def State.operands (s : State) (r : Nat) (ea : BitVec 64) (ws : List (BitVec 64)) : Prop :=
  ∀ k, k < ws.length → ∃ a, s.access r (ea + BitVec.ofNat 64 (8 * k)) 8 .load = .loc a ∧ s.locReads (a / 8) (ws.getD k 0).toNat

/-! ### Ports -/

/-- Port `n` of the build is one of the 256 slots of R25, and the block in service. -/
def State.portActs (s : State) (n : Nat) : Prop := n < s.build.slots ∧ n < 256 ∧ s.live

/-- Every port but `n` stays. -/
def OtherPorts (s t : State) (n : Nat) : Prop := ∀ m, m ≠ n → t.port m = s.port m

/-- What a command of a port's link and pins leaves as it was: everything but that port, what left the block, EVENTS, the
interrupt sources and the ledger. -/
def PortFrame (s t : State) (n : Nat) : Prop :=
  SameBase s t ∧ OtherPorts s t n ∧ t.clk = s.clk ∧ t.panels = s.panels ∧ t.mps = s.mps ∧ t.routers = s.routers ∧
  t.net = s.net ∧ t.rgn = s.rgn ∧ t.w4 = s.w4 ∧ t.w6 = s.w6 ∧ t.ez.ctx = s.ez.ctx ∧ t.ez.ops = s.ez.ops ∧
  t.host.prof = s.host.prof ∧ t.host.locks = s.host.locks ∧ t.host.rings = s.host.rings

/-- Port `n` has entered DEAD (R290, R292, R390, R444, R445, R448, R465): its cause is recorded, its agent's name stays, its
queues are empty, every snoop it owed is answered in its place, a death marker goes to every panel, STATE is sent, EVENTS
bit 0 and source 19 are set; no other port changes. -/
def Died (s t : State) (n cause : Nat) : Prop :=
  let x := s.port n
  let y := t.port n
  let q := s.build.leafOf n
  y.lstate = .dead ∧ y.cause = cause ∧ y.held = x.shold ∧ y.fencing = false ∧ y.eclOp = false ∧ y.psnp = [] ∧ y.reqs = [] ∧
  y.upq = [] ∧
  y.reclaimed = false ∧ y.agent = x.agent ∧ y.part = x.part ∧ y.nsOnly = x.nsOnly ∧ y.limit = x.limit ∧ y.mode = x.mode ∧
  OtherPorts s t n ∧ t.panels = s.panels ∧ t.mps = s.mps ∧ t.clk = s.clk ∧ t.host.prof = s.host.prof ∧
  (∀ c, c < 6 → t.q (.portDown n) c = []) ∧ (∀ c, c < 6 → c ≠ cSNP → t.q (.leafUp n) c = []) ∧
  t.ez.events = s.ez.events ||| 1 ∧ t.host.irqStatS.getLsbD 19 = true ∧ t.outs = s.outs ++ [.link n (linkWords [0x84000005#32])] ∧
  (∀ p, p < s.build.panels → ∃ k ∈ t.q (.synth q) cWBK, k.home = p ∧ k.aux = x.agent ∧ k.hdr.src = x.agent ∧ k.hdr.opc = 63) ∧
  (∀ e ∈ x.psnp, e.tiv = false → ∃ k ∈ t.q (.synth q) (if e.mgt then cMGT else cRSP), k.hdr.src = x.agent ∧ k.hdr.htc = e.htc ∧
    k.hdr.tag = 1 ∧ k.hdr.marks = (if e.owner then (if e.fwd then 5 else 1) else 0) ∧ k.hdr.size = (if e.owner then 0 else 1)) ∧
  (∀ e ∈ x.psnp, e.tiv = true → ∃ k ∈ t.q (.synth q) cRSP, k.hdr.src = x.agent ∧ k.hdr.opc = oTIvDone ∧ k.hdr.tag = e.htc)

/-- An INTRO record that every check of R287 passes. -/
def introSound (w : Nat → BitVec 32) : Prop :=
  crc32 ((List.range 15).map w) = w 15 ∧ ((w 0).getLsbD 2 = true ∨ (w 0).getLsbD 3 = true) ∧
  ((w 1).extractLsb' 0 2 = 1 ∧ 1 ≤ ((w 2).extractLsb' 0 17).toNat ∨ (w 1).extractLsb' 0 2 = 2 ∧ (w 2).extractLsb' 0 17 = 0) ∧
  ((w 2).extractLsb' 0 17).toNat ≤ 65536 ∧ 1 ≤ ((w 3).extractLsb' 0 13).toNat ∧ ((w 3).extractLsb' 0 13).toNat ≤ 4096 ∧
  (w 4).extractLsb' 0 3 ≠ 0 ∧ (w 7).extractLsb' 0 16 ≠ 0 ∧ ∀ i, i < 5 → (w 8).extractLsb' (4 * i) 4 ≠ 0

/-- The CAUSE of the first of the checks 2 to 8 of R287 that an INTRO record fails, given that one does and that check 1 passes. -/
def introCause (w : Nat → BitVec 32) : BitVec 32 :=
  let kind := (w 1).extractLsb' 0 2
  let tracked := (w 2).extractLsb' 0 17
  let tags := (w 3).extractLsb' 0 13
  if (w 0).getLsbD 2 = false ∧ (w 0).getLsbD 3 = false then 1
  else if kind ≠ 1 ∧ kind ≠ 2 then 3
  else if 65536 < tracked.toNat ∨ (kind = 1 ∧ tracked = 0) ∨ (kind = 2 ∧ tracked ≠ 0) then 4
  else if tags = 0 ∨ 4096 < tags.toNat then 5
  else if (w 4).extractLsb' 0 3 = 0 then 2
  else if (w 7).extractLsb' 0 16 = 0 then 6
  else 7

/-- An upward packet, its check bits sound, comes in at a port whose dual-clock queues are empty. -/
def State.arrives (s : State) (n : Nat) (f : UpFlits) : Prop :=
  s.portActs n ∧ f.hd = .ok ∧ f.dat = .ok ∧ f.chan ∈ [cREQ, cWBK, cRSP, cDAT, cMGT] ∧ (s.port n).rst = false ∧ (s.port n).hsPend = false ∧
  0 < (s.port n).upHeld.getD f.chan 0 ∧ f.chan < (s.port n).upHeld.length ∧ f.chan < (s.port n).upFreed.length ∧
  s.routerFrozen (s.build.leafOf n) = false ∧ s.slotBr n < 2 ∧ (s.port n).lstate ≠ .dead ∧ (s.port n).lstate ≠ .down ∧
  (s.port n).upq = []

/-! ### Registers -/

/-- A store of a ring changes nothing but one violation's marks (R395, R396): VIOL, EZ_VIOL, EZ_VLAST and source 24. -/
def Violated (s t : State) (ring kind : Nat) : Prop :=
  SameBase s t ∧ SamePins s t ∧ SameTree s t ∧ SameHomes s t ∧ SameObs s t ∧ t.ep = s.ep ∧ t.ez.loc = s.ez.loc ∧
  t.ez.events = s.ez.events ∧ t.ez.ops = s.ez.ops ∧ (∀ n, SameRegs (s.ctx n) (t.ctx n)) ∧ (t.ctx ring).viol = true ∧
  t.w6g 0xA1008 = ctrAdd (s.w6g 0xA1008) 1 ∧ (t.w6g 0xA1010).toNat / 2 ^ 60 = ring ∧
  (t.w6g 0xA1010).toNat / 2 ^ 48 % 2 ^ 12 = kind ∧ (t.w6g 0xA1010).toNat % 2 ^ 32 = (s.ctx ring).ipc.toNat % 2 ^ 32 ∧
  (∀ o, o ≠ 0xA1008 → o ≠ 0xA1010 → t.w6g o = s.w6g o) ∧ t.host.irqStatS = s.host.irqStatS ||| (1#25 <<< 24)

/-- What a register store that takes effect leaves as it was beside the part it names. -/
def StoreFrame (s t : State) : Prop :=
  SameBase s t ∧ SamePins s t ∧ t.host = s.host ∧ t.net = s.net ∧ t.tr = s.tr ∧ t.rs = s.rs ∧ t.ez.ctx = s.ez.ctx ∧
  t.ez.events = s.ez.events ∧ t.ez.loc = s.ez.loc ∧ t.ez.ops = s.ez.ops

/-- A violation at the control port and nothing else (R529): DRV_CP_VIOL counts it, saturating, and the VIOL source is raised. -/
def State.cpViolated (s : State) : State :=
  { (s.noteSet (kIrqS 24)) with host := { s.host with
    cpViol := (if s.host.cpViol = BitVec.allOnes 32 then s.host.cpViol else s.host.cpViol + 1)
    irqStatS := s.host.irqStatS ||| (1#25 <<< 24) } }

/-! ### The tree -/

/-- Candidate `w` comes before `c` at output `o`, whatever input it served last (R203): MGT first, then a head that this output has
passed over 8 times, then the lower PRIO, then the class order RSP, DAT, SNP, WBK, REQ. -/
def Beats (o : HopOut) (w c : Cand) : Prop :=
  let mgt (x : Cand) : Prop := x.k.hdr.cls = cMGT
  let late (x : Cand) : Prop := 8 ≤ skipsAt x.k o
  let rank (x : Cand) : Nat := [cRSP, cDAT, cSNP, cWBK, cREQ].idxOf x.k.hdr.cls
  (mgt w ∧ ¬ mgt c) ∨
  ((mgt w ↔ mgt c) ∧ ((late w ∧ ¬ late c) ∨
    ((late w ↔ late c) ∧ (w.k.hdr.prio < c.k.hdr.prio ∨ (w.k.hdr.prio = c.k.hdr.prio ∧ rank w < rank c)))))

/-- Candidate `w` is the only one that output `o` of a router in service may grant in this HCLK. -/
def State.only (s : State) (o : HopOut) (w : Cand) : Prop :=
  s.live ∧ s.build.ok ∧ s.routerFrozen (routerOut s.build o) = false ∧ s.cands o = [w]

/-- Packet `k` has one target, or is what is left of a multicast whose only part is that of output `o`. -/
def State.lastPart (s : State) (o : HopOut) (k : Packet) : Prop :=
  tgtOf s.build k ≠ .multi ∨ (k.whole = false ∧ k.la = [(o, k.vec)])

/-- Router `r` has put acknowledgement `a` of snoop `k`, and nothing else, among what it answers itself (R193, R303, R475). -/
def Answered (s t : State) (r : Nat) (k a : Packet) : Prop :=
  let c := if k.hdr.cls = cMGT then cMGT else cRSP
  t.q (.synth r) c = s.q (.synth r) c ++ [a] ∧ (∀ d, d < 6 → d ≠ c → t.q (.synth r) d = s.q (.synth r) d) ∧ a.hdr.cls = c ∧
  a.hdr.opc = (if k.hdr.cls = cMGT then 32 + oSnpAck else oSnpAck) ∧ a.hdr.htc = k.hdr.htc ∧ a.hdr.prio = k.hdr.prio

/-- A packet as it stands at the next stage: the same message, captured in this HCLK. -/
def Moved (s : State) (k k' : Packet) : Prop :=
  k'.hdr = k.hdr ∧ k'.data = k.data ∧ k'.be = k.be ∧ k'.vec = k.vec ∧ k'.desc = k.desc ∧ k'.aux = k.aux ∧ k'.capt = s.clk.cyc ∧
  k'.skips = []

/-- Router `r` holds one combining entry of this HTC, `e` (R194, R196). -/
def State.combHas (s : State) (r : Nat) (e : Comb) : Prop :=
  e ∈ (s.router r).comb ∧ ∀ y ∈ (s.router r).comb, y.htc = e.htc → y = e

/-! ### Homes -/

/-- The HTCs of panel `p` but `i` stay. -/
def OtherHtcs (s t : State) (p i : Nat) : Prop := ∀ j, j ≠ i → smFind (t.panel p).htcs j = smFind (s.panel p).htcs j

/-- The directory and the Palette of panel `p` stay. -/
def SameArrays (s t : State) (p : Nat) : Prop := (t.panel p).dir = (s.panel p).dir ∧ (t.panel p).pal = (s.panel p).pal

/-- Panel `p` has put exactly `ks` into its output register. -/
def Sent (s t : State) (p : Nat) (ks : List Packet) : Prop := (t.panel p).outq = (s.panel p).outq ++ ks

/-- Panel `p` has queued exactly `q` for the memory ports, at port `m`. -/
def Issued (s t : State) (p m : Nat) (q : MemReq) : Prop :=
  smGet [] (t.panel p).memOut m = smGet [] (s.panel p).memOut m ++ [q] ∧
  ∀ n, n ≠ m → smGet [] (t.panel p).memOut n = smGet [] (s.panel p).memOut n

/-- A response to the agent of header `h`, with its TAG (R76). -/
def Answers (a : Packet) (h : Hdr) (cls opc : Nat) : Prop :=
  a.hdr.cls = cls ∧ a.hdr.opc = opc ∧ a.hdr.dst = h.src ∧ a.hdr.tag = h.tag ∧ a.hdr.addr = h.addr ∧ a.hdr.world = h.world ∧
  a.hdr.part = h.part

/-- An MRd or MWr of a whole line. -/
def LineMsg (q : MemReq) (mopc line : Nat) (own : MOwner) : Prop :=
  q.mopc = mopc ∧ q.line = line ∧ q.size = 6 ∧ q.off = 0 ∧ q.own = own

/-- HTC `i` of panel `p` is the request of packet `k`, fresh from D0, it has reached D2, and it alone has; the panel is calm. -/
def State.atD2 (s : State) (p i : Nat) (h : Htc) (k : Packet) : Prop :=
  (s.panel p).calm ∧ smFind (s.panel p).htcs i = some h ∧ (∀ e ∈ (s.panel p).htcs, e.1 ≠ i → e.2.undecided = false) ∧
  (s.px p {}).due i h = true ∧ h.pool ≠ 2 ∧
  h = { job := .req, pool := h.pool, phase := .decide, seq := h.seq, acc := h.acc, start := h.start, pkt := k, line := k.hdr.addr,
        comet := h.comet, stamps := h.stamps, missed := h.missed }

/-- Panel `p` serves request `k` at the D2 of HTC `i`: its line lies in the coherent region `r` of the lookaside, the checks of R221
pass, a data-buffer line is free, its set is not swept and reads as `es`, and only HTC `i` reads it as it does. -/
def State.decides (s : State) (p i : Nat) (h : Htc) (k : Packet) (r : Attr) (es : Nat → Ent) : Prop :=
  let x := s.px p {}
  s.atD2 p i h k ∧ decodeIn (s.panel p).look (k.hdr.addr * 64) = some r ∧ r.kind = 0 ∧ x.check k.hdr (some r) = .serve ∧
  (s.hash k.hdr.addr).set ∉ (s.panel p).sweeping ∧ x.bufFree = true ∧ s.setReads p (s.hash k.hdr.addr).set es

/-- No way of the set names the line of `k`, no other HTC than `i` holds a way of the set, and `w` is the first free way. -/
def State.untracked (s : State) (p i : Nat) (k : Packet) (es : Nat → Ent) (w : Nat) : Prop :=
  let hm := s.hash k.hdr.addr
  (∀ v, v < 16 → (es v).st ≠ 0 → (es v).tag ≠ hm.tag) ∧ w < 16 ∧ (es w).st = 0 ∧ (∀ v, v < w → (es v).st ≠ 0) ∧
  ∀ v, v < 16 → (s.px p {}).wayHeld i hm.set v = false

/-- Way `w` names the line of `k`, and no way before it does. -/
def State.tracked (s : State) (k : Packet) (es : Nat → Ent) (w : Nat) : Prop :=
  let hm := s.hash k.hdr.addr
  w < 16 ∧ (es w).st ≠ 0 ∧ (es w).tag = hm.tag ∧ ∀ v, v < w → (es v).st = 0 ∨ (es v).tag ≠ hm.tag

/-- The snoops `qs` that HTC `i` of panel `p` sends about a line: one to owner `a` with an opcode and a MODE, and SnpInv to the agents of
`inv`, one by name and more as a multicast (R82, R117, R132). -/
def Snoops (p i line a : Nat) (ow : Option (Nat × Nat)) (inv : Vec) (qs : List Packet) : Prop :=
  let snp (q : Packet) (opc mode : Nat) : Prop := q.hdr.cls = cSNP ∧ q.hdr.opc = opc ∧ q.hdr.marks = mode ∧ q.hdr.addr = line ∧
    q.hdr.htc = p * 1024 + i
  ∃ xs ys, qs = xs ++ ys ∧ (ow = none → xs = []) ∧ (∀ o, ow = some o → ∃ q, xs = [q] ∧ snp q o.1 o.2 ∧ q.hdr.dst = a) ∧
    (popc inv = 0 → ys = []) ∧
    (popc inv ≠ 0 → ∃ q, ys = [q] ∧ snp q oSnpInv 0 ∧ (popc inv = 1 → q.hdr.dst = (lowest inv).getD 0) ∧
      (popc inv ≠ 1 → q.hdr.dst = nMulti ∧ q.vec = inv))

/-- The row that a RdU, Upg, RdO, WrU or AtP takes for a line in S-pal (STATE 5) or O-pal (7, owner `a`) with holders `v` and requester
`r`: the owner's snoop with its MODE, who gets SnpInv, and whether memory is read (R117, R119 to R123). -/
def palRow (opc st a r : Nat) (v : Vec) : Option (Nat × Nat) × Vec × Bool :=
  let owned := st = 7
  let o : Vec := if owned then vbit a else 0
  let opc := if opc = oUpg ∧ v.getLsbD r = false ∧ ¬ (owned ∧ a = r) then oRdU else opc
  if opc = oRdU then (if owned then some (oSnpU, 0) else none, v &&& ~~~(o ||| vbit r), decide (st = 5))
  else if opc = oUpg then (if owned ∧ a ≠ r then some (oSnpU, 1) else none, v &&& ~~~(o ||| vbit r), false)
  else if opc = oRdO then (if owned then some (oSnpS, 3) else none, 0, decide (st = 5))
  else (if owned then some (oSnpU, 1) else none, v &&& ~~~o, decide (opc = oAtP ∧ st = 5))

/-- The snoop that a RdS sends the owner of a line whose vector it widens (R117): KEEP to an owner with owned state, and to any in O;
PASS for a requester with it; HOME for a line in U-dirty. A line in S has no owner. -/
def rdsRow (st : Nat) (ownOw ownRq : Bool) : Option (Nat × Nat) :=
  if st = 4 ∨ st = 5 then none
  else if ownOw = true ∨ st = 6 ∨ st = 7 then some (oSnpS, 0)
  else if ownRq = true then some (oSnpS, 1)
  else some (oSnpS, 2)

/-- The snoops of a narrowing (R125) and of a victim's recall (R124) for a line in `st` with owner `a` and holders `v`. -/
def narrowRow (st a : Nat) (v : Vec) : Option (Nat × Nat) × Vec :=
  if st = 4 ∨ st = 5 then (none, v) else (some (oSnpU, 1), if st = 7 then v &&& ~~~(vbit a) else 0)

/-- The recall of a victim (R124): a narrowing's snoops, but for a unicast SnpInv to a holder in U-clean, and none for a line in H. -/
def recallRow (st a : Nat) (v : Vec) : Option (Nat × Nat) × Vec :=
  if st = 2 then (some (oSnpInv, 0), 0) else if st = 8 then (none, 0) else narrowRow st a v

/-- Victim `e` in way `w` comes before `f` in way `x` (R55): S-solo, S-pal, U and O, H; then the higher AGE; then the lower way. -/
def Sooner (e f : Ent) (w x : Nat) : Prop :=
  let cls (e : Ent) : Nat := [[4], [5], [1, 2, 3, 6, 7], [8]].findIdx fun l => decide (e.st ∈ l)
  cls e < cls f ∨ (cls e = cls f ∧ (f.age < e.age ∨ (f.age = e.age ∧ w < x)))

/-- No way of the set names the line of `k` and none is free; of those that no HTC holds and whose line is not busy, way `w` is the one
that R55 chooses, which names line `line`. -/
def State.chooses (s : State) (p i : Nat) (k : Packet) (es : Nat → Ent) (w line : Nat) : Prop :=
  let hm := s.hash k.hdr.addr
  let may (v : Nat) : Prop := v < 16 ∧ (es v).st ≠ 0 ∧ (s.px p {}).wayHeld i hm.set v = false ∧
    (s.px p {}).lineBusy (s.unhash p hm.set (es v).tag) = false
  (∀ v, v < 16 → ((es v).st ≠ 0 ∧ (es v).tag ≠ hm.tag) ∨ ((es v).st = 0 ∧ (s.px p {}).wayHeld i hm.set v = true)) ∧ may w ∧
  (∀ v, v ≠ w → may v → Sooner (es w) (es v) w v) ∧ line = s.unhash p hm.set (es w).tag

/-- The holders of entry `e` of panel `p` are `v` and those that its Palette slot, trusted and in force, reads as, which are two or more,
the owner of an O-pal line not alone (R51, R57). -/
def State.holds (s : State) (p : Nat) (e : Ent) (v : Vec) : Prop :=
  (e.st ∈ [1, 2, 3, 4, 6] → v = vbit e.agent) ∧ (e.st = 8 → v = 0) ∧
  (e.st = 5 ∨ e.st = 7 → ∃ x, s.slotReads p e.pal x ∧ x.lost = false ∧ x.uncnt = false ∧ x.valid = true ∧ 1 ≤ x.ref ∧ x.vec = v ∧
    2 ≤ popc v ∧ (e.st = 7 → v.getLsbD e.agent = true))

/-- The result of an atomic (R101). -/
def atpRule {n : Nat} (op : Nat) (old opd cmp : BitVec n) : BitVec n :=
  match op with
  | 0 => opd
  | 1 => if old = cmp then opd else old
  | 2 => old + opd
  | 3 => old &&& opd
  | 4 => old ||| opd
  | 5 => old ^^^ opd
  | 6 => if old.slt opd then opd else old
  | 7 => if opd.slt old then opd else old
  | 8 => if old.ult opd then opd else old
  | _ => if opd.ult old then opd else old

/-- The atomic of packet `k` turns line `l` into `m`, and `d` is the line that its requester gets: the old value at byte 0, zero beyond
(R101, R103). -/
def Atomic (k : Packet) (l m d : BitVec 512) : Prop :=
  let n := 8 * 2 ^ k.hdr.size
  let lo := 8 * (k.hdr.htc % 64)
  m.extractLsb' lo n = atpRule (k.hdr.htc / 1024) (l.extractLsb' lo n) (k.data.extractLsb' 0 n) (k.data.extractLsb' 64 n) ∧
  (∀ b, b < 512 → b < lo ∨ lo + n ≤ b → m.getLsbD b = l.getLsbD b) ∧ d = (l.extractLsb' lo n).setWidth 512

/-- Panel `p` accepts eviction `k` of a line that no HTC holds, in the coherent region `r` of its lookaside, from an admitted
caching agent that the region's world lets in; the set of the line reads as `es`. -/
def State.evicts (s : State) (p : Nat) (k : Packet) (r : Attr) (es : Nat → Ent) : Prop :=
  let x := s.px p {}
  x.wbkTurn = some k ∧ decodeIn (s.panel p).look (k.hdr.addr * 64) = some r ∧ r.kind = 0 ∧ x.admitted k.hdr = true ∧
  s.build.inSpan k.hdr.addr = true ∧ ¬ (k.hdr.world = 1 ∧ r.world = 0) ∧ (s.portOf k.hdr.src).mode.kind = 1 ∧
  (∀ e ∈ (s.panel p).htcs, e.2.onLine k.hdr.addr = false) ∧ (s.hash k.hdr.addr).set ∉ (s.panel p).sweeping ∧
  s.setReads p (s.hash k.hdr.addr).set es

/-- An HTC's record of panel `p` was found uncorrectable (R438): the panel is frozen as it stood, and DRV_FATAL declared. -/
def FatalHtc (s t : State) (p : Nat) : Prop :=
  t.clk.fatal = true ∧ t.clk.fatalRows.getLsbD 2 = true ∧ t.clk.frozenPanels.getLsbD p = true ∧ SameBase s t ∧ t.outs = s.outs ∧
  (∀ q, t.panel q = s.panel q) ∧ t.mps = s.mps ∧ t.ports = s.ports ∧ t.routers = s.routers ∧
  (s.clk.fatal = false → t.host.irqStatS.getLsbD 21 = true)

/-- Memory port `m` has faulted with a cause (R327): it is frozen, and DRV_FATAL declared. -/
def FatalPort (s t : State) (m cause : Nat) : Prop :=
  (t.mp m).cause = cause ∧ t.clk.fatal = true ∧ t.clk.fatalRows.getLsbD 4 = true ∧ SameBase s t ∧ SameTree s t ∧
  t.panels = s.panels ∧ t.outs = s.outs ∧ (∀ n, n ≠ m → t.mp n = s.mp n) ∧ (s.clk.fatal = false → t.host.irqStatS.getLsbD 21 = true)

/-- Memory port `m` in service has a request `q` waiting for the sound answer `r`, whose header its buffers kept (R316, R320, R407). -/
def State.awaits (s : State) (m : Nat) (r : MemResp) (q : MemReq) : Prop :=
  s.mpActs m ∧ (s.mp m).svc = true ∧ r.hdrPerr = false ∧ r.gap = false ∧ r.hd = .ok ∧ smFind (s.mp m).tags r.mtag = some q

/-- Memory port `m` has taken the answer: its MTAG is free, its credit goes back, and no other port, nor the tree, changes. -/
def Returned (s t : State) (m : Nat) (r : MemResp) : Prop :=
  smFind (t.mp m).tags r.mtag = none ∧ (∀ j, j ≠ r.mtag → smFind (t.mp m).tags j = smFind (s.mp m).tags j) ∧
  (∀ n, n ≠ m → t.mp n = s.mp n) ∧ t.outs = s.outs ++ [.memCredit m] ∧ SameBase s t ∧ SameTree s t ∧ t.rgn = s.rgn ∧
  t.clk = s.clk

/-! ### Invariants of every step -/

/-- The control state is legal: the profile is one of R35, a ring has at most 2^12 slots (R382), a memory port holds at most
64 credits (R316), PRIO is 1, 2 or 3 (R202), and a fatal error that is recorded is declared (R439). -/
def State.legal (s : State) : Prop :=
  s.host.prof ≠ 3 ∧ (∀ n, (s.ring n).size.toNat ≤ 12) ∧ (∀ m, (s.mp m).credits ≤ 64) ∧
  (∀ n, 1 ≤ (s.port n).prio ∧ (s.port n).prio ≤ 3 ∧ ∀ v, (s.port n).prioPend = some v → 1 ≤ v ∧ v ≤ 3) ∧
  (s.clk.fatalRows ≠ 0 → s.clk.fatal = true)

/-- Every table that holds an addressed array of words outside the panels is in its canonical form: indices strictly rising, and where
an unwritten word has a known value, no entry equal to it. A panel's tables (directory ways, Palette codewords, HTCs, proxy slots,
lost lines, writes under way, queues to memory) and the queues of the tree are left out: this invariant says nothing of
them. An unwritten directory or Palette word has no known value that an entry could be equal to, and the rest hold what is in work, which
is not memory. -/
def State.canonical (s : State) : Prop :=
  smSorted s.ez.loc = true ∧ smSorted s.ep.sram = true ∧ smSorted s.rgn = true ∧ smSorted s.w4 = true ∧ smSorted s.w6 = true ∧
  (∀ e ∈ s.rgn, e.2 ≠ rgnReset s.build.p e.1) ∧ (∀ e ∈ s.w4, e.2 ≠ w4Reset e.1) ∧ (∀ e ∈ s.w6, e.2 ≠ w6Reset e.1)

/-- What stays set until the next block reset: a fatal error with its rows, the locks, the profile, the Easel's enable with its
boot port (R37, R392, R439, R538). -/
def StaysSet (s t : State) : Prop :=
  (s.clk.fatal = true → t.clk.fatal = true) ∧ (∀ i, s.clk.fatalRows.getLsbD i = true → t.clk.fatalRows.getLsbD i = true) ∧
  (∀ i, s.host.locks.getLsbD i = true → t.host.locks.getLsbD i = true) ∧
  (s.host.prof ≠ 0 → t.host.prof = s.host.prof) ∧
  (s.host.bootEn = true → t.host.bootEn = true ∧ t.host.bootPort = s.host.bootPort)

end Sys2Proof.Machine
end

