-- ==== Sys2Proof/Certificates/Slice0/Obligations.lean ====
section
/-! DEFINITION. The statements for the provers. -/

open Sys2Proof Sys2Proof.Machine

/-! ### The queue, the clock and the invariants -/

/-- A step with a command at the front of the queue is that command's effect on the state with the queue's rest. -/
def Obligations.StepRunsFrontCommand : Prop :=
  ∀ (c : Instr) (rest : List Instr) (s : State), step { s with pending := c :: rest } = exec c { s with pending := rest }

/-- A step with no command is one HCLK (the model's choice, log entry 2): CYC counts, and at a KCLK edge the interrupt outputs
follow their sources and masks (R544), as they stand once what this HCLK ends has been done, which is nothing to them where nothing
waits for its end; in reset nothing changes. -/
def Obligations.EmptyQueueStepIsOneHclk : Prop :=
  ∀ s : State, s.pending = [] →
    (s.clk.inReset = true → step s = .next s) ∧
    (s.clk.inReset = false → ∃ t, step s = .next t ∧ t.pending = [] ∧ t.build = s.build ∧ t.nonce = s.nonce ∧
      t.clk.cyc = s.clk.cyc + 1 ∧ t.clk.inReset = false ∧ t.clk.initBusy = s.clk.initBusy ∧ t.clk.time = s.clk.time ∧
      Drives s t s.hclkEnd.host ∧ (s.calm → Drives s t s.host))

/-- The values that the spec gives the machine at reset (R35, R202, R213, R215, R296, R305, R316, R345, R346, R368, R381, R392,
R416, R441, R480, R499, R500, R538, R543). -/
def Obligations.ResetValues : Prop :=
  let s := State.reset
  s.clk.cyc = 0 ∧ s.clk.initBusy = true ∧ s.clk.fatal = false ∧ s.clk.fatalRows = 0 ∧ s.host.prof = 0 ∧ s.host.bootEn = false ∧
  s.host.locks = 0 ∧ s.host.irqStatS = 0 ∧ s.host.irqMaskS = 0 ∧ s.host.irqStatNs = 0 ∧ s.host.irqMaskNs = 0 ∧
  s.host.bist = 0 ∧ s.host.warnSeen = false ∧ s.ez.events = 0 ∧ s.ez.ops = [] ∧
  (∀ n, (s.port n).lstate = .down ∧ (s.port n).prio = 2 ∧ (s.port n).hbWin = 0x493E0#20 ∧ (s.port n).shold = false ∧
    (s.port n).pebk = 0x1C#64 ∧ (s.port n).peLevel = 0 ∧ (s.port n).protoErr = 0 ∧ (s.port n).eclAck = false) ∧
  (∀ r, (s.router r).epoch = 0 ∧ (s.router r).flushWait = 0x100#10 ∧ (s.router r).snpdl = 0x4000#20 ∧
    ∀ i, smGet 0 (s.router r).routes i = 0) ∧
  (∀ n, (s.ring n).tail = 0 ∧ (s.ring n).head = 0 ∧ (s.ring n).base = 0 ∧ (s.ring n).size = 0 ∧ (s.ring n).err = false) ∧
  (∀ n i, (s.ctx n).gr i = 0 ∧ (s.ctx n).pc = 0 ∧ (s.ctx n).flags = 0 ∧ (s.ctx n).rc = 0) ∧
  (∀ q, q < 64 → s.ptSit q = 0x100#64) ∧ s.w6g 0xA1200 = 0x17D7#64 ∧ s.w6g 0x80000 = 0x8888888888888888#64 ∧
  s.w6g 0x90040 = 0x10001C#64 ∧ (∀ p, p < 16 → s.w4g (0x100 * p + 8) = 0xA#64 ∧ s.w4g (0x100 * p + 0x10) = 1) ∧
  (∀ m, (s.mp m).credits = 0 ∧ (s.mp m).cause = 0 ∧ (s.mp m).lfsr = 1)

/-- The invariants hold at reset. -/
def Obligations.InvariantsAtReset : Prop :=
  State.reset.legal ∧ State.reset.canonical

/-- Every step keeps the control state legal (R35, R202, R316, R382, R439). -/
def Obligations.LegalKeptByEveryStep : Prop :=
  ∀ s t : State, s.legal → step s = .next t → t.legal

/-- Every step keeps the addressed tables outside the panels in their canonical form: the local store, the Ephemeris SRAM, the region
tables and the registers. The panels' directory ways, Palette codewords, HTCs and further tables are no part of it. -/
def Obligations.CanonicalFormKeptByEveryStep : Prop :=
  ∀ s t : State, s.canonical → step s = .next t → t.canonical

/-- R37, R392, R439, R538: until the next block reset no command, and no HCLK without one, clears a fatal error, a lock, the profile
or the Easel's enable; a later PROFILE leaves the profile unchanged and completes with a failure status. -/
def Obligations.OnlyBlockResetClearsStickyState : Prop :=
  (∀ (c : Instr) (s t : State), c ≠ .blockRstAssert → exec c s = .next t → StaysSet s t) ∧
  (∀ s t : State, s.pending = [] → step s = .next t → StaysSet s t) ∧
  ∀ (f : Fld) (s : State) (r : Nat) (w : BitVec 64), s.runs r 0x34 f → r < 8 → s.ez.ops = [] →
    s.operands r (iterEa (s.ctx r) f 8) [w] → s.host.prof ≠ 0 →
    ∃ t o, exec (.ezProfile f) s = .next t ∧ t.host.prof = s.host.prof ∧ t.ez.ops = [o] ∧ o.ring = r ∧ o.status = some 2

/-! ### Resets and clocks -/

/-- R479, R481, R483: BLOCK_RST_N puts every register at its reset value, the inputs of the Easel with them; the pins keep their levels,
and the arrays hold no defined value. That the test wrapper too stays as it is, is the model's choice (log entry 40).
R282, R453, R479, R483, R487: at the release CYC restarts, WDOG_CAUSE and MP_PSN_CAP are sampled, the block's side of each port
inverts its RESYNC_REQ, and a supply warning that stands is captured; out of reset the command does nothing. -/
def Obligations.BlockResetAndRelease : Prop :=
  (∀ s : State, ∃ t, exec .blockRstAssert s = .next t ∧ t.pending = s.pending ∧ t.build = s.build ∧ t.nonce = s.nonce + 1 ∧
      t.outs = s.outs ∧ t.host = {} ∧ t.ez = {} ∧ t.rgn = [] ∧ t.routers = [] ∧ t.panels = [] ∧ t.rs = {} ∧ t.ep = {} ∧ t.tr = {} ∧
      t.w4 = [] ∧ t.w6 = [] ∧ t.net.qs = [] ∧ t.net.owed = [] ∧ t.net.ebars = [] ∧ t.net.ezMgt = [] ∧ t.net.rsMgt = [] ∧ t.clk.inReset = true ∧ t.clk.fatal = false ∧
      t.clk.fatalRows = 0 ∧ t.clk.frozenPanels = 0 ∧ t.clk.frozenRoot = false ∧ t.clk.frozenRouters = [] ∧ t.clk.initBusy = true ∧
      t.clk.warnPin = s.clk.warnPin ∧ t.clk.cpRst = s.clk.cpRst ∧ t.clk.tpRst = s.clk.tpRst ∧ t.clk.tsRst = s.clk.tsRst ∧
      t.clk.cpSvc = false ∧ t.clk.tpSvc = false ∧ t.clk.tsSvc = false ∧
      t.clk.wir = s.clk.wir ∧ t.clk.twRst = s.clk.twRst ∧ t.clk.bypass = s.clk.bypass ∧ t.clk.cellsOpen = s.clk.cellsOpen ∧
      t.clk.cells = s.clk.cells ∧
      t.clk.wso = s.clk.wso ∧ t.clk.wpo = s.clk.wpo ∧
      (∀ n, (t.port n).lstate = .down ∧ (t.port n).rst = (s.port n).rst ∧ (t.port n).psnp = [] ∧ (t.port n).prio = 2 ∧
        (t.port n).eclReq = false ∧ (t.port n).hsPend = true ∧ (t.port n).upq = []) ∧
      (∀ m, (t.mp m).rst = (s.mp m).rst ∧ (t.mp m).svc = false ∧ (t.mp m).credits = 0 ∧ (t.mp m).cause = 0 ∧ (t.mp m).tags = []) ∧
      ∀ b, (t.br b).bstate = 0 ∧ (t.br b).eclReq = false ∧ (t.br b).shold = false) ∧
  (∀ (wdog : Bool) (cap : BitVec 8) (s : State),
      (s.clk.inReset = false → exec (.blockRstRelease wdog cap) s = .next s) ∧
      (s.clk.inReset = true → ∃ t, exec (.blockRstRelease wdog cap) s = .next t ∧ t.pending = s.pending ∧ t.build = s.build ∧
        t.clk.inReset = false ∧ t.clk.initBusy = true ∧ t.clk.cyc = 0 ∧ t.clk.wdog = wdog ∧ t.net = s.net ∧
        t.ports = s.ports.map (fun e => (e.1, { e.2 with rlReq := !e.2.rlReq })) ∧
        (∀ m, m < s.build.memPorts → (t.mp m).psnCap = cap.getLsbD m ∧ (t.mp m).rst = (s.mp m).rst ∧ (t.mp m).credits = (s.mp m).credits) ∧
        (s.clk.warnPin = true → t.host.warnSeen = true ∧ t.ez.events.getLsbD 2 = true ∧ t.host.irqStatS.getLsbD 18 = true) ∧
        (s.clk.warnPin = false → t.host = s.host ∧ t.ez = s.ez)))

/-- R480, R483, R290: the initialisation ends 4,096 HCLK after reset, not before; then a port in DOWN whose crossing is in
service enters INTRODUCE with LINK_UP and the partner's first credits, here where no eclipse request waits. -/
def Obligations.InitialisationEndsAndAttachesPorts : Prop :=
  ∀ s : State, s.live →
    (s.clk.initBusy = false ∨ s.clk.cyc < 4096 → exec .initialisationComplete s = .next s) ∧
    (s.clk.initBusy = true → 4096 ≤ s.clk.cyc → (∀ n, (s.port n).risePend = none) → (∀ b, (s.br b).risePend = false) →
      ∃ t, exec .initialisationComplete s = .next t ∧ t.clk.initBusy = false ∧ t.clk.cyc = s.clk.cyc ∧ t.net = s.net ∧
        ∀ n, t.port n =
          if (s.port n).lstate = .down ∧ (s.port n).rst = false ∧ (s.port n).hsPend = false ∧ s.slotBr n = 0 then
            { s.port n with lstate := .introduce, upHeld := [8, 4, 0, 16, 4, 2], upFreed := [0, 0, 0, 0, 0, 0] }
          else s.port n) ∧
    (s.clk.initBusy = true → 4096 ≤ s.clk.cyc → ∃ t, exec .initialisationComplete s = .next t ∧ t.clk.initBusy = false)

/-- R463, R488, R492: each side's reset takes its crossing out of service, its release and the handshake bring it back; a time
value is taken only while the time crossing is in service; the debug enables follow their pins.
R553, R555: WIR_UPDATE loads the WIR; with WS_BYPASS and WS_CLAMP the bypass register drives TW_WSO, and WS_MBIST leaves no defined value
in any SRAM array; TW_WRSTN selects WS_BYPASS, opens every cell and puts TW_WSO and TW_WPO at 0. While the cells isolate the block a
heartbeat of a port changes nothing. That TW_WPO is 0 for every loaded WIR but WS_INTEST_SCAN, WS_MBIST too, that the update shows TW_WRSTN
released, that the WIR takes it then, that the other values of TW_WSO and TW_WPO and what the cells hold under WS_EXTEST and
WS_INTEST_SCAN are free, and that only WS_MBIST changes the block, is the model's choice (log entry 42). -/
def Obligations.SideResetsTimeAndTestWrapper : Prop :=
  (∀ s : State, s.live →
      exec .cpRstAssert s = .next { s with clk := { s.clk with cpRst := true, cpSvc := false } } ∧
      exec .tsRstAssert s = .next { s with clk := { s.clk with tsRst := true, tsSvc := false } } ∧
      exec (.crossingResetRelease .cp) s = .next { s with clk := { s.clk with cpRst := false } } ∧
      exec (.crossingResetRelease .tp) s = .next { s with clk := { s.clk with tpRst := false } } ∧
      exec (.crossingResetRelease .ts) s = .next { s with clk := { s.clk with tsRst := false } } ∧
      (∀ n, n < s.build.slots → exec (.crossingResetRelease (.agent n)) s = .next (s.modPort n fun x => { x with rst := false, rsReq := x.rsReq ^^ x.rst })) ∧
      (∀ m, m < s.build.memPorts → exec (.crossingResetRelease (.mem m)) s = .next (s.modMp m fun x => { x with rst := false })) ∧
      (s.clk.cpRst = false → exec (.handshakeComplete .cp) s = .next { s with clk := { s.clk with cpSvc := true } }) ∧
      (s.clk.tpRst = false → exec (.handshakeComplete .tp) s = .next { s with clk := { s.clk with tpSvc := true } }) ∧
      (s.clk.tsRst = false → exec (.handshakeComplete .ts) s = .next { s with clk := { s.clk with tsSvc := true } }) ∧
      (∀ v, exec (.timeValueTaken v) s = .next (if s.clk.tsSvc then { s with clk := { s.clk with time := v } } else s)) ∧
      (∀ a b, exec (.debugEnableChange a b) s = .next { s with clk := { s.clk with dbgS := a, dbgNs := b } }) ∧
      (∃ t, exec .tpRstAssert s = .next t ∧ t.clk.tpRst = true ∧ t.clk.tpSvc = false ∧ t.tr.words = [] ∧
        t.tr.owed = s.tr.owed + (s.tr.words.filter fun e => e.2.1).length ∧ SameTree s t ∧ SameHomes s t ∧ t.host = s.host ∧
        ((s.tr.words.filter fun e => e.2.1) ≠ [] → smGet 0 s.st4 0x6008 ≠ s.clk.cyc / 8 + 1 → (t.w4g 0x6008).toNat % 2 ^ 48 =
          ((s.w4g 0x6008).toNat % 2 ^ 48 + (s.tr.words.filter fun e => e.2.1).length) % 2 ^ 48))) ∧
  ((∀ (w : BitVec 4) (s : State), w ≠ 4 → ∃ so po held,
      exec (.wirUpdate w) s = .next { s with clk := { s.clk with
        wir := w, twRst := false, cells := held, cellsOpen := decide (w ∉ [1#4, 2#4, 3#4]), wso := so, wpo := po,
        loads := s.clk.loads + 1 } } ∧
      (w ∉ [1#4, 3#4] → so = s.clk.bypass ∧ held = s.clk.cells) ∧ (w ≠ 3 → po = 0)) ∧
    (∀ (w : BitVec 4) (s : State) (n : Nat) (k : LinkWord), w ∈ [1#4, 3#4] →
      ∃ t, exec (.wirUpdate w) s = .next t ∧ exec (.heartbeat n k) t = .next t) ∧
    (∀ s : State, ∃ t so, exec (.wirUpdate 4) s = .next t ∧
      t.clk = { s.clk with wir := 4, twRst := false, cellsOpen := true, wso := so, wpo := 0, loads := s.clk.loads + 1 } ∧ t.nonce = s.nonce + 1 ∧
      t.ez.loc = [] ∧ t.ep.sram = [] ∧ (∀ p, (t.panel p).dir = [] ∧ (t.panel p).pal = [] ∧ (t.panel p).htcs = (s.panel p).htcs) ∧
      (∀ i, i < 32 + s.build.p → t.rgnRaw i = Config.freeRgn (s.nonce + 1) i) ∧
      SameTree s t ∧ t.mps = s.mps ∧ t.host = s.host ∧ t.w4 = s.w4 ∧ t.w6 = s.w6) ∧
    ∀ s : State, exec .twWrstnAssert s = .next { s with clk := { s.clk with
      wir := 0, twRst := true, bypass := false, cellsOpen := true, wso := false, wpo := 0 } })

/-! ### Agent ports -/

/-- R276, R282, R290: AP_RST_N takes the crossing out of service with no credit on either side; what becomes of the link state
is said for each state.
R282, R283, R290, R471, R480: the release inverts RESYNC_REQ; the handshake ends when each side's RESYNC_ACK equals the other's
RESYNC_REQ, with the port's queues discarded. LINK_UP is then sent in DOWN, which becomes INTRODUCE, and in ECLIPSED, and not in DEAD, nor in DOWN during the
initialisation; before the handshake, or while the branch is eclipsed, nothing happens. -/
def Obligations.PortResetAndAttachment : Prop :=
  (∀ (s : State) (n : Nat), s.portActs n →
      ∃ t, exec (.apRstAssert n) s = .next t ∧ OtherPorts s t n ∧ t.panels = s.panels ∧ t.mps = s.mps ∧ t.clk = s.clk ∧
        (t.port n).rst = true ∧ (t.port n).hsPend = true ∧ (t.port n).upHeld = [0, 0, 0, 0, 0, 0] ∧
        (t.port n).dnCrd = [0, 0, 0, 0, 0, 0] ∧
        ((s.port n).lstate = .down → (t.port n).lstate = .down ∧ t.outs = s.outs) ∧
        ((s.port n).lstate = .introduce ∨ (s.port n).lstate = .ready → (t.port n).lstate = .down ∧ t.outs = s.outs) ∧
        ((s.port n).lstate = .admitted → (t.port n).lstate = .dead ∧ (t.port n).cause = 4 ∧
          (t.port n).rstSince = true ∧ t.outs = s.outs ++ [.link n (linkWords [0x84000005#32])]) ∧
        ((s.port n).lstate = .eclipsed → (t.port n).lstate = .eclipsed ∧ (t.port n).rstSince = true ∧ t.outs = s.outs) ∧
        ((s.port n).lstate = .dead → (s.port n).reclaimed = true → (t.port n).lstate = .down) ∧
        ((s.port n).lstate = .dead → (s.port n).reclaimed = false → (t.port n).lstate = .dead ∧ (t.port n).rstSince = true)) ∧
  (∀ (s : State) (n : Nat), s.portActs n →
      let x := s.port n
      exec (.apRstRelease n) s = .next (s.setPort n { x with rst := false, rsReq := x.rsReq ^^ x.rst }) ∧
      (x.rst = true ∨ x.hsPend = false ∨ 2 ≤ s.slotBr n → exec (.handshakeComplete (.agent n)) s = .next s) ∧
      (x.rst = false → x.hsPend = true → s.slotBr n < 2 →
        ∃ t, exec (.handshakeComplete (.agent n)) s = .next t ∧ SameBase s t ∧ OtherPorts s t n ∧ SameHomes s t ∧ t.clk = s.clk ∧
          t.routers = s.routers ∧ t.host = s.host ∧ t.ez = s.ez ∧ (∀ c, c < 6 → t.q (.portDown n) c = []) ∧
          (∀ l c, (∀ d, d < 6 → locKey l c ≠ locKey (.portDown n) d) → t.q l c = s.q l c) ∧
          (t.port n).hsPend = false ∧ (t.port n).rsReq = x.rsReq ∧ (t.port n).rsAck = x.rsReq ∧ (t.port n).rlReq = x.rlReq ∧
          (t.port n).rlAck = x.rlReq ∧ (t.port n).upq = [] ∧
          (x.lstate = .down → s.slotBr n = 0 → s.clk.initBusy = false → (t.port n).lstate = .introduce ∧
            (t.port n).upHeld = [8, 4, 0, 16, 4, 2] ∧ t.outs = s.outs ++ [.link n (linkWords [0x8100000C#32])]) ∧
          (x.lstate = .down → s.slotBr n = 1 ∨ s.clk.initBusy = true → (t.port n).lstate = .down ∧ t.outs = s.outs) ∧
          (x.lstate = .eclipsed → (t.port n).lstate = .eclipsed ∧ t.outs = s.outs ++ [.link n (linkWords [0x8100000C#32])]) ∧
          (x.lstate = .dead → t.port n = { x with hsPend := false, rsAck := x.rsReq, rlAck := x.rlReq, upq := [] } ∧ t.outs = s.outs)))

/-- R285, R287, R288, R290: in INTRODUCE a sound INTRO settles the mode and sends SETTLE with OK 1 and STATE, SETTLE first (the model's
choice, log entry 64); one that fails is answered with SETTLE, OK 0, the CAUSE of the first check that fails, in the order of R287, and its
reserved bits zero, and the state stays; a parity error in word 0, or another TYPE, discards all its words, and so does the port of an
eclipsed branch (R474). -/
def Obligations.IntroSettlesOrFails : Prop :=
  ∀ (s : State) (n : Nat) (head : LinkWord) (body : List LinkWord) (crc : Option LinkWord), s.portActs n → (s.port n).lstate = .introduce →
    (s.port n).rst = false → (s.port n).hsPend = false → (2 ≤ s.slotBr n → exec (.intro n head body crc) s = .next s) ∧
    (s.slotBr n < 2 →
    let words := head :: (body ++ crc.toList)
    let w (i : Nat) : BitVec 32 := (words.getD i {}).word
    let first : Prop := (words.getD 0 {}).par = linkPar (w 0) ∧ (w 0).extractLsb' 24 8 = 2
    let whole : Prop := 16 ≤ words.length ∧ ∀ i, 1 ≤ i → i < 16 → (words.getD i {}).par = linkPar (w i)
    (¬ first → exec (.intro n head body crc) s = .next s) ∧
    (first → introSound w → whole →
      ∃ t r, exec (.intro n head body crc) s = .next t ∧ PortFrame s t n ∧ t.host = s.host ∧ t.ez = s.ez ∧ t.ep = s.ep ∧
        (t.port n).lstate = .ready ∧ (t.port n).intro.take 16 = (List.range 16).map w ∧ (t.port n).maxSit = (w 6).toNat ∧
        (t.port n).mode.version = (if (w 0).getLsbD 3 then 3 else 2) ∧ (t.port n).mode.kind = ((w 1).extractLsb' 0 2).toNat ∧
        (t.port n).mode.beat = (if (w 4).getLsbD 2 then 4 else if (w 4).getLsbD 1 then 2 else 1) ∧
        (∀ i, i < 5 → (t.port n).mode.feats.testBit i = ((w 5).getLsbD i &&
          ((w 0).getLsbD 3 || decide (i = 0) || decide (i = 3)) && (decide ((w 1).extractLsb' 0 2 = 1) || decide (i = 3)))) ∧
        (t.port n).dnCrd = [((w 8).extractLsb' 0 4).toNat, 0, ((w 8).extractLsb' 4 4).toNat, ((w 8).extractLsb' 8 4).toNat,
          ((w 8).extractLsb' 12 4).toNat, ((w 8).extractLsb' 16 4).toNat] ∧
        t.outs = s.outs ++ [.link n (linkWords r), .link n (linkWords [0x84000002#32])] ∧ r.length = 16 ∧ r.getD 0 0 = 0x82000001#32 ∧
        r.getD 1 0 = BitVec.ofNat 32 (t.port n).mode.version ∧ r.getD 2 0 = BitVec.ofNat 32 (t.port n).mode.beat ∧
        r.getD 3 0 = BitVec.ofNat 32 (t.port n).mode.feats ∧ r.getD 4 0 = 0 ∧ r.getD 15 0 = crc32 (r.take 15)) ∧
    (first → ¬ (introSound w ∧ whole) →
      ∃ t r, exec (.intro n head body crc) s = .next t ∧ PortFrame s t n ∧ t.host = s.host ∧ t.ez = s.ez ∧ t.ep = s.ep ∧
        (t.port n).lstate = .introduce ∧ (t.port n).introErr = true ∧ (t.port n).mode = (s.port n).mode ∧
        (t.port n).dnCrd = (s.port n).dnCrd ∧ t.outs = s.outs ++ [.link n (linkWords r)] ∧ r.length = 16 ∧
        r.getD 0 0 = 0x82000000#32 ∧ (r.getD 1 0).toNat < 256 ∧ (r.getD 2 0).toNat < 8 ∧ (r.getD 3 0).toNat < 32 ∧
        r.getD 15 0 = crc32 (r.take 15) ∧
        (¬ whole ∨ crc32 ((List.range 15).map w) ≠ w 15 → r.getD 4 0 = 8) ∧
        (whole → crc32 ((List.range 15).map w) = w 15 → r.getD 4 0 = introCause w)))

/-- R285, R296: in ADMITTED a heartbeat word of TYPE 0x01 whose parity holds restarts the count; a word with a parity error, or of
another TYPE, and a discarded link word, change nothing.
R290, R292, R296, R443, R444, R445: HB_WIN KCLK without a heartbeat, as HB_WIN stands in this KCLK, kill an admitted port at the
KCLK's end with cause 1, SNPDL HCLK (8,192 at
least) with a snoop owed with cause 5, and its reset with cause 4; before its time, neither monitor does anything. -/
def Obligations.HeartbeatAndDeathOfAPort : Prop :=
  (∀ (s : State) (n : Nat) (w : LinkWord), s.portActs n →
      let sound : Prop := w.par = linkPar w.word ∧ w.word.extractLsb' 24 8 = 1
      (sound → (s.port n).lstate = .admitted →
        exec (.heartbeat n w) s = .next (s.setPort n { s.port n with hbStart := s.clk.cyc / 8 })) ∧
      (¬ sound ∨ (s.port n).lstate ≠ .admitted → exec (.heartbeat n w) s = .next s) ∧
      exec (.linkWordDiscarded n) s = .next s) ∧
  (∀ (s : State) (n : Nat), s.portActs n → (s.port n).lstate = .admitted →
      let win := ((s.port n).hbOld.bind fun e => if e.1 = s.clk.cyc / 8 then some e.2 else none).getD (s.port n).hbWin
      let late := s.clk.cyc % 8 = 7 ∧ (s.port n).hbStart + max 1 win.toNat ≤ s.clk.cyc / 8
      let owes := (s.port n).psnp ≠ [] ∧
        (s.port n).dlStart + max 8192 ((s.router (s.build.leafOf n)).snpdlAt s.clk.cyc).toNat ≤ s.clk.cyc
      (late → ∃ t, exec (.heartbeatLapse n) s = .next t ∧ Died s t n 1 ∧ (t.port n).hbLapse = true) ∧
      (¬ late → exec (.heartbeatLapse n) s = .next s) ∧
      (owes → ∃ t, exec (.snoopDeadlineExpiry n) s = .next t ∧ Died s t n 5) ∧
      (¬ owes → exec (.snoopDeadlineExpiry n) s = .next s) ∧
      (∃ t, exec (.apRstAssert n) s = .next t ∧ Died s t n 4))

/-- R298, R299, R301, R389: an eclipse request that SHOLD does not refuse fences an admitted port and is acknowledged at once
elsewhere; its fall cancels the fence unless an ECLIPSE operation holds it.
R299, R387: the fence closes only when it stands, nothing of the port is in flight, no panel holds or names its agent and
no TIvDone is awaited; the port is then ECLIPSED with STATE sent, and an ECLIPSE operation on it that has no status yet ends with 0x01.
R303, R445: the leaf of a port in ECLIPSED or DEAD answers in its place: a snoop with NotHeld, or with Lost where it is SnpS or SnpU and the
port is DEAD; a TIv of the Easel with TIvDone; any other message is discarded, and is a protocol error at an ECLIPSED port. -/
def Obligations.EclipseOfAPort : Prop :=
  (∀ (s : State) (n : Nat), s.portActs n → s.clk.initBusy = false →
      (∀ ns, (s.port n).eclReq = false → ns = true ∧ (s.port n).shold = true →
        exec (.apEclReqRise n ns) s = .next (s.setPort n { s.port n with eclReq := true })) ∧
      (∀ ns, (s.port n).eclReq = false → ¬ (ns = true ∧ (s.port n).shold = true) →
        ∃ t, exec (.apEclReqRise n ns) s = .next t ∧ PortFrame s t n ∧ t.outs = s.outs ∧ t.ez.events = s.ez.events ||| 0x10 ∧
          t.host.irqStatS.getLsbD 23 = true ∧ (t.port n).eclReq = true ∧ (t.port n).lstate = (s.port n).lstate ∧
          ((s.port n).lstate = .admitted → (t.port n).fencing = true ∧ (t.port n).eclAck = (s.port n).eclAck) ∧
          ((s.port n).lstate = .dead → (t.port n).eclAck = (s.port n).reclaimed) ∧
          ((s.port n).lstate ≠ .admitted → (s.port n).lstate ≠ .dead → (t.port n).eclAck = true)) ∧
      (∃ t, exec (.apEclReqFall n) s = .next t ∧ PortFrame s t n ∧ t.outs = s.outs ∧ t.host = s.host ∧ t.ez = s.ez ∧
        (t.port n).eclReq = false ∧ (t.port n).eclAck = false ∧ (t.port n).lstate = (s.port n).lstate ∧
        ((s.port n).eclOp = false → (t.port n).fencing = false) ∧ ((s.port n).eclOp = true → (t.port n).fencing = (s.port n).fencing))) ∧
  (∀ (s : State) (n : Nat), s.portActs n →
      let ready := (s.port n).lstate = .admitted ∧ (s.port n).fencing = true ∧ s.inflight n = 0 ∧
        (∀ p, p < s.build.panels → s.present p (s.port n).agent = false) ∧ s.eclTivOwed n = false
      let ended : State := { s with ez := { s.ez with ops := s.ez.ops.map fun o =>
        if o.opc = 0x2D ∧ o.started = true ∧ o.status = none ∧ o.word 0 % 512 = n then { o with status := some 1 } else o } }
      (ready → ∃ t, exec (.portFenceCloses n) s = .next t ∧ PortFrame ended t n ∧ t.host = s.host ∧ t.ez = ended.ez ∧
        (t.port n).lstate = .eclipsed ∧ (t.port n).fencing = false ∧ (t.port n).agent = (s.port n).agent ∧
        (t.port n).eclAck = ((s.port n).eclReq && (s.port n).eclAcc) ∧ t.outs = s.outs ++ [.link n (linkWords [0x84000004#32])]) ∧
      (¬ ready → exec (.portFenceCloses n) s = .next s)) ∧
  (∀ (s : State) (n key : Nat) (k : Packet), n < s.build.slots →
      let q := s.build.leafOf n
      let o := HopOut.leafToPort n
      let x := s.port n
      s.only o { l := .leafDown q, key := key, k := k } → s.lastPart o k → x.lstate = .eclipsed ∨ x.lstate = .dead →
      let takes (t : State) : Prop := exec (.packetHop o {}) s = .next t ∧ SameBase s t ∧ t.panels = s.panels ∧ t.mps = s.mps ∧
        t.q (.leafDown q) key = (s.q (.leafDown q) key).tail
      (isSnoop k = true → ∃ t a, takes t ∧ t.ports = s.ports ∧ t.outs = s.outs ∧ Answered s t q k a ∧ a.hdr.src = x.agent ∧ a.hdr.tag = 1 ∧
        let lost := x.lstate = .dead ∧ (k.hdr.opc = oSnpS ∨ k.hdr.opc = oSnpU)
        a.hdr.marks = (if lost then 1 else 0) ∧ a.hdr.size = (if lost then 0 else 1)) ∧
      (k.hdr.cls = cREQ → k.hdr.src = nEasel → ∃ t a, takes t ∧ t.ports = s.ports ∧ t.outs = s.outs ∧
        t.q (.synth q) cRSP = s.q (.synth q) cRSP ++ [a] ∧ a.hdr.opc = oTIvDone ∧ a.hdr.src = x.agent ∧ a.hdr.dst = nEasel ∧
        a.hdr.tag = k.hdr.tag) ∧
      (k.hdr.cls = cRSP ∨ k.hdr.cls = cDAT → ∃ t, takes t ∧ (x.lstate = .dead → t.ports = s.ports ∧ ∀ c, c < 6 → t.q (.synth q) c = s.q (.synth q) c) ∧
        (x.lstate = .eclipsed → (t.port n).protoErr = ctrAdd x.protoErr 1 ∧ (t.port n).peLast.extractLsb' 8 8 = 8)))

/-- R290, R451: a dead port is reclaimed when nothing of its agent is left in flight, at the root's barriers or at a panel; with a reset since its death
it is then in DOWN, and in INTRODUCE if its crossing is back in service. -/
def Obligations.ReclamationOfADeadPort : Prop :=
  ∀ (s : State) (n : Nat), s.portActs n → (s.port n).lstate = .dead →
    let clear := (s.port n).reclaimed = false ∧ s.inflight n = 0 ∧ (∀ e ∈ s.net.ebars, e.slot ≠ n) ∧
      ∀ p, p < s.build.panels → s.panelClear p (s.port n).agent = true
    (¬ clear → exec (.reclamationComplete n) s = .next s) ∧
    (clear → ∃ t, exec (.reclamationComplete n) s = .next t ∧ SameBase s t ∧ OtherPorts s t n ∧ t.panels = s.panels ∧
      t.mps = s.mps ∧ t.clk = s.clk ∧ t.routers = s.routers ∧
      ((s.port n).rstSince = false → (t.port n).lstate = .dead ∧ (t.port n).reclaimed = true ∧ t.outs = s.outs ∧
        (t.port n).eclAck = ((s.port n).eclReq && (s.port n).eclAcc)) ∧
      ((s.port n).rstSince = true → (s.port n).rst = true ∨ (s.port n).hsPend = true → (t.port n).lstate = .down ∧ t.outs = s.outs) ∧
      ((s.port n).rstSince = true → (s.port n).rst = false → (s.port n).hsPend = false → s.clk.initBusy = false → s.slotBr n = 0 →
        (t.port n).lstate = .introduce ∧ t.outs = s.outs ++ [.link n (linkWords [0x8100000C#32])]))

/-- R201, R214, R270, R271, R273, R277: a packet of an admitted port that passes every row waits in the leaf's buffer, where one is
free, with the port's PRIO, the leaf's epoch, WORLD forced for a non-secure agent, and POISON where a data flit failed parity, each
counted; its credit is free and INJ counts it. R442: an answer to an owner snoop in the pending-snoop table carries the mark of log
entry 53, the model's choice.
R263, R270, R272, R292: a header fault sets HDR_FAULT and kills an admitted port with cause 2; a packet of a port that is not
admitted, or that names another agent or partition, is discarded, its credit returned, and one protocol error counted. Here the
port's protocol-error bucket has no threshold. While the leaf has no room for it, a packet waits in the port's dual-clock queue, its
credit used (R39, R280). R241: the ADDR of EBar, TIv and TSy is ignored; that the leaf sends it on as zero is the model's choice (log
entry 11). -/
def Obligations.UpwardPacketCheckedAtTheLeaf : Prop :=
  (∀ (s : State) (n : Nat) (f : UpFlits), s.arrives n f → (s.port n).lstate = .admitted → upFaulty (s.port n).width f = false →
      let h := Hdr.ofFlit f.hdr
      let q := s.build.leafOf n
      let bad := f.badFlits (s.port n).width
      h.src = (s.port n).agent → h.part = (s.port n).part → rowFive (s.port n) h = false → f.psnp = .ok →
      s.hasCredit (.leafUp n) h.cls = true → (s.router q).epoch < 2 →
      ∃ t k, exec (.upwardPacketCheck n f) s = .next t ∧ SameBase s t ∧ OtherPorts s t n ∧ SameHomes s t ∧ SamePins s t ∧
        t.host = s.host ∧ t.ez = s.ez ∧ t.w6 = s.w6 ∧ t.q (.leafUp n) h.cls = s.q (.leafUp n) h.cls ++ [k] ∧
        (∀ l c, locKey l c ≠ locKey (.leafUp n) h.cls → t.q l c = s.q l c) ∧
        k.hdr.cls = h.cls ∧ k.hdr.opc = h.opc ∧ k.hdr.src = h.src ∧ k.hdr.tag = h.tag ∧ k.hdr.part = h.part ∧
        k.hdr.addr = (if h.cls = cREQ ∧ h.opc ∈ [oEBar, oTIv, oTSy] then 0 else h.addr) ∧ (t.port n).upq = [] ∧
        k.hdr.epoch = (s.router q).epoch ∧ k.hdr.world = (if (s.port n).nsOnly then 1 else h.world) ∧
        (h.cls = cREQ → k.hdr.prio = (s.port n).prio) ∧ (h.cls = cMGT → k.hdr.prio = 0) ∧
        (h.cls = cDAT → k.data = f.data (s.port n).width ∧ k.hdr.poison = (h.poison || decide (bad ≠ 0)) ∧
          (t.port n).dataPar = ctrAdd (s.port n).dataPar bad) ∧ k.capt = s.clk.cyc ∧
        k.aux = (if (s.port n).owesOwner k then 1 else 0) ∧
        (t.port n).upHeld.getD f.chan 0 = (s.port n).upHeld.getD f.chan 0 - 1 ∧
        (t.port n).upFreed.getD f.chan 0 = (s.port n).upFreed.getD f.chan 0 + 1 ∧
        (t.port n).protoErr = (s.port n).protoErr ∧ (t.port n).lstate = .admitted ∧
        ((s.router q).inj.length = 2 →
          (t.router q).inj.getD (s.router q).epoch 0 = (s.router q).inj.getD (s.router q).epoch 0 + 1)) ∧
  (∀ (s : State) (n : Nat) (f : UpFlits), s.arrives n f →
      let h := Hdr.ofFlit f.hdr
      let counted (kind : Nat) : Prop := ∃ t, exec (.upwardPacketCheck n f) s = .next t ∧ PortFrame s t n ∧ t.host = s.host ∧
        t.ez = s.ez ∧ t.outs = s.outs ∧ (t.port n).lstate = (s.port n).lstate ∧
        (t.port n).protoErr = ctrAdd (s.port n).protoErr 1 ∧
        (s.clk.cyc / 8 % 2 ^ max 10 (min 40 ((s.port n).pebk.toNat % 64)) ≠ 0 →
          (t.port n).peLevel = min 255 ((s.port n).peLevel + 1)) ∧
        (t.port n).peLast = BitVec.ofNat 64 (h.cls * 2 ^ 24 + kind * 2 ^ 8 + h.opc) ∧
        (t.port n).upFreed.getD f.chan 0 = (s.port n).upFreed.getD f.chan 0 + 1
      let faulty := upFaulty (s.port n).width f
      (faulty = true → (s.port n).lstate = .admitted →
        ∃ t, exec (.upwardPacketCheck n f) s = .next t ∧ Died s t n 2 ∧ (t.port n).hdrFault = true) ∧
      (faulty = true → (s.port n).lstate ≠ .admitted →
        ∃ t, exec (.upwardPacketCheck n f) s = .next t ∧ PortFrame s t n ∧ (t.port n).hdrFault = true ∧
          (t.port n).lstate = (s.port n).lstate) ∧
      (faulty = false → (s.port n).lstate = .admitted → s.upRoom n h = false → exec (.upwardPacketCheck n f) s =
        .next (s.setPort n { s.port n with
          upq := [f], upHeld := (s.port n).upHeld.set f.chan ((s.port n).upHeld.getD f.chan 0 - 1) })) ∧
      (faulty = false → (s.port n).pebk.extractLsb' 16 8 = 0 →
        ((s.port n).lstate ≠ .admitted → counted (if (s.port n).lstate = .eclipsed then 8 else 4)) ∧
        ((s.port n).lstate = .admitted → s.upRoom n h = true → h.src ≠ (s.port n).agent ∨ h.part ≠ (s.port n).part → counted 2)))

/-- R274, R277 to R279, R292: a downward credit adds one to its class and lets a waiting packet leave, poisoned data as an error where
the partner has no poison support; one above the partner's buffers
kills an admitted port with cause 3; an upward credit leaves for each freed buffer, but a REQ credit that is withheld stays. -/
def Obligations.PortCredits : Prop :=
  ∀ (s : State) (n c : Nat) (chk : FlitChk), s.portActs n → (s.port n).rst = false → (s.port n).hsPend = false →
    (s.port n).lstate ≠ .dead → s.routerFrozen (s.build.leafOf n) = false → s.slotBr n < 2 →
    c < (s.port n).dnCrd.length → c < (s.port n).upHeld.length → c < (s.port n).upFreed.length →
    (c ∈ [cREQ, cSNP, cRSP, cDAT, cMGT] → (s.port n).dnCrd.getD c 0 < (s.port n).dnMax.getD c 0 →
      (∀ k, s.q (.portDown n) k = []) →
      ∃ t, exec (.downwardCredit n { cls := c, chk := chk }) s = .next t ∧ OtherPorts s t n ∧ SameHomes s t ∧ SamePins s t ∧ t.host = s.host ∧
        t.ez = s.ez ∧ (∀ l k, t.q l k = s.q l k) ∧ (t.port n).dnCrd = (s.port n).dnCrd.set c ((s.port n).dnCrd.getD c 0 + 1)) ∧
    (∀ k r, c ∈ [cREQ, cSNP, cRSP, cDAT, cMGT] → (s.port n).dnCrd = [0, 0, 0, 0, 0, 0] → 0 < (s.port n).dnMax.getD c 0 →
      s.q (.portDown n) c = k :: r →
      let sent : Packet := if k.hdr.poison = true ∧ (s.port n).mode.feats.testBit 3 = false then
        { k with hdr := { k.hdr with poison := false, err := 1 } } else k
      ∃ t, exec (.downwardCredit n { cls := c }) s = .next t ∧ OtherPorts s t n ∧ t.q (.portDown n) c = r ∧
        t.outs = s.outs ++ [.pkt n sent (sent.flits (s.port n).width)]) ∧
    (c ∈ [cREQ, cSNP, cRSP, cDAT, cMGT] → (s.port n).dnMax.getD c 0 ≤ (s.port n).dnCrd.getD c 0 → (s.port n).lstate = .admitted →
      ∃ t, exec (.downwardCredit n { cls := c, chk := chk }) s = .next t ∧ Died s t n 3 ∧ (t.port n).crdOvf = true) ∧
    (0 < (s.port n).upFreed.getD c 0 → (c = cREQ → s.withheld n = false) →
      ∃ t, exec (.upwardCreditReturn n c) s = .next t ∧ PortFrame s t n ∧ t.outs = s.outs ++ [.credit n c] ∧
        (t.port n).upFreed.getD c 0 = (s.port n).upFreed.getD c 0 - 1 ∧ (t.port n).upHeld.getD c 0 = (s.port n).upHeld.getD c 0 + 1) ∧
    (c = cREQ → s.withheld n = true → exec (.upwardCreditReturn n c) s = .next s)

/-- R464, R470 to R473, R478: a branch's eclipse request fences a branch in service, its fall reopens it; the fence closes when its
condition holds, and is acknowledged where the request that stands was accepted; 1,024 HCLK without a change of the liveness toggle are
fatal and freeze the root. That a request for a branch that is eclipsed already is acknowledged at once is the model's choice (log entry
34). R475: the root answers a snoop for a branch that is eclipsed with one NotHeld for the agents it names there, and discards any other
packet from a panel, which UNROUTED counts. -/
def Obligations.BranchEclipseAndLiveness : Prop :=
  ∀ (s : State) (b : Nat), s.live → s.build.hasBranch b = true → b < 8 → s.clk.initBusy = false →
    (∀ ns, (s.br b).eclReq = false → ¬ (ns = true ∧ (s.br b).shold = true) →
      ∃ t, exec (.brEclReqRise b ns) s = .next t ∧ SameBase s t ∧ t.panels = s.panels ∧ t.mps = s.mps ∧ t.routers = s.routers ∧
        t.clk = s.clk ∧ t.ez.events = s.ez.events ||| 0x10 ∧ t.host.irqStatS.getLsbD 23 = true ∧ (t.br b).eclReq = true ∧
        (t.br b).eclAcc = true ∧ (∀ d, d ≠ b → t.br d = s.br d) ∧
        ((s.br b).bstate = 0 → (t.br b).bstate = 1 ∧
          ∀ n ∈ s.build.branchSlots b, (t.port n).lstate = if (s.port n).lstate = .introduce ∨ (s.port n).lstate = .ready then .down else (s.port n).lstate) ∧
        ((s.br b).bstate = 1 → (t.br b).bstate = 1 ∧ t.ports = s.ports) ∧
        ((s.br b).bstate = 2 → (t.br b).bstate = 2 ∧ (t.br b).eclAck = true ∧ t.ports = s.ports)) ∧
    (∀ ns, (s.br b).eclReq = false → ns = true → (s.br b).shold = true →
      ∃ t, exec (.brEclReqRise b ns) s = .next t ∧ (t.br b).bstate = (s.br b).bstate ∧ (t.br b).eclAck = (s.br b).eclAck ∧
        (t.br b).eclAcc = (s.br b).eclAcc ∧ t.ports = s.ports ∧ t.host = s.host ∧ t.ez = s.ez) ∧
    (∃ t, exec (.brEclReqFall b) s = .next t ∧ SameBase s t ∧ t.panels = s.panels ∧ t.clk = s.clk ∧ t.host = s.host ∧
      (t.br b).eclReq = false ∧ (t.br b).eclAck = false ∧ (t.br b).eclAcc = false ∧
      ((s.br b).bstate = 1 → (s.br b).eclOp = false → (t.br b).bstate = 0) ∧
      (¬ ((s.br b).bstate = 1 ∧ (s.br b).eclOp = false) → (t.br b).bstate = (s.br b).bstate ∧ t.ports = s.ports)) ∧
    (s.clk.frozenRoot = false → s.branchReady b = true →
      ∃ t, exec (.branchFenceCloses b) s = .next t ∧ t.ports = s.ports ∧ t.clk = s.clk ∧ (t.br b).bstate = 2 ∧
        (t.br b).eclAck = ((s.br b).eclReq && (s.br b).eclAcc) ∧ (∀ d, d ≠ b → t.br d = s.br d)) ∧
    (s.branchReady b = false → exec (.branchFenceCloses b) s = .next s) ∧
    (∀ quiet, quiet < 1024 ∨ 2 ≤ (s.br b).bstate → exec (.branchLivenessLoss b quiet) s = .next s) ∧
    (∀ quiet, 1024 ≤ quiet → (s.br b).bstate < 2 → s.clk.frozenRoot = false →
      ∃ t, exec (.branchLivenessLoss b quiet) s = .next t ∧ SameBase s t ∧ (t.br b).liveLoss = true ∧ t.clk.fatal = true ∧
        t.clk.fatalRows.getLsbD 1 = true ∧ t.clk.frozenRoot = true ∧ t.ports = s.ports ∧ t.panels = s.panels) ∧
    (∀ p key k, (s.br b).bstate = 2 → p < s.build.panels → s.only (.rootToBranch b) { l := .rootPanel p, key := key, k := k } →
      s.lastPart (.rootToBranch b) k →
      let takes (t : State) : Prop := exec (.packetHop (.rootToBranch b) {}) s = .next t ∧ SameBase s t ∧ SameHomes s t ∧ SamePins s t ∧
        t.ports = s.ports ∧ Took s t (.rootPanel p) key
      (isSnoop k = true → ∃ t a, exec (.packetHop (.rootToBranch b) {}) s = .next t ∧ SameBase s t ∧ SameHomes s t ∧ SamePins s t ∧
        t.ports = s.ports ∧ t.q (.rootPanel p) key = (s.q (.rootPanel p) key).tail ∧ Answered s t 40 k a ∧ a.hdr.marks = 0 ∧ a.hdr.size = 1 ∧
        (k.hdr.dst = nMulti → a.hdr.src = (lowest k.vec).getD 0 ∧ a.hdr.tag = popc k.vec) ∧
        (k.hdr.dst < 256 → a.hdr.src = k.hdr.dst ∧ a.hdr.tag = 1)) ∧
      (k.hdr.cls = cRSP ∨ k.hdr.cls = cDAT → ∃ t, takes t ∧ (t.router 40).unrouted = ctrAdd (s.router 40).unrouted 1))

/-! ### The tree -/

/-- R178, R182, R203, R279: of the heads that may take a leaf's upward output, the winner moves to the branch with its home panel
decoded, a REQ begins; every loser's head is passed over once more at this output.
R151, R203, R204, R209: where no management request is due, the link from the root to a panel takes the REQ of the current slot's owner that
its bounded lane holds; else the branch after the one last served, and of its heads the winner as at any output. Here the root's own
answers, which the rules give no turn, do not stand for the panel (log entry 61), the winner is no EBar, and a class that the
panel serves. -/
def Obligations.LeafForwardsTheArbitrationWinner : Prop :=
  (∀ (s : State) (q n key : Nat) (k : Packet), s.live → s.build.ok → q < s.build.leafN → s.routerFrozen q = false →
    let o := HopOut.leafToBranch q
    let w : Cand := { l := .leafUp n, key := key, k := k }
    w ∈ s.cands o → (∀ c ∈ s.cands o, c.k.hdr.prio ≤ 3) → (∀ c ∈ s.cands o, c ≠ w → Beats o w c) →
    (k.hdr.opc = oEBar → k.la = []) →
    ∃ t k', exec (.packetHop o {}) s = .next t ∧ SameBase s t ∧ SameHomes s t ∧ SamePins s t ∧ t.host = s.host ∧ t.ez = s.ez ∧
      t.w6 = s.w6 ∧ OtherPorts s t n ∧ t.q (.leafUp n) key = (s.q (.leafUp n) key).tail ∧
      t.q (.branchUp q) (s.laneKey (.branchUp q) k) = s.q (.branchUp q) (s.laneKey (.branchUp q) k) ++ [k'] ∧ Moved s k k' ∧
      (k.hdr.cls = cREQ → k'.home = s.leafHome q k.hdr.addr ∧
        (t.port n).reqs = (s.port n).reqs ++ [{ tag := k.hdr.tag, opc := k.hdr.opc }]) ∧
      (t.port n).upFreed = (s.port n).upFreed ∧ (t.port n).upHeld = (s.port n).upHeld ∧
      (∀ c ∈ s.cands o, c ≠ w → (t.q c.l c.key).head? = some { c.k with
        skips := (o, skipsAt c.k o + 1) :: c.k.skips.filter fun e => e.1 ≠ o }) ∧
      (∀ l c, t.owed l c = s.owed l c)) ∧
  (∀ (s : State) (p b key : Nat) (k : Packet), s.live → s.build.ok → p < s.build.panels → b < 8 → s.linkFree p = true →
    s.restDue p = none → s.mgmtDue p = none →
    let o := HopOut.rootToPanel p
    let w : Cand := { l := .rootUp b, key := key, k := k }
    w ∈ s.cands o → (∀ c ∈ s.cands o, c.k.hdr.prio ≤ 3 ∧ ∃ d, d < 8 ∧ c.l = .rootUp d) → tgtOf s.build k = .panel p → isEbar k = false → unserved k = false →
    let owner := slotOwner (s.w6g (pnBase p + 0x400 + 8 * (s.clk.cyc % 64)))
    let held (a d : Nat) (y : Packet) : Prop := d < 8 ∧ y ∈ s.q (.rootUp d) (8 + p) ∧ y.hdr.src = a
    let far (d : Nat) : Nat := (d + 7 - smGet 7 (s.router 40).rr (328 + p) % 8) % 8
    let lane := s.laneKey (.panelIn p) k
    let goes (t : State) (slot : Nat) : Prop := ∃ k', exec (.packetHop o {}) s = .next t ∧ SameBase s t ∧ SameHomes s t ∧ SamePins s t ∧
      t.ports = s.ports ∧ t.q (.rootUp b) key = (s.q (.rootUp b) key).tail ∧
      t.q (.panelIn p) lane = s.q (.panelIn p) lane ++ [k'] ∧ Moved s { k with aux := if k.hdr.cls = cREQ then slot else k.aux } k' ∧
      smGet 7 (t.router 40).rr (328 + p) = b ∧ smGet 0 t.net.dbl (328 + p) = s.clk.cyc + (if k.bytes = 80 then 2 else 1) ∧
      (∀ c ∈ s.cands o, c.l = .rootUp b → c ≠ w → (t.q c.l c.key).head? = some { c.k with
        skips := (o, skipsAt c.k o + 1) :: c.k.skips.filter fun e => e.1 ≠ o }) ∧
      ∀ c ∈ s.cands o, c.l ≠ .rootUp b → t.q c.l c.key = s.q c.l c.key
    ((s.bounded = false ∨ ∀ a, owner = some a → ∀ d y, ¬ held a d y) →
      (∀ c ∈ s.cands o, ∀ d, c.l = .rootUp d → far b ≤ far d) → (∀ c ∈ s.cands o, c.l = .rootUp b → c ≠ w → Beats o w c) →
      ∃ t, goes t 0) ∧
    (∀ a, s.bounded = true → owner = some a → key = 8 + p → held a b k → (∀ d y, held a d y → d = b ∧ y = k) → ∃ t, goes t 1))

/-- R203, R240: a write with RLS at the head of a port's REQ input is forwarded once no earlier WrU or AtP of the port is unanswered,
and not before; it goes in its turn, the heads that it goes before passed over once more, and not where another head goes before it. -/
def Obligations.ReleaseHoldsForEarlierWrites : Prop :=
  ∀ (s : State) (n : Nat) (k : Packet) (r : List Packet), s.live → s.build.ok → n < s.build.slots →
    s.q (.leafUp n) cREQ = k :: r → k.hdr.cls = cREQ → (k.hdr.opc = oWrU ∨ k.hdr.opc = oAtP) → k.hdr.marks.testBit 2 = true →
    k.hdr.src < 256 → k.home < s.build.panels → k.la = [] →
    let q := s.build.leafOf n
    let lane := s.laneKey (.branchUp q) k
    let o := HopOut.leafToBranch q
    let w : Cand := { l := .leafUp n, key := cREQ, k := k }
    ((∃ e ∈ (s.port n).reqs, e.opc = oWrU ∨ e.opc = oAtP) → exec (.rlsHoldReleased n) s = .next s) ∧
    ((∀ e ∈ (s.port n).reqs, e.opc ≠ oWrU ∧ e.opc ≠ oAtP) → s.hasCredit (.branchUp q) lane = true → s.routerFrozen q = false →
      (∀ c ∈ s.cands o, c.k.hdr.prio ≤ 3) → (∀ c ∈ s.cands o, c ≠ w → Beats o w c) →
      ∃ t k', exec (.rlsHoldReleased n) s = .next t ∧ SameBase s t ∧ SameHomes s t ∧ SamePins s t ∧ OtherPorts s t n ∧
        t.q (.leafUp n) cREQ = r ∧ t.q (.branchUp q) lane = s.q (.branchUp q) lane ++ [k'] ∧ Moved s k k' ∧
        (t.port n).reqs = (s.port n).reqs ++ [{ tag := k.hdr.tag, opc := k.hdr.opc }] ∧
        ∀ c ∈ s.cands o, c ≠ w → (t.q c.l c.key).head? = some { c.k with
          skips := (o, skipsAt c.k o + 1) :: c.k.skips.filter fun e => e.1 ≠ o }) ∧
    (∀ c ∈ s.cands o, isRls c.k = false → (∀ d ∈ s.cands o, d.k.hdr.prio ≤ 3) → (∀ d ∈ s.cands o, d ≠ c → Beats o c d) →
      exec (.rlsHoldReleased n) s = .next s)

/-- R196, R200, R216: a router adds a multicast acknowledgement's COUNT and flags to its entry, whose codeword is sound; when SUM reaches EXPECT it sends one
acknowledgement with the sum, counts those that it combined away, and frees the entry. Here at a branch. That the one sent has the
first one's epoch is the model's choice (log entry 63). R89, R134: the answer to an owner snoop is never combined; that
the leaf marks it is the model's choice (log entry 53).
R191 to R195: a branch sends each leaf a copy of a multicast with the leaf's part of the vector; as it begins it makes a combining entry
for all that the multicast names there, or counts a COMB_MISS where its table is full, and answers itself for an agent that no
leaf is mapped to. A leaf sends the agent at a port a copy without vector under the agent's own name, which the port then owes. -/
def Obligations.AcknowledgementsCombine : Prop :=
  (∀ (s : State) (q : Nat) (mgt : Bool) (k : Packet) (e : Comb), s.live → s.build.ok → q < s.build.leafN →
    let r := 32 + s.build.branchOf q
    let key := if mgt then cMGT else cRSP
    let sum := e.sum + k.hdr.tag % 512
    let flags := e.flags ||| (k.hdr.marks + 16 * (k.hdr.size % 2))
    (s.q (.branchUp q) key).head? = some k → isAck k = true → s.combHas r e → e.htc = k.hdr.htc → e.mgt = mgt → e.ready = false →
    e.flaw = .ok → s.routerFrozen r = false →
    let ep := if e.combined = 0 then k.hdr.epoch else e.epoch
    let here := if ep = k.hdr.epoch then 1 else 0
    (k.aux ≠ 0 → exec (.combineAck (.branchUp q) mgt .ok) s = .next s) ∧
    (k.aux = 0 → sum < e.expect → ∃ t, exec (.combineAck (.branchUp q) mgt .ok) s = .next t ∧ SameBase s t ∧ SameHomes s t ∧ SamePins s t ∧
      t.ports = s.ports ∧ Took s t (.branchUp q) key ∧ ∃ e' ∈ (t.router r).comb, e'.htc = e.htc ∧ e'.sum = sum ∧ e'.flags = flags ∧
        e'.expect = e.expect ∧ e'.src = (if e.combined = 0 then k.hdr.src else e.src) ∧
        e'.epoch = ep ∧ e'.combined = e.combined + here ∧ e'.other = e.other + (1 - here)) ∧
    (k.aux = 0 → e.expect ≤ sum → s.hasCredit (.rootUp (s.build.branchOf q)) key = true →
      ∃ t a, exec (.combineAck (.branchUp q) mgt .ok) s = .next t ∧ SameBase s t ∧ SameHomes s t ∧ SamePins s t ∧
        t.ports = s.ports ∧ t.q (.branchUp q) key = (s.q (.branchUp q) key).tail ∧
        t.q (.rootUp (s.build.branchOf q)) key = s.q (.rootUp (s.build.branchOf q)) key ++ [a] ∧ a.hdr.cls = key ∧ a.hdr.tag = sum ∧
        a.hdr.htc = e.htc ∧ a.hdr.src = (if e.combined = 0 then k.hdr.src else e.src) ∧ a.hdr.marks = flags % 16 ∧
        a.hdr.opc = (if mgt then 33 else 1) ∧ a.hdr.epoch = ep ∧
        (ep < 2 → (s.router r).ej.length = 2 →
          (t.router r).ej.getD ep 0 = (s.router r).ej.getD ep 0 + BitVec.ofNat 32 (e.combined + here - 1) ∧
          (t.router r).ej.getD (1 - ep) 0 = (s.router r).ej.getD (1 - ep) 0 + BitVec.ofNat 32 (e.other + (1 - here))) ∧ ∀ y ∈ (t.router r).comb, y.htc ≠ e.htc)) ∧
  (∀ (s : State) (q : Nat) (k : Packet) (rest : List Packet) (v : Vec), q < s.build.leafN →
    let o := HopOut.branchToLeaf q
    let b := s.build.branchOf q
    let x := s.router (32 + b)
    let no := k.vec &&& ~~~(k.la.foldl (fun z e => z ||| e.2) 0)
    s.only o { l := .branchDown b, key := cSNP, k := k } → s.q (.branchDown b) cSNP = k :: rest → k.hdr.cls = cSNP → k.hdr.dst = nMulti →
    ownOpc k.hdr.opc = false → 2 ≤ popc k.vec → k.whole = true → (o, v) ∈ k.la → (k.la.map (·.1)).Nodup →
    (∃ a, a < 256 ∧ v.getLsbD a = true ∧ (s.child q k.hdr.epoch a).isSome = true) →
    ∃ t c, exec (.packetHop o {}) s = .next t ∧ SameBase s t ∧ SameHomes s t ∧ SamePins s t ∧ t.ports = s.ports ∧
      t.q (.leafDown q) cSNP = s.q (.leafDown q) cSNP ++ [c] ∧ c.hdr = k.hdr ∧ c.vec = v ∧ c.desc = k.desc ∧ c.capt = s.clk.cyc ∧
      (k.la = [(o, v)] → t.q (.branchDown b) cSNP = rest) ∧
      (k.la ≠ [(o, v)] → ∃ y, t.q (.branchDown b) cSNP = y :: rest ∧ y.hdr = k.hdr ∧ y.vec = k.vec &&& ~~~v ∧ y.whole = false ∧
        y.la = k.la.erase (o, v)) ∧
      (x.comb.length < 256 → (t.router (32 + b)).combMiss = x.combMiss ∧ ∃ e, (t.router (32 + b)).comb = x.comb ++ [e] ∧
        e.htc = k.hdr.htc ∧ e.mgt = false ∧ e.expect = popc k.vec ∧ e.sum = 0 ∧ e.combined = 0 ∧ e.ready = false ∧ e.born = s.clk.cyc) ∧
      (256 ≤ x.comb.length → (t.router (32 + b)).comb = x.comb ∧ (t.router (32 + b)).combMiss = ctrAdd x.combMiss 1) ∧
      (no = 0 → t.q (.synth (32 + b)) cRSP = s.q (.synth (32 + b)) cRSP ∧ (t.router (32 + b)).unrouted = x.unrouted) ∧
      (∀ a, a < 256 → no = vbit a → (t.router (32 + b)).unrouted = ctrAdd x.unrouted 1 ∧
        ∃ y, Answered s t (32 + b) k y ∧ y.hdr.src = a ∧ y.hdr.tag = 1 ∧ y.hdr.marks = 0 ∧ y.hdr.size = 1)) ∧
  (∀ (s : State) (n : Nat) (k : Packet) (rest : List Packet) (v : Vec), n < s.build.slots →
    let q := s.build.leafOf n
    let o := HopOut.leafToPort n
    let x := s.port n
    s.only o { l := .leafDown q, key := cSNP, k := k } → s.q (.leafDown q) cSNP = k :: rest → k.hdr.cls = cSNP → k.hdr.dst = nMulti →
    k.hdr.poison = false → k.whole = false → k.la = [(o, v)] → x.lstate = .admitted → (∀ c, c < 6 → s.q (.portDown n) c = []) →
    x.dnCrd.length = 6 → 0 < x.dnCrd.getD cSNP 0 →
    ∃ t c fl e, exec (.packetHop o {}) s = .next t ∧ SameBase s t ∧ SameHomes s t ∧ t.clk = s.clk ∧ OtherPorts s t n ∧
      t.q (.leafDown q) cSNP = rest ∧ t.outs = s.outs ++ [.pkt n c fl] ∧ c.hdr = { k.hdr with dst := x.agent } ∧ c.vec = 0 ∧
      c.desc = k.desc ∧ (t.port n).psnp = x.psnp ++ [e] ∧ e.htc = k.hdr.htc ∧ e.mgt = false ∧ e.tiv = false ∧
      (t.port n).dnCrd.getD cSNP 0 = x.dnCrd.getD cSNP 0 - 1)

/-- R186, R198, R215: an owed credit returns to its sender; a combining entry that FLUSH_WAIT (16 HCLK at least) has passed sends
what it has, or nothing for a sum of zero, and is freed; a router captures the flipped epoch, each at its time and not before. Here
no acknowledgement for the entry stands captured at an input, where it would be counted first, and its codeword is sound (R200). -/
def Obligations.CreditsFlushesAndEpochs : Prop :=
  ∀ s : State, s.live →
    let idle (r : Nat) (e : Comb) : Prop :=
      ∀ l ∈ s.combLocs r, ∀ c k, (s.q l c).head? = some k → ¬ (isAck k = true ∧ k.hdr.htc = e.htc)
    (∀ l key, s.hasLoc l = true → s.owed l key = 0 → exec (.creditReturned l key) s = .next s) ∧
    (∀ l key, s.hasLoc l = true → 0 < s.owed l key → (∀ q, l ≠ .branchUp q) → (∀ b, l ≠ .rootUp b) →
      ∃ t, exec (.creditReturned l key) s = .next t ∧ t.owed l key = s.owed l key - 1 ∧ t.net.qs = s.net.qs ∧ t.ports = s.ports ∧
        t.routers = s.routers ∧ SameHomes s t ∧ SamePins s t ∧
        ∀ l' key', locKey l' key' ≠ locKey l key → t.owed l' key' = s.owed l' key') ∧
    (∀ r e, s.build.hasRouter r = true → s.combHas r e → s.clk.cyc < e.born + max 16 (s.router r).flushWait.toNat →
      exec (.combineFlush r e.htc) s = .next s) ∧
    (∀ r e, s.build.hasRouter r = true → s.combHas r e → e.born + max 16 (s.router r).flushWait.toNat ≤ s.clk.cyc →
      r < 40 → idle r e → e.flaw = .ok → s.routerFrozen r = false → e.sum = 0 →
      ∃ t, exec (.combineFlush r e.htc) s = .next t ∧ t.net = s.net ∧ t.ports = s.ports ∧ SameHomes s t ∧ SamePins s t ∧
        (∀ q, q ≠ r → t.router q = s.router q) ∧ (t.router r).comb = (s.router r).comb.filter fun y => y.htc ≠ e.htc) ∧
    (∀ b e, b < 8 → s.build.hasRouter (32 + b) = true → s.combHas (32 + b) e → idle (32 + b) e →
      e.born + max 16 (s.router (32 + b)).flushWait.toNat ≤ s.clk.cyc → s.routerFrozen (32 + b) = false → 0 < e.sum → e.mgt = false → e.flaw = .ok →
      s.hasCredit (.rootUp b) cRSP = true →
      ∃ t a, exec (.combineFlush (32 + b) e.htc) s = .next t ∧ t.q (.rootUp b) cRSP = s.q (.rootUp b) cRSP ++ [a] ∧
        a.hdr.opc = oSnpAck ∧ a.hdr.tag = e.sum ∧ a.hdr.htc = e.htc ∧ a.hdr.src = e.src ∧
        ∀ y ∈ (t.router (32 + b)).comb, y.htc ≠ e.htc) ∧
    (∀ r c, s.build.hasRouter r = true → (s.router r).flipAt = some c → c ≤ s.clk.cyc →
      ∃ t, exec (.epochCaptured r) s = .next t ∧ (t.router r).epoch = (s.router 40).epoch ∧ (t.router r).flipAt = none ∧
        (∀ q, q ≠ r → t.router q = s.router q) ∧ t.ports = s.ports ∧ t.net = s.net ∧ SameHomes s t ∧ SamePins s t) ∧
    (∀ r c, s.build.hasRouter r = true → (s.router r).flipAt = some c → s.clk.cyc < c → exec (.epochCaptured r) s = .next s)

/-- R242, R246: the root accepts an EBar at the head of its branch, makes one entry for it, and one copy for every panel; a fifth EBar of a
port is answered DecodeErr, without copies. A copy crosses to its panel as a packet of the branch does, and not while a REQ of its agent
waits for that panel in the branch's bounded lane; the panel completes it at once where nothing that it covers is left, and else keeps it.
That the copies leave one by one from the head of the branch's REQ queue is the model's choice (log entry 13).
R245: the root adds a panel's completion; with PANELS of them it sends EBarDone, SRC 0x182 and COUNT PANELS, with ERR when any
completion had it, and frees the entry. -/
def Obligations.BarriersAtTheRoot : Prop :=
  (∀ (s : State) (b n p : Nat) (u : Upset) (k : Packet), s.live → s.build.ok → s.build.hasBranch b = true → b < 8 →
      s.routerFrozen 40 = false → s.ebarHead b = some k → s.slotOfAgent k.hdr.src = some n →
      ((s.net.ebars.filter fun e => e.slot = n).length < 4 →
        ∃ t e, exec (.ebar b p u) s = .next t ∧ SameBase s t ∧ SameHomes s t ∧ SamePins s t ∧ t.ports = s.ports ∧
          t.net.owed = s.net.owed ∧ t.q (.rootUp b) cREQ = { k with la := (List.range s.build.panels).map fun p => (.rootToPanel p, 0) } ::
            (s.q (.rootUp b) cREQ).tail ∧
          (∀ l c, locKey l c ≠ locKey (.rootUp b) cREQ → t.q l c = s.q l c) ∧
          t.net.ebars = s.net.ebars ++ [e] ∧ e.agent = k.hdr.src ∧ e.slot = n ∧ e.tag = k.hdr.tag ∧ e.got = 0 ∧ e.err = false) ∧
      (∀ d, 4 ≤ (s.net.ebars.filter fun e => e.slot = n).length → (s.port n).pebk.extractLsb' 16 8 = 0 → k.hdr.src < 256 →
        s.child 40 (s.router 40).epoch k.hdr.src = some (.rootToBranch d) →
        ∃ t a, exec (.ebar b p u) s = .next t ∧ SameBase s t ∧ SameHomes s t ∧ OtherPorts s t n ∧ t.net.ebars = s.net.ebars ∧
          t.q (.rootUp b) cREQ = (s.q (.rootUp b) cREQ).tail ∧ t.q (.synth 40) cRSP = s.q (.synth 40) cRSP ++ [a] ∧
          a.hdr.opc = oDecodeErr ∧ a.hdr.src = 0x182 ∧ a.hdr.dst = k.hdr.src ∧ a.hdr.tag = k.hdr.tag ∧
          (t.port n).protoErr = ctrAdd (s.port n).protoErr 1)) ∧
  (∀ (s : State) (b p : Nat) (k : Packet), s.live → s.build.ok → s.build.hasBranch b = true → b < 8 → p < s.build.panels →
      (s.q (.rootUp b) cREQ).head? = some k → isEbar k = true → k.whole = false →
      let o := HopOut.rootToPanel p
      k.la.find? (fun e => e.1 = o) = some (o, 0) →
      (s.bounded = false → s.linkFree p = true → s.restDue p = none → s.mgmtDue p = none → s.cands o = [{ l := .rootUp b, key := cREQ, k := k }] →
        ∃ t c, exec (.packetHop o {}) s = .next t ∧ SameBase s t ∧ SameHomes s t ∧ SamePins s t ∧ t.ports = s.ports ∧
          t.net.ebars = s.net.ebars ∧ t.q (.panelIn p) cREQ = s.q (.panelIn p) cREQ ++ [c] ∧ c.hdr = k.hdr ∧ c.la = [] ∧
          c.capt = s.clk.cyc ∧
          (k.la.erase (o, 0) = [] → t.q (.rootUp b) cREQ = (s.q (.rootUp b) cREQ).tail) ∧
          (k.la.erase (o, 0) ≠ [] → ∃ k', t.q (.rootUp b) cREQ = k' :: (s.q (.rootUp b) cREQ).tail ∧ k'.hdr = k.hdr ∧
            k'.la = k.la.erase (o, 0))) ∧
      ((∃ y ∈ s.q (.rootUp b) (8 + p), y.hdr.src = k.hdr.src) →
        ∃ t, exec (.packetHop o {}) s = .next t ∧ t.q (.rootUp b) cREQ = s.q (.rootUp b) cREQ)) ∧
  (∀ (s : State) (b p key pool i : Nat) (k : Packet), s.takes p → (s.panel p).calm → s.build.hasBranch b = true →
      s.ebarHead b = none → (s.px p {}).reqTurn = some (key, k, pool, i) → k.hdr.opc = oEBar →
      let n := s.panel p
      let a := k.hdr.src
      let left (who : List (Nat × Nat)) : Prop := ∃ w ∈ who, w.1 = a ∧ w.2 ≤ n.seq
      let covered : Prop := (∃ e ∈ n.htcs, e.2.job = .req ∧ e.2.pkt.hdr.src = a ∧ e.2.pkt.hdr.opc ∈ [oWrU, oAtP] ∧ e.2.seq < n.seq ∧
        e.2.phase ≠ .close) ∨ ∃ e ∈ n.wrs, left e.2.who
      (∀ e ∈ n.proxy, ¬ left e.2.who) →
      let takes (t : State) (ph : Phase) : Prop := PanelFrame s t p ∧ Took s t (.panelIn p) key ∧ SameArrays s t p ∧
        OtherHtcs s t p i ∧ (t.panel p).memOut = n.memOut ∧
        ∃ h, smFind (t.panel p).htcs i = some h ∧ h.job = .ebar ∧ h.phase = ph ∧ h.pkt = k
      (covered → ∃ t, exec (.ebar b p {}) s = .next t ∧ takes t .collect ∧ Sent s t p []) ∧
      (¬ covered → ∃ t c, exec (.ebar b p {}) s = .next t ∧ takes t .close ∧ Sent s t p [c] ∧ c.hdr.cls = cRSP ∧
        c.hdr.opc = oEBarDone ∧ c.hdr.dst = nRoot ∧ c.hdr.tag = k.hdr.tag ∧ c.hdr.htc = 1 ∧ c.aux = a ∧
        c.hdr.err = (if n.errs.getLsbD a then 1 else 0))) ∧
  (∀ (s : State) (p d : Nat) (k : Packet) (r : List Packet) (e : EbarEnt), s.live → s.build.ok → p < s.build.panels →
      s.routerFrozen 40 = false → s.q (.rootPanel p) cRSP = k :: r → k.hdr.opc = oEBarDone → k.hdr.dst = nRoot →
      s.net.ebars = [e] → e.agent = k.aux → e.tag = k.hdr.tag →
      (e.got + k.hdr.htc < s.build.panels →
        ∃ t, exec (.ebarPanelCompletion p) s = .next t ∧ SameBase s t ∧ SameHomes s t ∧ SamePins s t ∧ t.ports = s.ports ∧
          Took s t (.rootPanel p) cRSP ∧
          t.net.ebars = [{ e with got := e.got + k.hdr.htc, err := e.err || decide (k.hdr.err = 1) }]) ∧
      (s.build.panels ≤ e.got + k.hdr.htc → e.hdr.src < 256 → s.child 40 (s.router 40).epoch e.hdr.src = some (.rootToBranch d) →
        ∃ t a, exec (.ebarPanelCompletion p) s = .next t ∧ SameBase s t ∧ SameHomes s t ∧ SamePins s t ∧ t.ports = s.ports ∧
          t.q (.rootPanel p) cRSP = r ∧ t.net.ebars = [] ∧ t.q (.synth 40) cRSP = s.q (.synth 40) cRSP ++ [a] ∧
          a.hdr.opc = oEBarDone ∧ a.hdr.src = 0x182 ∧ a.hdr.dst = e.hdr.src ∧ a.hdr.tag = e.hdr.tag ∧
          a.hdr.htc = s.build.panels ∧ a.hdr.err = (if e.err = true ∨ k.hdr.err = 1 then 1 else 0)))

/-! ### Homes -/

/-- R43, R113, R117 to R123, R148, R158, R161, R221: a panel that accepts a request gives it an HTC, which waits while its line is busy, and
else stands in DECIDE until D2. There a request for a line that the directory does not name takes a free way, where it takes one, and
reads memory, the requester alone to be granted: CompE to RdS, CompU to RdU and to Upg; a WrU of such a line is written and answered at
once. A line whose one holder the directory names (S-solo, U-any, O-solo) is snooped at that agent with the snoop of its row: SnpInv, SnpU
or SnpS with its MODE; memory is read, or the Comp sent at once with its DSRC, as the row says. No array and no other HTC changes.
R51, R117, R119 to R123, R132: for a line in S-pal or O-pal, RdU, Upg, RdO, WrU and AtP snoop the agents of its slot's vector as their rows
say. R59 to R63, R66, R117, R118, R125: RdS of a line that it leaves with two holders or more first releases the line's slot and then takes
one for the new vector, and where its set has none it narrows the line. R55, R124: where no way is free, the victim is recalled while
memory is read, and one in H written from its proxy slot, which is freed. -/
def Obligations.RequestsAcceptedAndDecided : Prop :=
  (∀ (s : State) (p key pool i : Nat) (k : Packet), s.takes p → (s.panel p).calm → (s.px p {}).reqTurn = some (key, k, pool, i) →
    (s.panel p).dead.getLsbD k.hdr.src = false →
    ∀ opc c, (opc, c) ∈ [(oRdS, Instr.rds p {}), (oRdU, .rdu p {}), (oUpg, .upg p {}), (oRdO, .rdo p {}), (oWrU, .wru p {}),
      (oAtP, .atp p {})] → k.hdr.opc = opc →
      ∃ t h, exec c s = .next t ∧ PanelFrame s t p ∧ Took s t (.panelIn p) key ∧ SameArrays s t p ∧ OtherHtcs s t p i ∧
        Sent s t p [] ∧ (t.panel p).memOut = (s.panel p).memOut ∧ smFind (t.panel p).htcs i = some h ∧ h.job = .req ∧ h.pkt = k ∧
        h.line = k.hdr.addr ∧ h.pool = pool ∧ h.seq = (s.panel p).seq ∧
        ((s.px p {}).lineBusy k.hdr.addr = true → h.phase = .queued) ∧
        ((s.px p {}).lineBusy k.hdr.addr = false → h.phase = .decide ∧ h.hold = .go ∧ h.start = s.clk.cyc)) ∧
  (∀ (s : State) (p i : Nat) (h : Htc) (k : Packet) (r : Attr) (es : Nat → Ent), s.takes p → s.decides p i h k r es →
    let m := r.port (k.hdr.addr * 64)
    let runs (t : State) : Prop := exec (.htcStartQueued p i {}) s = .next t ∧ PanelFrame s t p ∧ t.net = s.net ∧ SameArrays s t p ∧
      OtherHtcs s t p i
    (∀ w, s.untracked p i k es w →
      (∀ opc ∈ [oRdS, oRdU, oUpg, oRdO, oAtP], k.hdr.opc = opc → (opc = oAtP → (smFree (s.panel p).proxy 0 32).isSome = true) →
        ∃ t g q, runs t ∧ Sent s t p [] ∧ Issued s t p m q ∧ LineMsg q 1 k.hdr.addr (.htc p h.seq) ∧ q.world = k.hdr.world ∧
          q.part = k.hdr.part ∧ smFind (t.panel p).htcs i = some g ∧ g.phase = .collect ∧ g.seq = h.seq ∧ g.pkt = k ∧
          g.line = k.hdr.addr ∧ g.way = (if opc = oRdO then none else some w) ∧
          g.plan.comp = (if opc = oRdS then oCompE else if opc = oRdU ∨ opc = oUpg then oCompU else 0)) ∧
      (k.hdr.opc = oWrU → k.hdr.poison = false →
        ∃ t g q a, runs t ∧ Sent s t p [a] ∧ Answers a k.hdr cRSP oWrAcc ∧ a.hdr.err = 0 ∧ Issued s t p m q ∧
          LineMsg q 2 k.hdr.addr (.wr p (s.panel p).wseq) ∧ q.data = k.data ∧ q.be = wruMask k ∧
          smFind (t.panel p).htcs i = some g ∧ g.phase = .close ∧ g.pkt = k ∧ g.way = none)) ∧
    (∀ w, s.tracked k es w → (es w).agent < 256 → k.hdr.src < 256 →
      let a := (es w).agent
      let reads (t : State) : Prop := ∃ q, Issued s t p m q ∧ LineMsg q 1 k.hdr.addr (.htc p h.seq)
      let still (t : State) : Prop := (t.panel p).memOut = (s.panel p).memOut
      let serves (t : State) (ph : Phase) (owner : Bool) (expect : Nat) : Prop := ∃ g, smFind (t.panel p).htcs i = some g ∧
        g.phase = ph ∧ g.pkt = k ∧ g.way = some w ∧ g.expect = expect ∧ g.sum = 0 ∧
        (owner = true → g.ow = some a ∧ g.owAck = false) ∧ (owner = false → g.ow = none)
      let asks (q : Packet) (opc mode : Nat) : Prop := q.hdr.cls = cSNP ∧ q.hdr.opc = opc ∧ q.hdr.dst = a ∧ q.hdr.addr = k.hdr.addr ∧
        q.hdr.htc = p * 1024 + i ∧ q.hdr.marks = mode
      (k.hdr.opc = oRdS → a ≠ k.hdr.src → (es w).st ∈ [1, 2] → s.own a = false → s.own k.hdr.src = false →
        ∃ t q, runs t ∧ Sent s t p [q] ∧ asks q oSnpU 1 ∧ reads t ∧ serves t .collect true 0) ∧
      (k.hdr.opc = oRdU → a ≠ k.hdr.src → (es w).st = 4 →
        ∃ t q, runs t ∧ Sent s t p [q] ∧ asks q oSnpInv 0 ∧ reads t ∧ serves t .collect false 1) ∧
      (k.hdr.opc = oRdU → a ≠ k.hdr.src → (es w).st ∈ [1, 2, 3, 6] →
        ∃ t q c, runs t ∧ Sent s t p [q, c] ∧ asks q oSnpU 0 ∧ Answers c k.hdr cRSP oCompU ∧ c.hdr.size = 2 ∧ still t ∧
          serves t .grant true 0) ∧
      (k.hdr.opc = oUpg → a = k.hdr.src → (es w).st = 4 →
        ∃ t c, runs t ∧ Sent s t p [c] ∧ Answers c k.hdr cRSP oCompU ∧ c.hdr.size = 3 ∧ still t ∧ serves t .grant false 0) ∧
      (k.hdr.opc = oRdO → a ≠ k.hdr.src → (es w).st ∈ [1, 2, 3, 6] →
        ∃ t q, runs t ∧ Sent s t p [q] ∧ asks q oSnpS 3 ∧ still t ∧ serves t .collect true 0) ∧
      (k.hdr.opc = oWrU → a ≠ k.hdr.src → (es w).st = 4 →
        ∃ t q, runs t ∧ Sent s t p [q] ∧ asks q oSnpInv 0 ∧ still t ∧ serves t .collect false 1) ∧
      (k.hdr.opc = oWrU → a ≠ k.hdr.src → (es w).st ∈ [1, 2, 3, 6] →
        ∃ t q, runs t ∧ Sent s t p [q] ∧ asks q oSnpU 1 ∧ still t ∧ serves t .collect true 0))) ∧
  (∀ (s : State) (p i : Nat) (h : Htc) (k : Packet) (r : Attr) (es : Nat → Ent), s.takes p → s.decides p i h k r es →
    let m := r.port (k.hdr.addr * 64)
    let runs (t : State) : Prop := exec (.htcStartQueued p i {}) s = .next t ∧ PanelFrame s t p ∧ t.net = s.net ∧
      (t.panel p).dir = (s.panel p).dir ∧ OtherHtcs s t p i
    let memory (t : State) (read : Bool) : Prop :=
      (read = true → ∃ q, Issued s t p m q ∧ LineMsg q 1 k.hdr.addr (.htc p h.seq)) ∧
      (read = false → (t.panel p).memOut = (s.panel p).memOut)
    let serves (t : State) (ph : Phase) (ow : Option Nat) (expect : Nat) (g : Htc) : Prop :=
      smFind (t.panel p).htcs i = some g ∧ g.phase = ph ∧ g.pkt = k ∧ g.expect = expect ∧ g.sum = 0 ∧ g.ow = ow ∧ g.owAck = ow.isNone
    (∀ w v, s.tracked k es w → k.hdr.src < 256 → (es w).st = 5 ∨ (es w).st = 7 → s.holds p (es w) v →
      let a := (es w).agent
      let row := palRow k.hdr.opc (es w).st a k.hdr.src v
      let now := (es w).st = 7 ∧ row.1 = some (oSnpU, 0) ∧ row.2.1 = 0
      k.hdr.opc ∈ [oRdU, oUpg, oRdO, oWrU, oAtP] → ((es w).st = 7 → k.hdr.opc = oRdU ∨ k.hdr.opc = oRdO → a ≠ k.hdr.src) →
      (k.hdr.opc = oAtP → (smFree (s.panel p).proxy 0 32).isSome = true) →
      ∃ t qs cs g, runs t ∧ (t.panel p).pal = (s.panel p).pal ∧ Sent s t p (qs ++ cs) ∧ Snoops p i k.hdr.addr a row.1 row.2.1 qs ∧
        memory t row.2.2 ∧ serves t (if now then .grant else .collect) (if row.1.isSome then some a else none) (popc row.2.1) g ∧
        g.way = some w ∧ (¬ now → cs = []) ∧ (now → ∃ c, cs = [c] ∧ Answers c k.hdr cRSP oCompU ∧ c.hdr.size = 2)) ∧
    (∀ w v vs, s.tracked k es w → k.hdr.src < 256 → (es w).agent < 256 → (es w).st ∈ [1, 2, 3, 4, 5, 6, 7] → s.holds p (es w) v →
      v.getLsbD k.hdr.src = false → k.hdr.opc = oRdS →
      let a := (es w).agent
      ((es w).st = 1 ∨ (es w).st = 2 → s.own a = true ∨ s.own k.hdr.src = true) →
      ∀ old : Option (Nat × PSlot), ((es w).st ∉ [5, 7] → old = none) →
      ((es w).st = 5 ∨ (es w).st = 7 → ∃ x, s.slotReads p (es w).pal x ∧ old = some ((es w).pal, x.released)) →
      let new := v ||| vbit k.hdr.src
      s.palSetReads p new old vs → (∀ a, a < 256 → (s.portOf a).part < 64) →
      let ow := rdsRow (es w).st (s.own a) (s.own k.hdr.src)
      let thin := narrowRow (es w).st a v
      (¬ NoSlot new vs → ∃ t qs cs g j x, runs t ∧ s.takesSlot new vs j x ∧ Written t p (4 * s.palSetOf new + j) x ∧
        OnlySlots s t p ((4 * s.palSetOf new + j) :: (old.toList.map (·.1))) ∧
        (∀ e, old = some e → e.1 ≠ 4 * s.palSetOf new + j → Written t p e.1 e.2) ∧ Sent s t p (qs ++ cs) ∧
        Snoops p i k.hdr.addr a ow 0 qs ∧ memory t ow.isNone ∧
        serves t (if ow.isSome then .grant else .collect) (if ow.isSome then some a else none) 0 g ∧ g.way = some w ∧
        g.plan.comp = oCompS ∧ g.plan.slot = some (4 * s.palSetOf new + j) ∧ (ow = none → cs = []) ∧
        (ow ≠ none → ∃ c, cs = [c] ∧ Answers c k.hdr cRSP oCompS ∧ c.hdr.size = 2)) ∧
      (NoSlot new vs → ∃ t qs g, runs t ∧ OnlySlots s t p (old.toList.map (·.1)) ∧ (∀ e, old = some e → Written t p e.1 e.2) ∧
        Sent s t p qs ∧ Snoops p i k.hdr.addr a thin.1 thin.2 qs ∧ memory t (decide ((es w).st ∉ [6, 7])) ∧
        serves t .collect (if thin.1.isSome then some a else none) (popc thin.2) g ∧ g.way = some w ∧ g.plan.comp = oCompS ∧
        g.plan.narrow = true)) ∧
    (∀ w v line, s.chooses p i k es w line → (es w).agent < 256 → s.holds p (es w) v → k.hdr.opc ∈ [oRdS, oRdU, oUpg, oAtP] →
      (k.hdr.opc = oAtP → (smFree (s.panel p).proxy 0 32).isSome = true) →
      let e := es w
      let row := recallRow e.st e.agent v
      let recalls (t : State) (qs : List Packet) : Prop := runs t ∧ (t.panel p).pal = (s.panel p).pal ∧ Sent s t p qs ∧
        Snoops p i line e.agent row.1 row.2 qs ∧
        ∃ g x, serves t .recall (if row.1.isSome then some e.agent else none) (popc row.2) g ∧ g.vict = some x ∧ x.way = w ∧ x.line = line
      (e.st ≠ 8 → ∃ t qs, recalls t qs ∧ memory t true) ∧
      (∀ b r2, e.st = 8 → e.agent < 32 → smFind (s.panel p).proxy e.agent = some b → b.line = line → b.poison = false →
        (s.px p {}).regOf line = some r2 →
        ∃ t qs q q2, recalls t qs ∧ LineMsg q 1 k.hdr.addr (.htc p h.seq) ∧ LineMsg q2 2 line (.wr p (s.panel p).wseq) ∧
          q2.data = b.data ∧ q2.be = BitVec.allOnes 64 ∧ smFind (t.panel p).proxy e.agent = none ∧
          ∀ n, smGet [] (t.panel p).memOut n = smGet [] (s.panel p).memOut n ++ (if n = m then [q] else []) ++
            (if n = r2.port (line * 64) then [q2] else []))))

/-- R251 to R253: TIv goes to the partition's caching agents with translation services, less its sender, and is done at once where
there is none; TSy is done once no TIv of its sender is left, and waits before that. -/
def Obligations.TranslationServices : Prop :=
  ∀ (s : State) (p key pool i : Nat) (k : Packet), s.takes p → (s.px p {}).reqTurn = some (key, k, pool, i) →
    (s.panel p).dead.getLsbD k.hdr.src = false →
    let set := s.caching (fun x => decide (x.part = k.hdr.part) && x.mode.feats.testBit 4) &&& ~~~(vbit k.hdr.src)
    let same (t : State) (ph : Phase) (j : Job) : Prop := PanelFrame s t p ∧ Took s t (.panelIn p) key ∧ SameArrays s t p ∧
      OtherHtcs s t p i ∧ (t.panel p).memOut = (s.panel p).memOut ∧
      ∃ h, smFind (t.panel p).htcs i = some h ∧ h.job = j ∧ h.phase = ph ∧ h.pkt = k ∧
        (j = .tiv → h.tset = set ∧ h.expect = popc set ∧ h.sum = 0)
    let waits (j : Job) : Prop := ∃ e ∈ (s.panel p).htcs, e.2.job = j ∧ e.2.pkt.hdr.src = k.hdr.src ∧ e.2.phase ≠ .close
    (k.hdr.opc = oTIv → 0 < popc set →
      ∃ t q, exec (.tiv p) s = .next t ∧ same t .collect .tiv ∧ Sent s t p [q] ∧ q.hdr.cls = cSNP ∧ q.hdr.opc = oSnpTIv ∧
        q.vec = set ∧ q.hdr.htc = p * 1024 + i ∧ q.hdr.dst = (if popc set = 1 then (lowest set).getD 0 else nMulti) ∧
        q.desc.extractLsb' 0 132 = k.desc.extractLsb' 0 132 ∧ q.desc.getLsbD 136 = k.hdr.world.testBit 0 ∧
        q.desc.extractLsb' 132 4 = 0 ∧ q.desc.extractLsb' 137 119 = 0) ∧
    (k.hdr.opc = oTIv → popc set = 0 → ¬ waits .tsy →
      ∃ t a, exec (.tiv p) s = .next t ∧ same t .close .tiv ∧ Sent s t p [a] ∧ Answers a k.hdr cRSP oTIvDone) ∧
    (k.hdr.opc = oTSy → waits .tiv → ∃ t, exec (.tsy p) s = .next t ∧ same t .collect .tsy ∧ Sent s t p []) ∧
    (k.hdr.opc = oTSy → ¬ waits .tiv →
      ∃ t a, exec (.tsy p) s = .next t ∧ same t .close .tsy ∧ Sent s t p [a] ∧ Answers a k.hdr cRSP oTSyDone)

/-- R127, R160: EvC of the sole holder of a clean line, WbD of the holder in U-any and WbO of the owner in O-solo empty the entry,
held by a writeback HTC until its release; a dirty line is written to memory whole. EvC of a line that no way names is answered and
changes nothing.
R60 to R65, R67, R127: EvC of a sharer takes it out of the vector. One holder left is stored in AGENT, and the slot released. Of two or
more, the vector is rewritten in place where the line alone names its slot; else the slot is released and one taken for the new
vector, and where its set has none the line is narrowed to its owner or its lowest agent. -/
def Obligations.EvictionsOfASoleHolder : Prop :=
  (∀ (s : State) (p j w : Nat) (k : Packet) (r : Attr) (es : Nat → Ent), s.takes p → (s.panel p).quiet → s.evicts p k r es →
    (s.px p {}).freeHtc 1 = some j → w < 16 →
    let tag := (s.hash k.hdr.addr).tag
    let only := (es w).tag = tag ∧ (es w).agent = k.hdr.src ∧ ∀ v, v < 16 → v ≠ w → (es v).st ≠ 0 → (es v).tag ≠ tag
    let frees (t : State) (way : Option Nat) : Prop := PanelFrame s t p ∧ Took s t (.panelIn p) cWBK ∧ SameArrays s t p ∧
      OtherHtcs s t p j ∧ ∃ h, smFind (t.panel p).htcs j = some h ∧ h.job = .wbk ∧ h.phase = .close ∧ h.start = s.clk.cyc ∧
        h.line = k.hdr.addr ∧ h.way = way ∧ h.fin.st = 0
    (k.hdr.opc = oEvC → only → (es w).st ∈ [1, 2, 4] →
      ∃ t a, exec (.evc p {}) s = .next t ∧ frees t (some w) ∧ Sent s t p [a] ∧ Answers a k.hdr cRSP oEvAck ∧
        (t.panel p).memOut = (s.panel p).memOut) ∧
    (k.hdr.opc = oEvC → (∀ v, v < 16 → (es v).st ≠ 0 → (es v).tag ≠ tag) →
      ∃ t a, exec (.evc p {}) s = .next t ∧ frees t none ∧ Sent s t p [a] ∧ Answers a k.hdr cRSP oEvAck ∧
        (t.panel p).memOut = (s.panel p).memOut) ∧
    (∀ opc c sts, (opc, c, sts) ∈ [(oWbD, Instr.wbd p {}, [1, 2, 3]), (oWbO, .wbo p {}, [6])] → k.hdr.opc = opc → only →
      (es w).st ∈ sts → k.hdr.poison = false →
      ∃ t a q, exec c s = .next t ∧ frees t (some w) ∧ Sent s t p [a] ∧ Answers a k.hdr cRSP oWbAck ∧
        Issued s t p (r.port (k.hdr.addr * 64)) q ∧ LineMsg q 2 k.hdr.addr (.wr p (s.panel p).wseq) ∧ q.data = k.data ∧
        q.be = BitVec.allOnes 64)) ∧
  (∀ (s : State) (p j w : Nat) (k : Packet) (r : Attr) (es : Nat → Ent) (vs : Nat → PSlot) (x : PSlot), s.takes p →
    (s.panel p).quiet → s.evicts p k r es →
    (s.px p {}).freeHtc 1 = some j → w < 16 → k.hdr.opc = oEvC → (∀ a, a < 256 → (s.portOf a).part < 64) →
    let e := es w
    let own := e.st = 7
    e.tag = (s.hash k.hdr.addr).tag → (∀ v, v < 16 → v ≠ w → (es v).st ≠ 0 → (es v).tag ≠ e.tag) → e.st = 5 ∨ own →
    s.slotReads p e.pal x → x.lost = false → x.uncnt = false → x.valid = true → 1 ≤ x.ref → 2 ≤ popc x.vec →
    x.vec &&& (s.panel p).dead = 0 → x.vec.getLsbD k.hdr.src = true → (own → x.vec.getLsbD e.agent = true ∧ e.agent ≠ k.hdr.src) →
    let rest := x.vec &&& ~~~(vbit k.hdr.src)
    let base := 4 * s.palSetOf rest
    let one := if own then e.agent else (lowest rest).getD 0
    let ends (t : State) (fin : Ent) (sum : Nat) : Prop := exec (.evc p {}) s = .next t ∧ PanelFrame s t p ∧ Took s t (.panelIn p) cWBK ∧
      (t.panel p).dir = (s.panel p).dir ∧ OtherHtcs s t p j ∧ (t.panel p).memOut = (s.panel p).memOut ∧
      ∃ h, smFind (t.panel p).htcs j = some h ∧ h.job = .wbk ∧ h.phase = .close ∧ h.start = s.clk.cyc ∧ h.line = k.hdr.addr ∧
        h.way = some w ∧ h.fin = fin ∧ h.expect = sum ∧ h.sum = 0
    let thin : Ent := { st := if own then 6 else 4, agent := one, age := e.age }
    let wide (n : Nat) : Ent := { st := e.st, agent := if own then e.agent else 0, pal := n, age := e.age }
    (popc rest = 1 → ∃ t a, ends t thin 0 ∧ Sent s t p [a] ∧ Answers a k.hdr cRSP oEvAck ∧ OnlySlots s t p [e.pal] ∧
      Written t p e.pal x.released) ∧
    (2 ≤ popc rest → x.ref = 1 → ∃ t a y, ends t (wide e.pal) 0 ∧ Sent s t p [a] ∧ Answers a k.hdr cRSP oEvAck ∧
      OnlySlots s t p [e.pal] ∧ Written t p e.pal y ∧ s.partRule rest y ∧
      y = { x with vec := rest, part := y.part, mixed := y.mixed }) ∧
    (2 ≤ popc rest → 2 ≤ x.ref → s.palSetReads p rest (some (e.pal, x.released)) vs →
      (¬ NoSlot rest vs → ∃ t a n y, ends t (wide (base + n)) 0 ∧ Sent s t p [a] ∧ Answers a k.hdr cRSP oEvAck ∧
        s.takesSlot rest vs n y ∧ OnlySlots s t p [e.pal, base + n] ∧ Written t p e.pal x.released ∧ Written t p (base + n) y) ∧
      (NoSlot rest vs → ∃ t a qs, ends t thin (popc rest - 1) ∧ Sent s t p (a :: qs) ∧ Answers a k.hdr cRSP oEvAck ∧
        Snoops p j k.hdr.addr 0 none (rest &&& ~~~(vbit one)) qs ∧ OnlySlots s t p [e.pal] ∧ Written t p e.pal x.released)))

/-- R112, R160: an HTC is freed 3 HCLK after CLOSE, a writeback HTC 8 HCLK after it started, once its invalidations are answered and
not before: the way it holds takes the entry that it formed, with the line's TAG and zero in the fields that its STATE leaves unused
(R51). Here the agents of the entry live, and its Palette slot names two holders or more. -/
def Obligations.HtcEndWritesItsEntry : Prop :=
  ∀ (s : State) (p i : Nat) (h : Htc), s.acts p → (s.panel p).calm → smFind (s.panel p).htcs i = some h →
    let due := h.phase = .close ∧ h.expect ≤ h.sum
    let free := due ∧ h.job ≠ .wbk ∧ h.closeAt + 3 ≤ s.clk.cyc
    let release := due ∧ h.job = .wbk ∧ h.start + 8 ≤ s.clk.cyc
    let hm := s.hash h.line
    let alone := (∀ e ∈ (s.panel p).htcs, e.1 ≠ i → e.2.onLine h.line = false) ∧ h.comet = false ∧
      (s.panel p).dead.getLsbD h.fin.agent = false ∧ (h.job = .hold → h.way = none) ∧
      (h.fin.st = 5 ∨ h.fin.st = 7 → ∃ v, s.slotReads p h.fin.pal v ∧
        (v.lost = true ∨ h.fin.st = 5 ∧ 2 ≤ popc v.vec ∨ h.fin.st = 7 ∧ v.vec ≠ vbit h.fin.agent))
    let ends (t : State) : Prop := PanelFrame s t p ∧ t.net = s.net ∧ t.w4 = s.w4 ∧ smFind (t.panel p).htcs i = none ∧
      OtherHtcs s t p i ∧ Sent s t p [] ∧ (t.panel p).memOut = (s.panel p).memOut ∧ (t.panel p).pal = (s.panel p).pal ∧
      (h.way = none → (t.panel p).dir = (s.panel p).dir) ∧
      ∀ w, h.way = some w →
        smFind (t.panel p).dir (hm.set * 16 + w) =
          some (if h.fin.st = 0 then ({} : Ent) else { h.fin with tag := hm.tag }).canon.enc ∧
        ∀ x, x ≠ hm.set * 16 + w → smFind (t.panel p).dir x = smFind (s.panel p).dir x
    (free → alone → ∃ t, exec (.htcFreed p i {}) s = .next t ∧ ends t) ∧ (¬ free → exec (.htcFreed p i {}) s = .next s) ∧
    (release → alone → ∃ t, exec (.wbkLineRelease p i {}) s = .next t ∧ ends t) ∧
    (¬ release → exec (.wbkLineRelease p i {}) s = .next s)

/-- R51, R116, R130, R133: DirtyHint of the holder turns U-clean into U-dirty; SnpAck adds its COUNT to the sum, and the last one restarts
the time of a narrowed CLOSE; the CompAck of a line's only holder ends GRANT, its entry naming the requester as its MARKS say. -/
def Obligations.AcknowledgementsAtTheHome : Prop :=
  ∀ (s : State) (p i : Nat) (k : Packet) (h : Htc), s.takes p → (s.panel p).calm →
    (∀ (es : Nat → Ent) (w : Nat), let hm := s.hash k.hdr.addr
      (s.q (.panelIn p) cRSP).head? = some k → k.hdr.opc = oDirtyHint → (∀ e ∈ (s.panel p).htcs, e.2.onLine k.hdr.addr = false) →
      s.setReads p hm.set es → w < 16 → (es w).st = 2 → (es w).tag = hm.tag →
      (∀ v, v < 16 → v ≠ w → ¬ ((es v).st = 2 ∧ (es v).tag = hm.tag)) →
      ∃ t, exec (.dirtyhint p {}) s = .next t ∧ PanelFrame s t p ∧ Took s t (.panelIn p) cRSP ∧
        (t.panel p).htcs = (s.panel p).htcs ∧ (t.panel p).pal = (s.panel p).pal ∧ Sent s t p [] ∧
        ((es w).agent = k.hdr.src → smFind (t.panel p).dir (hm.set * 16 + w) = some ({ es w with st := 3 } : Ent).canon.enc ∧
          ∀ x, x ≠ hm.set * 16 + w → smFind (t.panel p).dir x = smFind (s.panel p).dir x) ∧
        ((es w).agent ≠ k.hdr.src → (t.panel p).dir = (s.panel p).dir)) ∧
    (∀ mgt : Bool, let cls := if mgt then cMGT else cRSP
      (s.q (.panelIn p) cls).head? = some k → k.hdr.opc = (if mgt then 32 + oSnpAck else oSnpAck) →
      k.hdr.htc / 1024 = p → smFind (s.panel p).htcs (k.hdr.htc % 1024) = some h → ¬ (h.ow = some k.hdr.src ∧ h.owAck = false) →
      let sum := h.sum + k.hdr.tag % 512
      let counts (t : State) : Prop := PanelFrame s t p ∧ Took s t (.panelIn p) cls ∧ SameArrays s t p ∧
        OtherHtcs s t p (k.hdr.htc % 1024) ∧ Sent s t p [] ∧ (t.panel p).memOut = (s.panel p).memOut
      (h.job = .req → h.phase = .collect → h.tabled = true → sum < h.expect →
        ∃ t h', exec (.snpack p mgt {}) s = .next t ∧ counts t ∧ smFind (t.panel p).htcs (k.hdr.htc % 1024) = some h' ∧
          h'.sum = sum ∧ h'.expect = h.expect ∧ h'.phase = .collect ∧ h'.ow = h.ow ∧ h'.owAck = h.owAck) ∧
      (h.job ≠ .sweep → h.phase = .close → h.sum < h.expect → sum = h.expect →
        ∃ t h', exec (.snpack p mgt {}) s = .next t ∧ counts t ∧ smFind (t.panel p).htcs (k.hdr.htc % 1024) = some h' ∧
          h'.sum = h.expect ∧ h'.phase = .close ∧ h'.closeAt = s.clk.cyc ∧ h'.fin = h.fin)) ∧
    ((s.q (.panelIn p) cRSP).head? = some k → k.hdr.opc = oCompAck → k.hdr.src < 256 →
      k.hdr.htc = p * 1024 + i → i < 1024 → smFind (s.panel p).htcs i = some h →
      h.job = .req → h.phase = .grant → h.tabled = true → 1 ≤ h.pkt.hdr.opc → h.pkt.hdr.opc ≤ 3 → h.pkt.hdr.src = k.hdr.src →
      h.cack = none → h.deadRq = false → h.ow = none → h.owAck = true → h.owNeed = false → h.owEvict = false → h.ent = {} →
      h.oldPal = none → h.hint = false → (∃ comp, h.plan = { comp := comp, dsrc := 0 }) →
      ∀ marks st, (marks, st) ∈ [(1, 4), (2, if s.dh k.hdr.src then 2 else 1), (3, if s.dh k.hdr.src then 3 else 1), (4, 6)] →
        k.hdr.marks = marks →
        ∃ t h', exec (.compack p {}) s = .next t ∧ PanelFrame s t p ∧ Took s t (.panelIn p) cRSP ∧ SameArrays s t p ∧
          OtherHtcs s t p i ∧ Sent s t p [] ∧ (t.panel p).memOut = (s.panel p).memOut ∧ smFind (t.panel p).htcs i = some h' ∧
          h'.phase = .close ∧ h'.closeAt = s.clk.cyc ∧ h'.way = h.way ∧ h'.fin.st = st ∧ h'.fin.agent = k.hdr.src)

/-- R96, R128, R430: the dirty line that a snooped owner has announced, and the dirty line that SweepData brings, are written to
memory whole; the sweep HTC answers WbAck, and the request's HTC keeps the line. SweepData of a line that the directory does not track
waits while no data-buffer line is free (R189). A DataFwd that comes before its owner's SnpAck is
held, and nothing is written (log entry 46, the model's choice).
R101, R103 to R106, R118, R119, R121 to R123: a line in H is served from its proxy slot. RdS, RdU and Upg write it to memory, with the
writers that the slot covers, and send DataHome; RdO sends what it asks for; WrU merges its bytes and AtP computes, each in the slot, its
writer covered from then on, the line staying in H. The CompAck of a request that took the line out of H frees the slot. -/
def Obligations.DirtyDataAtTheHome : Prop :=
  (∀ (s : State) (p i : Nat) (k : Packet) (h : Htc) (r : Attr), s.takes p → (s.panel p).calm →
    k.hdr.htc = p * 1024 + i → i < 1024 → smFind (s.panel p).htcs i = some h → (s.q (.panelIn p) cDAT).head? = some k →
    k.hdr.poison = false → r.kind = 0 →
    let common (t : State) : Prop := PanelFrame s t p ∧ Took s t (.panelIn p) cDAT ∧ SameArrays s t p ∧ OtherHtcs s t p i
    (k.hdr.opc = oDataFwd → h.job = .req → h.phase = .collect → h.tabled = true → h.pkt.hdr.opc ≠ oWrU → h.ow = some k.hdr.src →
      h.owSnp ∈ [3, 5, 7] → (s.panel p).dead.getLsbD k.hdr.src = false → h.buf = none → h.fwd = none → h.owAck = true →
      h.owNeed = true → h.sum < h.expect → h.reg = some r →
      ∃ t h' q, exec (.datafwdToHome p {}) s = .next t ∧ common t ∧ Sent s t p [] ∧ Issued s t p (r.port (h.line * 64)) q ∧
        LineMsg q 2 h.line (.wr p (s.panel p).wseq) ∧ q.data = k.data ∧ q.be = BitVec.allOnes 64 ∧
        smFind (t.panel p).htcs i = some h' ∧ h'.buf = some { data := k.data } ∧ h'.owNeed = false ∧ h'.phase = .collect) ∧
    (k.hdr.opc = oDataFwd → h.phase = .collect → h.ow = some k.hdr.src → h.owSnp ∈ [3, 5, 7] →
      (s.panel p).dead.getLsbD k.hdr.src = false → h.buf = none → h.fwd = none → h.owAck = false →
      ∃ t, exec (.datafwdToHome p {}) s = .next t ∧ common t ∧ Sent s t p [] ∧ (t.panel p).memOut = (s.panel p).memOut ∧
        smFind (t.panel p).htcs i = some { h with fwd := some { data := k.data } }) ∧
    (k.hdr.opc = oSweepData → h.job = .sweep → h.phase = .collect → (s.px p {}).regOf k.hdr.addr = some r →
      ¬ (k.hdr.world = 1 ∧ r.world = 0) → (s.px p {}).bufFree = true ∨ (∃ es, s.setReads p (s.hash k.hdr.addr).set es ∧
        ∃ w, w < 16 ∧ (es w).st ≠ 0 ∧ (es w).tag = (s.hash k.hdr.addr).tag) →
      ∃ t q a, exec (.sweepdata p {}) s = .next t ∧ common t ∧ Sent s t p [a] ∧ a.hdr.cls = cRSP ∧ a.hdr.opc = oWbAck ∧
        a.hdr.dst = k.hdr.src ∧ Issued s t p (r.port (k.hdr.addr * 64)) q ∧ LineMsg q 2 k.hdr.addr (.wr p (s.panel p).wseq) ∧
        q.data = k.data ∧ q.be = BitVec.allOnes 64 ∧ smFind (t.panel p).htcs i = some h) ∧
    (∀ es, k.hdr.opc = oSweepData → (s.px p {}).bufFree = false → s.setReads p (s.hash k.hdr.addr).set es →
      (∀ w, w < 16 → (es w).st ≠ 0 → (es w).tag ≠ (s.hash k.hdr.addr).tag) →
      ∃ t, exec (.sweepdata p {}) s = .next t ∧ PanelFrame s t p ∧ t.net = s.net ∧ t.w4 = s.w4 ∧ t.panel p = s.panel p)) ∧
  (∀ (s : State) (p i w : Nat) (h : Htc) (k : Packet) (r : Attr) (es : Nat → Ent) (b : Proxy), s.takes p → s.decides p i h k r es →
    s.tracked k es w → (es w).st = 8 → (es w).agent < 32 → smFind (s.panel p).proxy (es w).agent = some b → b.line = k.hdr.addr →
    b.poison = false →
    let n := (es w).agent
    let stays (t : State) : Prop := exec (.htcStartQueued p i {}) s = .next t ∧ PanelFrame s t p ∧ t.net = s.net ∧ SameArrays s t p ∧
      OtherHtcs s t p i ∧ ∀ j, j ≠ n → smFind (t.panel p).proxy j = smFind (s.panel p).proxy j
    let ends (t : State) : Prop := stays t ∧ (t.panel p).memOut = (s.panel p).memOut ∧ ∃ g, smFind (t.panel p).htcs i = some g ∧
      g.phase = .close ∧ g.closeAt = s.clk.cyc ∧ g.pkt = k ∧ g.way = some w ∧ g.fin.st = 8 ∧ g.fin.agent = n ∧ g.fin.age = 0
    let covered (t : State) (d : BitVec 512) : Prop := ∃ c, smFind (t.panel p).proxy n = some c ∧ c.line = b.line ∧ c.data = d ∧
      c.poison = false ∧ c.who = b.who ++ [(k.hdr.src, h.seq)]
    (∀ opc ∈ [oRdS, oRdU, oUpg], k.hdr.opc = opc →
      ∃ t c d g q x, stays t ∧ Sent s t p [c, d] ∧ Answers c k.hdr cRSP (if opc = oRdS then oCompE else oCompU) ∧ c.hdr.size = 1 ∧
        Answers d k.hdr cDAT oDataHome ∧ d.data = b.data ∧ d.hdr.poison = false ∧ Issued s t p (r.port (k.hdr.addr * 64)) q ∧
        LineMsg q 2 k.hdr.addr (.wr p (s.panel p).wseq) ∧ q.data = b.data ∧ q.be = BitVec.allOnes 64 ∧
        smFind (t.panel p).wrs (s.panel p).wseq = some x ∧ x.who = b.who ∧ smFind (t.panel p).htcs i = some g ∧ g.phase = .grant ∧
        g.pkt = k ∧ g.way = some w ∧ g.pslot = some n ∧ g.plan.fromH = true) ∧
    (k.hdr.opc = oRdO → ∃ t d, ends t ∧ Sent s t p [d] ∧ Answers d k.hdr cDAT oDataHome ∧ d.hdr.poison = false ∧
      smFind (t.panel p).proxy n = some b ∧
      let off := k.hdr.htc % 64
      ∀ y, y < 64 → d.data.extractLsb' (8 * y) 8 =
        if k.hdr.size = 6 ∨ (off ≤ y ∧ y < off + 2 ^ k.hdr.size) then b.data.extractLsb' (8 * y) 8 else 0) ∧
    (k.hdr.opc = oWrU → k.hdr.poison = false → ∃ t a d, ends t ∧ Sent s t p [a] ∧ Answers a k.hdr cRSP oWrAcc ∧ a.hdr.err = 0 ∧ covered t d ∧
      ∀ y, y < 64 → d.extractLsb' (8 * y) 8 =
        if (wruMask k).getLsbD y = true then k.data.extractLsb' (8 * y) 8 else b.data.extractLsb' (8 * y) 8) ∧
    (k.hdr.opc = oAtP → ∃ t a d, ends t ∧ Sent s t p [a] ∧ Answers a k.hdr cDAT oDataHome ∧ a.hdr.poison = false ∧ covered t d ∧
      Atomic k b.data d a.data)) ∧
  (∀ (s : State) (p i n : Nat) (k : Packet) (h : Htc) (b : Proxy), s.takes p → (s.panel p).calm → (s.q (.panelIn p) cRSP).head? = some k →
    k.hdr.opc = oCompAck → k.hdr.src < 256 → k.hdr.htc = p * 1024 + i → i < 1024 → smFind (s.panel p).htcs i = some h →
    h.job = .req → h.phase = .grant → h.tabled = true → 1 ≤ h.pkt.hdr.opc → h.pkt.hdr.opc ≤ 3 → h.pkt.hdr.src = k.hdr.src →
    h.cack = none → h.deadRq = false → h.ow = none → h.owAck = true → h.owNeed = false → h.owEvict = false → h.ent.st = 8 →
    h.oldPal = none → h.hint = false → h.pslot = some n → smFind (s.panel p).proxy n = some b →
    (∃ comp, h.plan = { comp := comp, dsrc := 1, fromH := true }) → k.hdr.marks = 2 ∨ k.hdr.marks = 3 →
    ∃ t h', exec (.compack p {}) s = .next t ∧ PanelFrame s t p ∧ Took s t (.panelIn p) cRSP ∧ SameArrays s t p ∧ OtherHtcs s t p i ∧
      Sent s t p [] ∧ (t.panel p).memOut = (s.panel p).memOut ∧ smFind (t.panel p).proxy n = none ∧
      (∀ j, j ≠ n → smFind (t.panel p).proxy j = smFind (s.panel p).proxy j) ∧ smFind (t.panel p).htcs i = some h' ∧
      h'.phase = .close ∧ h'.way = h.way ∧ h'.fin.agent = k.hdr.src ∧
      h'.fin.st = if s.dh k.hdr.src = false then 1 else if k.hdr.marks = 3 then 3 else 2)

/-- R159, R161, R437, R438: a queued request or recall starts, at D0, when its line is free; one that may not start changes nothing; a
corrected replay counts, starts an HTC again that has not reached D8, and sends nothing twice; an uncorrectable HTC record is fatal and
freezes the panel, whatever the message. -/
def Obligations.QueuedReplayedAndBrokenHtcs : Prop :=
  ∀ (s : State) (p i : Nat) (c : Htc), s.takes p → (s.panel p).calm →
    let atD0 (t : State) : Prop := SameArrays s t p ∧ OtherHtcs s t p i ∧ Sent s t p [] ∧ (t.panel p).memOut = (s.panel p).memOut ∧
      ∃ h, smFind (t.panel p).htcs i = some h ∧ h.phase = .decide ∧ h.hold = .go ∧ h.start = s.clk.cyc ∧ h.dread = false ∧
        h.job = c.job ∧ h.pkt = c.pkt ∧ h.line = c.line ∧ h.seq = c.seq
    (smFind (s.panel p).htcs i = some c → c.job ∈ [Job.req, .mRecall, .mInv] → c.phase = .queued →
      (s.px p {}).mayStart i c = true →
      ∃ t, exec (.htcStartQueued p i {}) s = .next t ∧ PanelFrame s t p ∧ t.net = s.net ∧ t.w4 = s.w4 ∧ atD0 t) ∧
    (smFind (s.panel p).htcs i = some c → (s.px p {}).mayStart i c = false →
      ∃ t, exec (.htcStartQueued p i {}) s = .next t ∧ PanelFrame s t p ∧ t.net = s.net ∧ t.w4 = s.w4 ∧ t.panel p = s.panel p) ∧
    (smFind (s.panel p).htcs i = some c → c.job ∈ [Job.req, .mRecall, .mInv] → c.phase = .decide → c.hold ∈ [Hold.go, .way, .device] →
      (∀ e ∈ (s.panel p).htcs, e.1 ≠ i → e.2.onLine c.line = true → e.2.phase = .queued) →
      ∃ t, exec (.htcReplay p i false {}) s = .next t ∧ SameBase s t ∧ SameTree s t ∧ SamePins s t ∧ t.mps = s.mps ∧ atD0 t ∧
        (∀ q, q ≠ p → t.panel q = s.panel q) ∧ t.w6g (0x900F0 + 0x1000 * p) = ctrAdd (s.w6g (0x900F0 + 0x1000 * p)) 1) ∧
    (smFind (s.panel p).htcs i = some c → c.phase ≠ .decide →
      ∃ t, exec (.htcReplay p i false {}) s = .next t ∧ SameBase s t ∧ SameTree s t ∧ SamePins s t ∧ (∀ q, t.panel q = s.panel q) ∧
        t.mps = s.mps ∧ t.w6g (0x900F0 + 0x1000 * p) = ctrAdd (s.w6g (0x900F0 + 0x1000 * p)) 1) ∧
    (smFind (s.panel p).htcs i = some c → ∀ u, ∃ t, exec (.htcReplay p i true u) s = .next t ∧ FatalHtc s t p) ∧
    (∀ u : Upset, u.rcd = .ue →
      (∀ opc cmd key k pool j, (opc, cmd) ∈ [(oRdS, Instr.rds p u), (oRdU, .rdu p u), (oUpg, .upg p u), (oRdO, .rdo p u),
          (oWrU, .wru p u), (oAtP, .atp p u)] →
        (s.px p u).reqTurn = some (key, k, pool, j) → k.hdr.opc = opc → ∃ t, exec cmd s = .next t ∧ FatalHtc s t p) ∧
      (∀ opc cmd k, (opc, cmd) ∈ [(oEvC, Instr.evc p u), (oWbD, .wbd p u), (oWbO, .wbo p u)] → (s.px p u).wbkTurn = some k →
        k.hdr.opc = opc → ∃ t, exec cmd s = .next t ∧ FatalHtc s t p))

/-- R447, R449, R450: a death marker marks its agent dead and starts a scan or joins the next one; the scan takes the dead agents out
of every valid Palette slot's vector, in the codewords that hold them, a lost one's too, then empties each clean entry that names
one, set by set. -/
def Obligations.DeathMarkersAndScans : Prop :=
  ∀ (s : State) (p : Nat), s.takes p →
    (∀ k, (s.px p {}).wbkTurn = some k → k.hdr.opc = 63 →
      ∃ t, exec (.deathMarker p {}) s = .next t ∧ (t.panel p).dead = (s.panel p).dead ||| vbit k.aux) ∧
    (∀ c, (s.panel p).scan = some c → c.pal = true →
      ∃ t, exec (.deadScanPaletteSlot p {}) s = .next t ∧ (t.panel p).dead = (s.panel p).dead ∧
        (t.panel p).scan = some (if c.pos + 1 < 4 * s.build.palSets then { c with pos := c.pos + 1 }
          else { c with pal := false, pos := 0 })) ∧
    (∀ k, (s.px p {}).wbkTurn = some k → k.hdr.opc = 63 → (s.panel p).dead.getLsbD k.aux = false →
      (∀ e ∈ (s.panel p).htcs, e.2.pkt.hdr.src ≠ k.aux ∧
        ¬ ((e.2.owEvict = true ∨ e.2.owNeed = true ∨ k.desc ≠ 0) ∧ e.2.ow = some k.aux)) →
      ∃ t, exec (.deathMarker p {}) s = .next t ∧ PanelFrame s t p ∧ t.w4 = s.w4 ∧ Took s t (.panelIn p) cWBK ∧ SameArrays s t p ∧
        (t.panel p).htcs = (s.panel p).htcs ∧ Sent s t p [] ∧ (t.panel p).dead = (s.panel p).dead ||| vbit k.aux ∧
        ((s.panel p).scan = none →
          (t.panel p).scan = some { agents := vbit k.aux } ∧ (t.panel p).scanNext = (s.panel p).scanNext) ∧
        ((s.panel p).scan ≠ none →
          (t.panel p).scan = (s.panel p).scan ∧ (t.panel p).scanNext = (s.panel p).scanNext ||| vbit k.aux)) ∧
    (∀ c v, (s.panel p).scan = some c → c.pal = true → s.slotReads p c.pos v →
      let hit (j : Nat) : Prop := v.valid = true ∧ (v.vec &&& c.agents).extractLsb' (64 * j) 64 ≠ 0
      ∃ t, exec (.deadScanPaletteSlot p {}) s = .next t ∧ PanelFrame s t p ∧ t.net = s.net ∧ t.w4 = s.w4 ∧
        (t.panel p).dir = (s.panel p).dir ∧ (t.panel p).htcs = (s.panel p).htcs ∧ (t.panel p).dead = (s.panel p).dead ∧
        (∀ j, j < 4 → hit j → smFind (t.panel p).pal (c.pos * 8 + j) =
          some (encW ((v.vec &&& ~~~c.agents).extractLsb' (64 * j) 64))) ∧
        (∀ j, ¬ (j / 8 = c.pos ∧ j % 8 < 4 ∧ hit (j % 8)) → smFind (t.panel p).pal j = smFind (s.panel p).pal j) ∧
        (t.panel p).scan = some (if c.pos + 1 < 4 * s.build.palSets then { c with pos := c.pos + 1 }
          else { c with pal := false, pos := 0 })) ∧
    (∀ c es, (s.panel p).scan = some c → c.pal = false → s.setReads p c.pos es → c.pos ∉ (s.panel p).sweeping →
      (∀ w, w < 16 → (es w).st ≠ 0 → (s.px p {}).lineBusy (s.unhash p c.pos (es w).tag) = false) →
      (∀ w, w < 16 → (es w).st ∈ [0, 2, 4, 8] ∨ (es w).st ∈ [1, 3, 6] ∧ c.agents.getLsbD (es w).agent = false) →
      ∃ t, exec (.deadScanDirectorySet p {}) s = .next t ∧ PanelFrame s t p ∧ t.net = s.net ∧ t.w4 = s.w4 ∧
        (t.panel p).pal = (s.panel p).pal ∧ (t.panel p).htcs = (s.panel p).htcs ∧ (t.panel p).memOut = (s.panel p).memOut ∧
        (∀ w, w < 16 → smFind (t.panel p).dir (c.pos * 16 + w) =
          if (es w).st ∈ [2, 4] ∧ c.agents.getLsbD (es w).agent = true then some ({} : Ent).enc
          else smFind (s.panel p).dir (c.pos * 16 + w)) ∧
        (∀ x, x / 16 ≠ c.pos → smFind (t.panel p).dir x = smFind (s.panel p).dir x) ∧
        (c.pos + 1 < s.build.sets → (t.panel p).scan = some { c with pos := c.pos + 1 }) ∧
        (s.build.sets ≤ c.pos + 1 → (s.panel p).scanNext = 0 → (t.panel p).scan = none) ∧
        (s.build.sets ≤ c.pos + 1 → (s.panel p).scanNext ≠ 0 →
          (t.panel p).scan = some { agents := (s.panel p).scanNext } ∧ (t.panel p).scanNext = 0))

/-- R153, R421 to R424: a Restorer step that is due takes a management HTC and is the panel's management request of its KCLK; on a set it
ages every entry, AGE saturating at 3, and goes on to the next; on an empty Palette slot it only goes on, and after the last slot the
panel's pass begins again; before its time a step does nothing, and where the panel cannot take the request yet, it waits in the root's
input, with the root's epoch, and crosses later (R40, R214). That RS_PASS counts when every panel that still acts has ended its pass is
the model's choice (log entry 66), and so is that panels step by commands of their own (log entry 18). -/
def Obligations.RestorerStepsOfAPanel : Prop :=
  ∀ (s : State) (p : Nat), s.acts p → s.build.ok → (s.panel p).calm → (s.panel p).recount = none →
    let pos := (s.panel p).rpos
    let last := s.build.sets + 4 * s.build.palSets
    let asked : RestIn := { panel := p, recnt := false, pos := pos, epoch := (s.router 40).epoch }
    let due : Prop := s.stepDue p = true ∨ (∃ e, s.restWaiting p = some { asked with epoch := e }) ∧ s.mgmtOpen p = true
    let stepped (t : State) : Prop := CrossFrame s t p ∧ t.tr = s.tr ∧ Sent s t p [] ∧ (t.panel p).memOut = (s.panel p).memOut ∧
      (t.panel p).mgmtAt = some (s.clk.cyc / 8) ∧ (s.stepDue p = true → p ∈ t.rs.took) ∧
      t.net.rsMgt = (match s.restWaiting p with | some q => s.net.rsMgt.erase q | none => s.net.rsMgt) ∧
      ∃ i h, (s.px p {}).freeHtc 2 = some i ∧ OtherHtcs s t p i ∧ smFind (t.panel p).htcs i = some h ∧ h.job = .hold ∧ h.pool = 2 ∧
        h.phase = .close
    ((s.restWaiting p = none ∧ s.stepAsk p = false) ∨ ((s.restWaiting p).isSome = true ∧ s.mgmtOpen p = false) →
      exec (.restorerDirectoryStep p {}) s = .next s ∧ exec (.restorerPaletteStep p {}) s = .next s) ∧
    (s.stepAsk p = true → s.mgmtOpen p = false → ∀ c, (pos < s.build.sets ∧ c = Instr.restorerDirectoryStep p {}) ∨
        (s.build.sets ≤ pos ∧ pos < last ∧ c = .restorerPaletteStep p {}) →
      ∃ t, exec c s = .next t ∧ CrossFrame s t p ∧ t.tr = s.tr ∧ t.w6 = s.w6 ∧ t.panels = s.panels ∧ p ∈ t.rs.took ∧
        t.net.rsMgt = s.net.rsMgt ++ [asked]) ∧
    (∀ es, due → s.ep.cals = [] → pos < s.build.sets → s.setReads p pos es → (s.panel p).merges = [] →
      pos ∉ (s.panel p).sweeping → (s.sharer ≠ some p ∨ 544 + s.build.p ≤ pos) →
      (∀ w, w < 16 → (es w).st ≠ 0 → (s.px p {}).lineBusy (s.unhash p pos (es w).tag) = false) →
      ∃ t, exec (.restorerDirectoryStep p {}) s = .next t ∧ stepped t ∧ t.w6 = s.w6 ∧
        (t.panel p).pal = (s.panel p).pal ∧ (t.panel p).rpos = pos + 1 ∧ t.rs.passed = s.rs.passed ∧
        (∀ w, w < 16 → smFind (t.panel p).dir (pos * 16 + w) =
          if (es w).st = 0 then smFind (s.panel p).dir (pos * 16 + w)
          else some ({ es w with age := min 3 ((es w).age + 1) } : Ent).canon.enc) ∧
        ∀ x, x / 16 ≠ pos → smFind (t.panel p).dir x = smFind (s.panel p).dir x) ∧
    (∀ v, due → s.ep.cals = [] → s.rs.dip = false → s.build.sets ≤ pos → pos < last →
      s.slotReads p (pos - s.build.sets) v → v.valid = false →
      let all : Prop := ∀ q, q < s.build.panels → q = p ∨ q ∈ s.rs.passed ∨ s.panelFrozen q = true
      ∃ t, exec (.restorerPaletteStep p {}) s = .next t ∧ stepped t ∧ SameArrays s t p ∧
        (t.panel p).rpos = (if pos + 1 < last then pos + 1 else 0) ∧
        (pos + 1 < last → t.w6 = s.w6 ∧ t.rs.passed = s.rs.passed) ∧
        (pos + 1 = last → all → t.w6g 0xA1210 = ctrAdd (s.w6g 0xA1210) 1 ∧ t.rs.passed = []) ∧
        (pos + 1 = last → ¬ all → t.w6 = s.w6 ∧ t.rs.passed = p :: s.rs.passed))

/-- R189, R425, R427: a set sweep starts only for a set whose trigger waits, in a management HTC; where no other HTC holds a line of
the set, 16 data-buffer lines are free and no way has a holder without sweep support, it sends SnpSweep to the agents that have it, and it
does so too where a way is untrusted and no admitted caching agent is without sweep support; before that it waits in DECIDE. Here no
request of the set stands in DECIDE past D2. -/
def Obligations.SetSweepStarts : Prop :=
  ∀ (s : State) (p set : Nat), s.acts p → (s.panel p).calm → set < s.build.sets →
    let x := s.px p {}
    let ask := s.caching fun y => y.mode.feats.testBit 2
    let takes (t : State) (i : Nat) (ph : Phase) : Prop := SameArrays s t p ∧
      OtherHtcs s t p i ∧ set ∈ (t.panel p).sweeping ∧ (∀ o, (set, o) ∉ (t.panel p).trigs) ∧
      ∃ h, smFind (t.panel p).htcs i = some h ∧ h.job = .sweep ∧ h.phase = ph ∧ h.line = set ∧ h.pool = 2 ∧
        (ph = .collect → h.tset = ask ∧ h.expect = popc ask ∧ h.sum = 0)
    let sends (t : State) (i : Nat) : Prop := ∃ q, Sent s t p [q] ∧ q.hdr.cls = cMGT ∧
      q.hdr.opc = oSnpSweep ∧ q.hdr.htc = p * 1024 + i ∧ q.vec = ask ∧
      q.hdr.dst = (if popc ask = 1 then (lowest ask).getD 0 else nMulti)
    let able (e : Ent) : Prop := e.st = 0 ∨ e.st = 8 ∨ let d := (x.holders e.canon).2
      (∀ a, a < 256 → d.vec.getLsbD a = true → s.feat a 2 = true) ∧ (isO d.ent.st = true → s.feat d.ent.agent 2 = true)
    ((∀ o, (set, o) ∉ (s.panel p).trigs) →
      ∃ t, exec (.setSweepStart p set {}) s = .next t ∧ PanelFrame s t p ∧ t.net = s.net ∧ t.panel p = s.panel p) ∧
    (∀ i o, (set, o) ∈ (s.panel p).trigs → (∀ e ∈ (s.panel p).htcs, ¬ (e.2.job = .sweep ∧ e.2.line = set)) →
      x.freeHtc 2 = some i →
      (∀ e ∈ (s.panel p).htcs, ¬ (e.2.job = .req ∧ e.2.phase = .decide ∧ e.2.hold ≠ .go ∧ x.setOf e.2.line = set)) →
      let room : Prop := ((s.panel p).htcs.map fun e => e.2.bufs).sum + 16 ≤ 256
      (x.setClear i set = false ∨ ¬ room →
        ∃ t, exec (.setSweepStart p set {}) s = .next t ∧ PanelFrame s t p ∧ t.net = s.net ∧ takes t i .decide ∧ Sent s t p []) ∧
      (x.setClear i set = true → room → ask ≠ 0 →
        (∀ e ∈ (s.panel p).htcs, ¬ (e.2.job = .wbk ∧ e.2.phase = .queued ∧ x.setOf e.2.line = set)) →
        (∀ es, s.setReads p set es → (∀ w, w < 16 → able (es w)) →
          ∃ t, exec (.setSweepStart p set {}) s = .next t ∧ PanelFrame s t p ∧ t.net = s.net ∧ takes t i .collect ∧ sends t i) ∧
        (∀ es : Nat → Ent, (∃ w, w < 16 ∧ s.wayBad p set w) →
          (∀ w, w < 16 → s.wayBad p set w ∨ s.wayOf p set w = some (es w) ∧ (es w).st ≤ 8 ∧ able (es w)) →
          (∀ e ∈ s.ports, ¬ (e.2.lstate = .admitted ∧ e.2.mode.kind = 1 ∧ e.2.mode.feats.testBit 2 = false)) →
          ∃ t, exec (.setSweepStart p set {}) s = .next t ∧ SameBase s t ∧ SamePins s t ∧ t.ports = s.ports ∧ t.routers = s.routers ∧
            t.net = s.net ∧ t.mps = s.mps ∧ (∀ q, q ≠ p → t.panel q = s.panel q) ∧ takes t i .collect ∧ sends t i)))

/-- R148, R151 to R153, R216, R220: a RECALL request of the Easel, waiting at the root, crosses to its panel before any other packet and
holds the link for an HCLK; there it takes a management HTC, where it waits while its line is busy, and else stands in DECIDE. A request
of the Restorer that waits for the panel goes before it (the model's choice, log entry 17). A panel that has had its management request in
this KCLK, or that has no management HTC free, gets no other: the Restorer's waits too. -/
def Obligations.OneManagementRequestInAKclk : Prop :=
  ∀ (s : State) (p : Nat) (u : HopUps), s.takes p →
    (∀ line op skip e i, s.net.ezMgt.find? (fun q => q.panel = p) = some { panel := p, req := .recall line op skip, epoch := e } →
      s.ez.asks = [] → s.restWaiting p = none → (s.panel p).mgmtAt ≠ some (s.clk.cyc / 8) →
      (s.px p {}).freeHtc 2 = some i → (s.px p {}).acceptTime = true → smGet 0 s.net.dbl (outId (.rootToPanel p)) ≤ s.clk.cyc →
      s.routerFrozen 40 = false →
      ∃ t h, exec (.packetHop (.rootToPanel p) u) s = .next t ∧ SameBase s t ∧ SamePins s t ∧ t.ports = s.ports ∧ t.mps = s.mps ∧
        (∀ l k, t.q l k = s.q l k) ∧ (∀ q, q ≠ p → t.panel q = s.panel q) ∧ SameArrays s t p ∧ OtherHtcs s t p i ∧ Sent s t p [] ∧
        t.net.ezMgt = s.net.ezMgt.erase { panel := p, req := .recall line op skip, epoch := e } ∧
        smGet 0 t.net.dbl (outId (.rootToPanel p)) = s.clk.cyc + 1 ∧
        (t.panel p).mgmtAt = some (s.clk.cyc / 8) ∧ smFind (t.panel p).htcs i = some h ∧ h.job = .mRecall ∧ h.line = line ∧ h.pool = 2 ∧
        ((s.px p {}).lineBusy line = true → h.phase = .queued) ∧
        ((s.px p {}).lineBusy line = false → h.phase = .decide ∧ h.hold = .go ∧ h.start = s.clk.cyc)) ∧
    ((s.panel p).mgmtAt = some (s.clk.cyc / 8) ∨ (s.px p {}).freeHtc 2 = none →
      let stays (t : State) : Prop := t.net.ezMgt = s.net.ezMgt ∧ (t.panel p).htcs = (s.panel p).htcs ∧ SameArrays s t p ∧
        (t.panel p).mgmtAt = (s.panel p).mgmtAt
      (∀ v, ∀ c ∈ [Instr.restorerDirectoryStep p v, .restorerPaletteStep p v],
        ∃ t, exec c s = .next t ∧ stays t ∧ t.net.qs = s.net.qs ∧ ∃ new, t.net.rsMgt = s.net.rsMgt ++ new) ∧
      ∃ t, exec (.packetHop (.rootToPanel p) u) s = .next t ∧ stays t ∧ t.net.rsMgt = s.net.rsMgt) ∧
    (∀ q, s.restWaiting p = some q → s.mgmtOpen p = true →
      ∃ t, exec (.packetHop (.rootToPanel p) u) s = .next t ∧ SameBase s t ∧ t.ports = s.ports ∧ t.net.ezMgt = s.net.ezMgt ∧
        t.net.qs = s.net.qs ∧ t.net.rsMgt = s.net.rsMgt.erase q ∧ (t.panel p).mgmtAt = some (s.clk.cyc / 8) ∧
        ∀ r, r ≠ p → t.panel r = s.panel r)

/-! ### Memory ports -/

/-- R316, R317, R327, R337, R338, R488: a port in service, not busy and with a credit grants the one requester that asks, under the
first free MTAG (the model's choice among the free ones, log entry 69); a credit pulse adds one credit, and one above 64 is a fault; a reset takes the port out of service without credits,
a fault where an MTAG is held, and the handshake after its release brings it back. -/
def Obligations.MemoryPortGrantsCreditsAndResets : Prop :=
  ∀ (s : State) (m : Nat), s.mpActs m →
    let x := s.mp m
    (∀ slot who tag r, x.svc = true → x.busyUntil ≤ s.clk.cyc → 0 < x.credits → smFree x.tags 0 64 = some tag →
      s.raised m = [(who, r)] → who ≠ 18 → s.host.prof ≠ 1 → (s.clk.cyc % 64 ≠ 63 ∨ r.mopc ≠ 2) →
      ∃ t, exec (.memportGrant m slot {}) s = .next t ∧ SameBase s t ∧ SameTree s t ∧ t.rgn = s.rgn ∧ t.clk = s.clk ∧
        t.host = s.host ∧ t.w4 = s.w4 ∧ t.w6 = s.w6 ∧ t.outs = s.outs ++ [.mem m tag r (r.flits tag)] ∧ (∀ n, n ≠ m → t.mp n = s.mp n) ∧
        (t.mp m).credits = x.credits - 1 ∧ (t.mp m).tags = smSet x.tags tag r ∧ s.clk.cyc < (t.mp m).busyUntil ∧
        (t.mp m).svc = true ∧ (t.mp m).cause = 0 ∧
        (who < 16 → smGet [] (t.panel who).memOut m = (smGet [] (s.panel who).memOut m).tail ∧ t.ez = s.ez) ∧
        (who = 17 → smGet [] t.ez.memOut m = (smGet [] s.ez.memOut m).tail ∧ t.panels = s.panels)) ∧
    (∀ slot chk, x.svc = false ∨ s.clk.cyc < x.busyUntil ∨ x.credits = 0 → exec (.memportGrant m slot chk) s = .next s) ∧
    (x.svc = false → exec (.mpReqCrd m) s = .next s) ∧
    (x.svc = true → x.credits < 64 →
      exec (.mpReqCrd m) s = .next { s with mps := smSet s.mps m { x with credits := x.credits + 1 } }) ∧
    (x.svc = true → x.credits = 64 → ∃ t, exec (.mpReqCrd m) s = .next t ∧ FatalPort s t m 3) ∧
    (x.tags = [] → ∃ t, exec (.mpRstAssert m) s = .next t ∧ SameBase s t ∧ SameTree s t ∧ SamePins s t ∧ t.panels = s.panels ∧
      (∀ n, n ≠ m → t.mp n = s.mp n) ∧ t.mp m = { x with rst := true, svc := false, credits := 0 }) ∧
    (x.tags ≠ [] → ∃ t, exec (.mpRstAssert m) s = .next t ∧ FatalPort s t m 4 ∧ (t.mp m).svc = false) ∧
    exec (.mpRstRelease m) s = .next { s with mps := smSet s.mps m { x with rst := false } } ∧
    (x.rst = false → x.svc = false →
      exec (.handshakeComplete (.mem m)) s = .next { s with mps := smSet s.mps m { x with svc := true, credits := 0 } }) ∧
    (x.rst = true ∨ x.svc = true → exec (.handshakeComplete (.mem m)) s = .next s)

/-- R128, R243, R245, R328, R332: MData for a request that waits for memory alone sends its Comp and then the line, poisoned where
the message, its parity or the lost-line table says so; MWrCmp ends its write, its ERR remembered for every agent that it covers.
R101, R103, R123: MData for an AtP of a line outside H that waits for memory alone performs it in the proxy slot that it holds, sends
DataHome with the old value, and closes with the line in H. -/
def Obligations.MemoryAnswersAPanel : Prop :=
  ∀ (s : State) (m p : Nat) (r : MemResp) (q : MemReq), s.awaits m r q → r.dat = .ok → s.acts p → (s.panel p).calm →
    (∀ i h sq, r.mopc = 4 → q.mopc = 1 → q.own = .htc p sq →
      ((s.panel p).htcs.find? fun e => decide (e.2.seq = sq) && e.2.rd) = some (i, h) →
      h.job = .req → h.phase = .collect → h.tabled = true → 1 ≤ h.pkt.hdr.opc → h.pkt.hdr.opc ≤ 3 → h.plan.dsrc = 0 →
      h.expect ≤ h.sum → h.ow = none → h.owAck = true → h.owNeed = false → h.owEvict = false → h.buf = none → h.md = none →
      h.sentData = false → h.cack = none → h.deadRq = false →
      ∃ t c d h', exec (.mdata m r {}) s = .next t ∧ Returned s t m r ∧ (∀ n, n ≠ p → t.panel n = s.panel n) ∧
        SameArrays s t p ∧ (∀ j, j ≠ i → smFind (t.panel p).htcs j = smFind (s.panel p).htcs j) ∧ Sent s t p [c, d] ∧
        Answers c h.pkt.hdr cRSP h.plan.comp ∧ c.hdr.size = 0 ∧ Answers d h.pkt.hdr cDAT oDataMem ∧ d.data = r.data ∧
        d.hdr.err = r.err ∧ d.hdr.poison = (r.poison || r.dataPerr || (s.panel p).llt.any fun e => decide (e.2 = h.line)) ∧
        smFind (t.panel p).htcs i = some h' ∧ h'.phase = .grant ∧ h'.sentComp = true ∧ h'.sentData = true ∧
        (r.dataPerr = true → t.w6g (0x80030 + 0x800 * m) = ctrAdd (s.w6g (0x80030 + 0x800 * m)) 1) ∧
        (r.dataPerr = false → t.w6 = s.w6)) ∧
    (∀ i h sq n b, r.mopc = 4 → q.mopc = 1 → q.own = .htc p sq →
      ((s.panel p).htcs.find? fun e => decide (e.2.seq = sq) && e.2.rd) = some (i, h) →
      h.job = .req → h.phase = .collect → h.tabled = true → h.pkt.hdr.opc = oAtP → h.pkt.hdr.size ≤ 3 → h.pkt.hdr.htc % 64 % 2 ^ h.pkt.hdr.size = 0 →
      h.pkt.hdr.htc / 1024 ≤ 9 →
      (∃ dirty, h.plan = { toH := true, wasDirty := dirty }) → h.expect ≤ h.sum → h.ow = none → h.owAck = true → h.owNeed = false → h.owEvict = false →
      h.owLost = false → h.buf = none → h.md = none → h.sentData = false → h.cack = none → h.deadRq = false → h.ent.st ≠ 8 → h.oldPal = none →
      h.pslot = some n → smFind (s.panel p).proxy n = some b → r.poison = false → r.dataPerr = false → r.err = 0 →
      ((s.panel p).llt.any fun e => decide (e.2 = h.line)) = false →
      ∃ t d h' c, exec (.mdata m r {}) s = .next t ∧ Returned s t m r ∧ (∀ n, n ≠ p → t.panel n = s.panel n) ∧ SameArrays s t p ∧
        OtherHtcs s t p i ∧ (t.panel p).memOut = (s.panel p).memOut ∧ Sent s t p [d] ∧ Answers d h.pkt.hdr cDAT oDataHome ∧
        d.hdr.poison = false ∧ smFind (t.panel p).proxy n = some c ∧ c.line = h.line ∧ c.poison = false ∧
        c.who = b.who ++ [(h.pkt.hdr.src, h.seq)] ∧ Atomic h.pkt r.data c.data d.data ∧
        (∀ j, j ≠ n → smFind (t.panel p).proxy j = smFind (s.panel p).proxy j) ∧
        smFind (t.panel p).htcs i = some h' ∧ h'.phase = .close ∧ h'.way = h.way ∧ h'.fin.st = 8 ∧ h'.fin.agent = n) ∧
    (∀ wid w, r.mopc = 5 → q.mopc ≠ 1 → q.own = .wr p wid → smFind (s.panel p).wrs wid = some w → w.dev = none →
      ∃ t, exec (.mwrcmp m r) s = .next t ∧ Returned s t m r ∧ (∀ n, n ≠ p → t.panel n = s.panel n) ∧ SameArrays s t p ∧
        (t.panel p).htcs = (s.panel p).htcs ∧ Sent s t p [] ∧ smFind (t.panel p).wrs wid = none ∧
        (∀ j, j ≠ wid → smFind (t.panel p).wrs j = smFind (s.panel p).wrs j) ∧
        ∀ a, a < 256 → (t.panel p).errs.getLsbD a =
          ((s.panel p).errs.getLsbD a || (decide (r.err = 1) && w.who.any fun e => decide (e.1 = a)))) ∧
    (∀ wid w sq i h, r.mopc = 5 → q.mopc ≠ 1 → q.own = .wr p wid → smFind (s.panel p).wrs wid = some w → w.dev = some sq →
      ((s.panel p).htcs.find? fun e => decide (e.2.seq = sq) && decide (e.2.job = .req) && decide (e.2.phase = .collect)) =
        some (i, h) →
      ∃ t a h', exec (.mwrcmp m r) s = .next t ∧ Returned s t m r ∧ (∀ n, n ≠ p → t.panel n = s.panel n) ∧ SameArrays s t p ∧
        Sent s t p [a] ∧ Answers a h.pkt.hdr cRSP oWrAcc ∧ a.hdr.err = r.err ∧ smFind (t.panel p).htcs i = some h' ∧
        h'.phase = .close)

/-- R355, R361, R526: the sound answer to a ring's load puts its bytes into G[D] and ends the instruction; a slot line of a restore
joins what the Ephemeris writer has read, and a poisoned or failed one spoils its slot; here no other line that the restore waits for is
lost in a frozen port.
R348, R359, R378, R379: the descriptor's line loads the ring's context, G0 to G2, PC and, with LDW0, W0, and the program runs unless its
fetch faults; one with AFTER_OK after a fault is skipped, its STATUS written. That WIN0 with NS 0 on rings 8 to 15 is a violation is the
model's choice (log entry 65).
R380, R381: the MWrCmp of a descriptor's STATUS ends its program: HEAD counts it, and the ring's completion source is set where it was to
be; an answer that has failed sets RING_ERR. -/
def Obligations.MemoryAnswersEaselAndEphemeris : Prop :=
  (∀ (s : State) (m : Nat) (r : MemResp) (q : MemReq), s.awaits m r q → r.dat = .ok → r.mopc = 4 → q.mopc = 1 →
    (∀ ring d size off, q.own = .easel ring → (s.ctx ring).wait = .mem (.load d size off) → r.poison = false →
      r.dataPerr = false → r.err ≠ 1 → off + size ≤ 64 → size ≤ 8 →
      ∃ t, exec (.easelMemoryResponse m r) s = .next t ∧ Returned s t m r ∧ t.panels = s.panels ∧ LocSame s t ∧
        OtherRings s t ring ∧ Passed (s.ctx ring) (t.ctx ring) 4 ∧ (t.ctx ring).flags = (s.ctx ring).flags ∧
        (t.ctx ring).rc = (s.ctx ring).rc ∧ (t.ctx ring).w = (s.ctx ring).w ∧
        ∀ k, (t.ctx ring).gr k =
          if k = d then BitVec.ofNat 64 (r.data.toNat / 2 ^ (8 * off) % 2 ^ (8 * size)) else (s.ctx ring).gr k) ∧
    (∀ id got bad waiting, q.own = .eph id → s.ep.job = .restore [] got bad waiting → id ∈ waiting → waiting.erase id ≠ [] →
      waiting.Nodup → smSorted (s.mp m).tags = true → s.ephLost (waiting.erase id) = [] →
      ∃ t, exec (.ephemerisWriterMdata m r) s = .next t ∧ Returned s t m r ∧ t.panels = s.panels ∧ t.ez = s.ez ∧
        t.host = s.host ∧ t.ep.sram = s.ep.sram ∧ t.ep.job =
          .restore [] (smSet got (id - 2 ^ 80) { data := r.data, poison := r.poison || r.dataPerr, err := r.err })
            (if r.poison = true ∨ r.dataPerr = true ∨ r.err ≠ 0 then bad ++ [(id - 2 ^ 80) / 64] else bad) (waiting.erase id))) ∧
  (∀ (s : State) (m n : Nat) (r : MemResp) (q : MemReq), s.awaits m r q → r.dat = .ok → r.mopc = 4 → q.mopc = 1 → q.own = .easel n →
    n < 16 → (s.ctx n).wait = .mem .desc → r.poison = false → r.dataPerr = false → r.err ≠ 1 →
    let c := s.ctx n
    let word (o : Nat) : BitVec 64 := r.data.extractLsb' (8 * o) 64
    let flags := word 0x28
    let win := word 0x20 &&& 0xF80FFFFFFFFFF03F#64
    let same (t : State) : Prop := exec (.easelMemoryResponse m r) s = .next t ∧ Returned s t m r ∧ t.panels = s.panels ∧ LocSame s t ∧
      OtherRings s t n
    (flags.getLsbD 2 = false ∨ c.lastOk = true →
      ∃ t, same t ∧ (∀ k, (t.ctx n).gr k = if k < 3 then word (8 + 8 * k) else 0) ∧ (t.ctx n).pc = word 0 ∧ (t.ctx n).flags = 0 ∧
        (t.ctx n).rc = 0 ∧ (t.ctx n).idx = 0 ∧ (t.ctx n).rem = 0 ∧ (t.ctx n).inrep = false ∧ (t.ctx n).malf = false ∧
        (t.ctx n).lce = false ∧ (t.ctx n).lue = false ∧ (t.ctx n).dflags = flags ∧
        ((t.ctx n).fault = 0 → (t.ctx n).running = true ∧ (t.ring n).head = (s.ring n).head) ∧
        (∀ k, smGet 0 (t.ctx n).w k = if k = 0 ∧ flags.getLsbD 1 = true then (if n < 8 then win else win ||| 0x0800000000000000#64)
          else smGet 0 c.w k) ∧
        (t.ctx n).viol = (flags.getLsbD 1 && decide (8 ≤ n) && !win.getLsbD 59)) ∧
    (∀ m2 code, flags.getLsbD 2 = true → c.lastOk = false → s.mgmtDecode true (s.descAddr n + 0x30) = some (m2, code) →
      s.descAddr n % 64 = 0 →
      ∃ t y, same t ∧ SameRegs c (t.ctx n) ∧ (t.ctx n).lastOk = false ∧ (t.ctx n).wait = .mem (.status (flags.getLsbD 0)) ∧
        (t.ring n).head = (s.ring n).head ∧ smGet [] t.ez.memOut m2 = smGet [] s.ez.memOut m2 ++ [y] ∧ y.mopc = 2 ∧
        y.line = s.descAddr n / 64 ∧ y.size = 3 ∧ y.off = 0x30 ∧ y.be = 0x00FF000000000000#64 ∧
        y.data.extractLsb' 384 64 = 0xC000000000000000#64 ∧ y.own = .easel n)) ∧
  (∀ (s : State) (m n : Nat) (irq : Bool) (r : MemResp) (q : MemReq), s.awaits m r q → r.mopc = 5 → q.mopc ≠ 1 → q.own = .easel n → n < 16 →
    (s.ctx n).wait = .mem (.status irq) →
    let bad := r.err = 1 ∨ q.mopc = 3
    let done (x : State) : Bool := if n < 8 then x.host.irqStatS.getLsbD n else x.host.irqStatNs.getLsbD (n - 8)
    ∃ t, exec (.mwrcmp m r) s = .next t ∧ Returned s t m r ∧ t.panels = s.panels ∧ LocSame s t ∧ (∀ k, SameRegs (s.ctx k) (t.ctx k)) ∧
      (t.ctx n).running = false ∧ (t.ctx n).wait = .idle ∧ (t.ring n).head = (s.ring n).head + 1 ∧
      (t.ring n).err = (if bad then decide ((s.ring n).tailK ≠ some (s.clk.cyc / 8)) else (s.ring n).err) ∧ done t = (done s || irq))

/-! ### Supply warning and Ephemeris -/

/-- R453, R454: a captured rise of SUPPLY_WARN sets WARN_SEEN, EVENTS bit 2 and source 18; WARN_HOLD KCLK after its fall, under a
profile, the after-dip sweep starts at the first position of every panel, and when it has ended each panel goes on where it was.
R519, R522: when PERIOD has passed since the last time, a checkpoint is asked for, which starts once slot addresses are known and
the writer is free, under the next SEQ; a flush adds the staging into its words, which saturate, and empties it, but not while it
is held. -/
def Obligations.SupplyWarningAndCheckpoints : Prop :=
  (∀ s : State, s.live →
      (s.clk.warnPin = true → exec .supplyWarnRise s = .next s) ∧
      (s.clk.warnPin = false → s.rs.dip = false →
        ∃ t, exec .supplyWarnRise s = .next t ∧ SameBase s t ∧ SameTree s t ∧ SameHomes s t ∧ t.outs = s.outs ∧
          t.clk.warnPin = true ∧ t.clk.cyc = s.clk.cyc ∧ t.host.warnSeen = true ∧ t.ez.events = s.ez.events ||| 4 ∧
          t.host.irqStatS.getLsbD 18 = true ∧ t.rs.owedDip = true) ∧
      (∀ n, n = (s.w6g 0xA1208).toNat % 2 ^ 16 → s.clk.warnPin = false →
        (s.rs.owedDip = false ∨ s.clk.cyc / 8 < s.clk.warnLow + n → exec .supplyWarnCleared s = .next s) ∧
        (s.rs.owedDip = true → s.clk.warnLow + n ≤ s.clk.cyc / 8 → s.host.prof ≠ 0 →
          ∃ t, exec .supplyWarnCleared s = .next t ∧ SameBase s t ∧ SameTree s t ∧ SamePins s t ∧ t.mps = s.mps ∧ t.ep = s.ep ∧
            t.host = s.host ∧ t.rs.dip = true ∧ t.rs.owedDip = false ∧ t.rs.dipDone = [] ∧
            ∀ p, p < s.build.panels → t.panel p = { s.panel p with rprev := (s.panel p).rpos, rpos := 0, rpart := false })) ∧
      (s.dipEnded = false → exec .afterDipSweepEnd s = .next s) ∧
      (s.dipEnded = true →
        ∃ t, exec .afterDipSweepEnd s = .next t ∧ SameBase s t ∧ SameTree s t ∧ SamePins s t ∧ t.mps = s.mps ∧ t.ez = s.ez ∧
          t.rs.dip = false ∧ ∀ p, p < s.build.panels → t.panel p = { s.panel p with
            rpos := (s.panel p).rprev, rpart := decide ((s.panel p).rprev ≠ 0) && decide ((s.panel p).rprev < s.build.sets) })) ∧
  (∀ s : State, s.live →
      let due := s.host.prof ≠ 0 ∧ (s.w6g 0xA1300).toNat % 2 ^ 16 ≠ 0 ∧
        s.ep.lastPeriod + (s.w6g 0xA1300).toNat % 2 ^ 16 * 2 ^ 36 ≤ s.clk.cyc
      (¬ due → exec .checkpointPeriod s = .next s) ∧
      (due → ∃ t, exec .checkpointPeriod s = .next t ∧ SameBase s t ∧ SameTree s t ∧ SameHomes s t ∧ t.outs = s.outs ∧
        t.ep.lastPeriod = s.clk.cyc ∧ t.ez.events = s.ez.events ∧
        (s.ep.slots = none → s.ep.trigger = none → s.ep.job = .none → t.ep.job = .none ∧ t.ep.lastSeq = s.ep.lastSeq) ∧
        (s.ep.slots.isSome = true → s.ep.job = .none → t.ep.lastSeq = s.ep.lastSeq + 1 ∧ t.ep.tried = true)) ∧
      (∀ ups, s.ephHeld = true → exec (.ephemerisStagingFlush ups) s = .next s) ∧
      (∀ ups, s.ephHeld = false →
        ∃ t, exec (.ephemerisStagingFlush ups) s = .next t ∧ SameBase s t ∧ SameTree s t ∧ SameHomes s t ∧ SamePins s t ∧
          t.ez = s.ez ∧ t.ep.lifeFrom = s.clk.cyc ∧ t.ep.job = s.ep.job ∧
          (ups = [] → s.ep.cals = [] → smSorted s.ep.staging = true →
            (∀ e ∈ s.ephLife.ep.staging, ∃ d, decW (s.ephRaw e.1) = .ok d) →
            t.ep.staging = [] ∧ t.ep.cals = [] ∧
            ∀ e ∈ s.ephLife.ep.staging, ¬ (64 ≤ e.1 ∧ e.1 < 192) → ∀ d, decW (s.ephRaw e.1) = .ok d →
              smFind t.ep.sram e.1 = some (encW (BitVec.ofNat 64 (min (2 ^ 64 - 1) (d + e.2)))))))

/-! ### Observation and errors -/

/-- R415, R438, R455: the leaky buckets leak once in a KCLK, by one, those whose period divides its number, unless an addition in
that KCLK has cancelled the leak, and no other; so does a port's bucket of protocol errors; a mismatch of twin pipelines is fatal
and freezes the panel, or the root, where the build has them. -/
def Obligations.BucketsLeakAndTwinsMatch : Prop :=
  ∀ s : State, s.live →
    (s.rs.leakK = some (s.clk.cyc / 8) → exec .bucketLeak s = .next s) ∧
    (s.rs.leakK ≠ some (s.clk.cyc / 8) → s.canonical → smSorted s.ports = true →
      ∃ t, exec .bucketLeak s = .next t ∧ SameBase s t ∧ SamePins s t ∧ SameHomes s t ∧ t.net = s.net ∧ t.host = s.host ∧
        t.ez = s.ez ∧ t.ep = s.ep ∧ t.rs.leakK = some (s.clk.cyc / 8) ∧
        (∀ base, isBkCtl base = true → t.w6g (base + 8) =
          if (s.w6g (base + 8)).toNat % 256 ≠ 0 ∧ s.mirroredBucket base = false ∧
              s.clk.cyc / 8 % 2 ^ max 10 (min 40 ((s.w6g base).toNat % 64)) = 0 ∧
              smGet (0, 0) s.bkNote base ≠ (s.clk.cyc / 8 + 1, 2) then s.w6g (base + 8) - 1
          else s.w6g (base + 8)) ∧
        (∀ o, (o < 8 ∨ isBkCtl (o - 8) = false) → t.w6g o = s.w6g o) ∧
        ∀ n, n < 256 → s.slotBr n < 2 → t.port n =
          if (s.port n).peLevel ≠ 0 ∧ s.clk.cyc / 8 % 2 ^ max 10 (min 40 ((s.port n).pebk.toNat % 64)) = 0 ∧
              smGet (0, 0) s.bkNote n ≠ (s.clk.cyc / 8 + 1, 2) then { s.port n with peLevel := (s.port n).peLevel - 1 }
          else s.port n) ∧
    (∀ q, s.build.twin = false → exec (.twinMismatch q) s = .next s) ∧
    (∀ p, s.build.panels ≤ p → exec (.twinMismatch (some p)) s = .next s) ∧
    (∀ p, p < s.build.panels → s.build.twin = true →
      ∃ t, exec (.twinMismatch (some p)) s = .next t ∧ SameBase s t ∧ SameTree s t ∧ SameHomes s t ∧ t.outs = s.outs ∧
        t.clk.fatal = true ∧ t.clk.fatalRows.getLsbD 0 = true ∧ t.clk.frozenPanels = s.clk.frozenPanels ||| (1#16 <<< p)) ∧
    (s.build.twin = true →
      ∃ t, exec (.twinMismatch none) s = .next t ∧ SameBase s t ∧ SameTree s t ∧ SameHomes s t ∧ t.outs = s.outs ∧
        t.clk.fatal = true ∧ t.clk.fatalRows.getLsbD 1 = true ∧ t.clk.frozenRoot = true ∧
        t.clk.frozenPanels = s.clk.frozenPanels)

/-- R515 to R517: an HTC that has passed its group's limit misses once: DL_MISS counts it, and under Bounded EVENTS bit 3, source 17
and the first free log entry tell of it; before that, with no limit, or a second time, nothing happens. -/
def Obligations.DeadlineMissIsLoggedOnce : Prop :=
  ∀ (s : State) (p i : Nat) (h : Htc), s.acts p → p < 16 → smFind (s.panel p).htcs i = some h →
    let lim := (s.w6g (0x90800 + 0x1000 * p + 8 * h.group)).toNat % 2 ^ 20
    let due := h.missed = false ∧ lim ≠ 0 ∧ h.accepted + lim ≤ s.clk.cyc
    let log (j : Nat) : Nat := 0x90880 + 0x1000 * p + 16 * j
    (¬ due → exec (.deadlineMiss p i) s = .next s) ∧
    (due → ∃ t, exec (.deadlineMiss p i) s = .next t ∧ SameBase s t ∧ SameTree s t ∧ SamePins s t ∧ t.mps = s.mps ∧ t.ep = s.ep ∧
      (∀ q, q ≠ p → t.panel q = s.panel q) ∧ t.panel p = { s.panel p with htcs := smSet (s.panel p).htcs i { h with missed := true } } ∧
      t.w4g (0x100 * p + 0x18) = (if smGet 0 s.st4 (0x100 * p + 0x18) = s.clk.cyc / 8 + 1 then s.w4g (0x100 * p + 0x18)
        else ctrAdd (s.w4g (0x100 * p + 0x18)) 1) ∧
      (s.host.prof ≠ 1 → t.host = s.host ∧ t.ez = s.ez ∧ t.w6 = s.w6) ∧
      (s.host.prof = 1 → t.ez.events = s.ez.events ||| 8 ∧ t.host.irqStatS = s.host.irqStatS ||| (1#25 <<< 17) ∧
        (∀ j, j < 16 → (s.w6g (log j)).getLsbD 63 = false → (∀ l, l < j → (s.w6g (log l)).getLsbD 63 = true) →
          (t.w6g (log j)).toNat / 2 ^ 60 = 8 + phaseCode h.phase ∧ (t.w6g (log j)).toNat / 2 ^ 56 % 16 = h.group ∧
          (h.job.ofLine = true → (t.w6g (log j + 8)).toNat = h.line % 2 ^ 46 * 64)) ∧
        ((∀ l, l < 16 → (s.w6g (log l)).getLsbD 63 = true) →
          t.w6g (0x90840 + 0x1000 * p) = ctrAdd (s.w6g (0x90840 + 0x1000 * p)) 1)))

/-- R504, R505, R511 to R514: a byte window ends in the last HCLK of its length, once: its words take the sums, which start
again, and the maxima follow; a sync record is made when CYC is a multiple of its period (the phase is the model's choice, log entry
22), ahead of the other records of its HCLK; a record of two words enters the trace whole at the end of its HCLK, or is dropped and
counted; a trace word leaves, with its parity, while the crossing is in service. -/
def Obligations.WindowsAndTrace : Prop :=
  ∀ s : State, s.live →
    (∀ (w : WinId) (base up dn : Nat), s.hasWin w = true →
      (∀ n, w = .port n → base = 0x1000 + 0x40 * n ∧ up = (s.port n).winUp ∧ dn = (s.port n).winDn) →
      (∀ m, w = .mem m → base = 0x5000 + 0x40 * m ∧ up = (s.mp m).winUp ∧ dn = (s.mp m).winDn) →
      let len := 2 ^ max 10 (min 36 ((s.w4g base).toNat % 64))
      let due := s.clk.cyc % len = len - 1 ∧ s.isNew base = true
      let u := min up (2 ^ 48 - 1)
      let d := min dn (2 ^ 48 - 1)
      (¬ due → exec (.byteWindowEnd w) s = .next s) ∧
      (due → ∃ t, exec (.byteWindowEnd w) s = .next t ∧ SameBase s t ∧ t.outs = s.outs ∧ t.panels = s.panels ∧ t.net = s.net ∧
        t.host = s.host ∧ t.w6 = s.w6 ∧ (t.w4g (base + 8)).toNat = u ∧ (t.w4g (base + 0x10)).toNat = d ∧
        (t.w4g (base + 0x18)).toNat % 2 ^ 48 = max ((s.w4g (base + 0x18)).toNat % 2 ^ 48) u ∧
        (t.w4g (base + 0x20)).toNat % 2 ^ 48 = max ((s.w4g (base + 0x20)).toNat % 2 ^ 48) d ∧
        (∀ n, w = .port n → t.port n = { s.port n with winUp := 0, winDn := 0 } ∧ OtherPorts s t n) ∧
        (∀ m, w = .mem m → t.mp m = { s.mp m with winUp := 0, winDn := 0 } ∧ t.ports = s.ports))) ∧
    (let k := (s.w4g 0x6000).toNat % 64
      let due := k ≠ 0 ∧ s.clk.cyc % 2 ^ max 12 (min 40 k) = 0 ∧ s.isNew 0x6000 = true
      (¬ due → exec .traceSync s = .next s) ∧
      (due → s.build.trace = true →
        ∃ t, exec .traceSync s = .next t ∧ SameBase s t ∧ SameTree s t ∧ SameHomes s t ∧ t.outs = s.outs ∧ t.w4 = s.w4 ∧
          t.tr.words = s.tr.words ∧ t.tr.owed = s.tr.owed ∧ t.tr.now = (s.tr.now.filter fun e => decide (e.1 = 0)) ++
            [(0, [BitVec.ofNat 64 (3 * 2 ^ 60 + s.clk.cyc % 2 ^ 56), s.clk.time])] ++ s.tr.now.filter fun e => decide (e.1 ≠ 0))) ∧
    (∀ k v w, s.calm → s.tr.now = [(k, [v, w])] → s.tr.owed = 0 →
      (s.clk.tpSvc = true → s.tr.words.length ≤ 126 →
        s.hclkEnd.tr = { words := s.tr.words ++ [(true, false, v), (false, true, w)], owed := 0, now := [] }) ∧
      (s.clk.tpSvc = false ∨ 126 < s.tr.words.length →
        s.hclkEnd.tr = { words := s.tr.words, owed := 1, now := [] } ∧ (smGet 0 s.st4 0x6008 ≠ s.clk.cyc / 8 + 1 →
          s.hclkEnd.w4g 0x6008 = ctrAdd (s.w4g 0x6008) 1))) ∧
    (s.tr.words = [] ∨ s.clk.tpSvc = false → exec .traceWordSent s = .next s) ∧
    (∀ sof last w rest, s.tr.words = (sof, last, w) :: rest → s.clk.tpSvc = true →
      ∃ t, exec .traceWordSent s = .next t ∧ SameBase s t ∧ SameTree s t ∧ SameHomes s t ∧ t.clk = s.clk ∧
        t.outs = s.outs ++ [.trace sof w (BitVec.ofNat 8 (oddPar 8 w.toNat))] ∧ t.tr.words = rest ∧ t.tr.owed = s.tr.owed ∧
        t.w4g 0x6010 =
          (if last = true ∧ smGet 0 s.st4 0x6010 ≠ s.clk.cyc / 8 + 1 then ctrAdd (s.w4g 0x6010) 1 else s.w4g 0x6010))

/-! ### The Easel's instructions -/

/-- R350, R352: an instruction of two operands writes its result to G[D] and sets FLAGS; CMP, CMPI, TST and TSTI only set FLAGS;
POPC and FFS count. All else of the ring stays but its PC. -/
def Obligations.EaselArithmeticResultAndFlags : Prop :=
  (∀ (f : Fld) (opc : Nat) (i : Instr), (opc, i) ∈ twoOperand f → ∀ (s : State) (r : Nat) (b : BitVec 64), s.runs r opc f →
    (opc % 2 = 0 → f.disp.toNat < 16 ∧ b = (s.ctx r).gr f.disp.toNat) → (opc % 2 = 1 → b = f.disp.signExtend 64) →
    ∃ t, exec i s = .next t ∧ EaselFrame s t ∧ LocSame s t ∧ OtherRings s t r ∧ Passed (s.ctx r) (t.ctx r) 4 ∧
      (t.ctx r).rc = (s.ctx r).rc ∧ (t.ctx r).w = (s.ctx r).w ∧
      (∀ n, (t.ctx r).gr n =
        if n = f.d.toNat ∧ opc < 0x20 then (aluRule opc ((s.ctx r).gr f.b.toNat) b).1 else (s.ctx r).gr n) ∧
      (t.ctx r).flags.getLsbD 3 = decide ((aluRule opc ((s.ctx r).gr f.b.toNat) b).1 = 0) ∧
      (t.ctx r).flags.getLsbD 2 = (aluRule opc ((s.ctx r).gr f.b.toNat) b).1.getLsbD 63 ∧
      (t.ctx r).flags.getLsbD 1 = (aluRule opc ((s.ctx r).gr f.b.toNat) b).2.1 ∧
      (t.ctx r).flags.getLsbD 0 = (aluRule opc ((s.ctx r).gr f.b.toNat) b).2.2) ∧
  (∀ (f : Fld) (s : State) (r : Nat), s.runs r 0x24 f →
    ∃ t, exec (.ezPopc f) s = .next t ∧ EaselFrame s t ∧ LocSame s t ∧ OtherRings s t r ∧ Passed (s.ctx r) (t.ctx r) 4 ∧
      (t.ctx r).rc = (s.ctx r).rc ∧ (t.ctx r).w = (s.ctx r).w ∧ (∀ n, n ≠ f.d.toNat → (t.ctx r).gr n = (s.ctx r).gr n) ∧
      ((t.ctx r).gr f.d.toNat).toNat = (Finset.univ.filter fun i : Fin 64 => ((s.ctx r).gr f.b.toNat).getLsbD i = true).card ∧
      (t.ctx r).flags = (if (s.ctx r).gr f.b.toNat = 0 then 8 else 0)) ∧
  (∀ (f : Fld) (s : State) (r : Nat), s.runs r 0x25 f →
    ∃ t, exec (.ezFfs f) s = .next t ∧ EaselFrame s t ∧ LocSame s t ∧ OtherRings s t r ∧ Passed (s.ctx r) (t.ctx r) 4 ∧
      (t.ctx r).rc = (s.ctx r).rc ∧ (t.ctx r).w = (s.ctx r).w ∧ (∀ n, n ≠ f.d.toNat → (t.ctx r).gr n = (s.ctx r).gr n) ∧
      ((s.ctx r).gr f.b.toNat = 0 → (t.ctx r).gr f.d.toNat = 64) ∧
      (∀ k, k < 64 → ((s.ctx r).gr f.b.toNat).getLsbD k = true → (∀ j, j < k → ((s.ctx r).gr f.b.toNat).getLsbD j = false) →
        (t.ctx r).gr f.d.toNat = BitVec.ofNat 64 k) ∧
      (t.ctx r).flags = (if ((s.ctx r).gr f.b.toNat).getLsbD 0 then 8 else 0))

/-- R349 to R351: LEA writes EA, LIM its extension word sign-extended, LIMH the upper half; FLAGS stay, and PC passes the
extension word. -/
def Obligations.EaselAddressAndImmediateResult : Prop :=
  ∀ (f : Fld) (s : State) (r : Nat) (e : Nat × Nat × Instr × BitVec 64),
    e ∈ [(0x09, 4, Instr.ezLea f, iterEa (s.ctx r) f 1), (0x0B, 8, .ezLim f, f.ext.signExtend 64),
         (0x0C, 8, .ezLimh f, f.ext ++ ((s.ctx r).gr f.d.toNat).extractLsb' 0 32)] → s.runs r e.1 f →
    ∃ t, exec e.2.2.1 s = .next t ∧ EaselFrame s t ∧ LocSame s t ∧ OtherRings s t r ∧ Passed (s.ctx r) (t.ctx r) e.2.1 ∧
      (t.ctx r).flags = (s.ctx r).flags ∧ (t.ctx r).rc = (s.ctx r).rc ∧ (t.ctx r).w = (s.ctx r).w ∧
      ∀ n, (t.ctx r).gr n = if n = f.d.toNat then e.2.2.2 else (s.ctx r).gr n

/-- R354, R359: what MTS writes and what MFS reads, for every number of a special register; one that is not listed, or is read-only,
takes nothing, and marks no violation. Inside a repeat MFS PC gives the address of the MFS, not of its REP: the model's reading, log
entry 20. -/
def Obligations.EaselSpecialRegisters : Prop :=
  (∀ (f : Fld) (s : State) (r : Nat), s.runs r 0x26 f →
    ∃ t, exec (.ezMts f) s = .next t ∧ EaselFrame s t ∧ LocSame s t ∧ OtherRings s t r ∧ Passed (s.ctx r) (t.ctx r) 4 ∧
      (∀ n, (t.ctx r).gr n = (s.ctx r).gr n) ∧
      (t.ctx r).rc = (if f.disp = 0 then ((s.ctx r).gr f.b.toNat).setWidth 16 else (s.ctx r).rc) ∧
      (t.ctx r).flags = (if f.disp = 3 then ((s.ctx r).gr f.b.toNat).setWidth 4 else (s.ctx r).flags) ∧
      (f.disp = 1 → (t.ctx r).malf = ((s.ctx r).malf && !((s.ctx r).gr f.b.toNat).getLsbD 62) ∧
        (((s.ctx r).gr f.b.toNat).getLsbD 61 = true → (t.ctx r).viol = false)) ∧
      (f.disp ≠ 1 → (t.ctx r).malf = (s.ctx r).malf) ∧ t.ez.events = s.ez.events ∧
      ((s.ctx r).viol = true → (f.disp ≠ 1 ∨ ((s.ctx r).gr f.b.toNat).getLsbD 61 = false) → (t.ctx r).viol = true) ∧
      (∀ n, n < 8 → (t.ctx r).win r n =
        if f.disp.toNat = 8 + n then
          ((s.ctx r).gr f.b.toNat &&& 0xF80FFFFFFFFFF03F#64) ||| (if r < 8 then 0 else 0x0800000000000000#64)
        else (s.ctx r).win r n) ∧
      (8 ≤ r → 8 ≤ f.disp.toNat ∧ f.disp.toNat < 16 → ((s.ctx r).gr f.b.toNat).getLsbD 59 = false → (t.ctx r).viol = true) ∧
      (f.disp ≠ 1 → ¬ (8 ≤ r ∧ 8 ≤ f.disp.toNat ∧ f.disp.toNat < 16 ∧ ((s.ctx r).gr f.b.toNat).getLsbD 59 = false) →
        (t.ctx r).viol = (s.ctx r).viol ∧ t.w6g 0xA1008 = s.w6g 0xA1008 ∧ t.w6g 0xA1010 = s.w6g 0xA1010)) ∧
  (∀ (f : Fld) (s : State) (r : Nat), s.runs r 0x27 f →
    ∃ t v, exec (.ezMfs f) s = .next t ∧ EaselFrame s t ∧ LocSame s t ∧ OtherRings s t r ∧ Passed (s.ctx r) (t.ctx r) 4 ∧
      (t.ctx r).flags = (s.ctx r).flags ∧ (t.ctx r).rc = (s.ctx r).rc ∧ (t.ctx r).w = (s.ctx r).w ∧
      (t.ctx r).viol = (s.ctx r).viol ∧ (t.ctx r).malf = (s.ctx r).malf ∧ t.w6g 0xA1008 = s.w6g 0xA1008 ∧
      (∀ n, (t.ctx r).gr n = if n = f.d.toNat then v else (s.ctx r).gr n) ∧
      (f.disp.toNat = 0 → v = (s.ctx r).rc.setWidth 64) ∧ (f.disp.toNat = 1 → v = (s.ctx r).estat r) ∧
      (f.disp.toNat = 2 → v = (s.ctx r).pc + (if (s.ctx r).inrep then 4 else 0)) ∧
      (f.disp.toNat = 3 → v = (s.ctx r).flags.setWidth 64) ∧
      (∀ k, k < 4 → f.disp.toNat = 4 + k → v = s.build.feat k) ∧ (∀ k, k < 8 → f.disp.toNat = 8 + k → v = (s.ctx r).win r k) ∧
      (f.disp.toNat = 16 → v = (if r < 8 then s.ez.events else s.ez.events &&& 0xFF00).setWidth 64) ∧
      (f.disp.toNat = 17 → v = s.clk.time) ∧ (18 ≤ f.disp.toNat → v = 0))

/-- R350, R360, R361: a load reaches G[D], zero-extended, from the local store; through a memory window it issues one MRd with
its own SIZE and OFFSET, and the ring waits.
R357, R363 to R366, R369, R395: LD of spaces 0x1, 0x2, 0x3, 0x5 and 0x7 by a secure ring gives the word named, in the bits that it
has, with what its check found in LCE and LUE; one of rings 8 to 15 that they may not make gives zero and is a violation.
R496: LD of spaces 0x4 and 0x6 waits for the end of its KCLK, and gives what the word then holds.
R350, R360, R361: a store changes exactly its bytes of the local store; through a memory window it issues one MWr with its
bytes and byte enables, and the ring waits. ST to a register space does what EASEL_REGISTER_STORE does, and ends.
A message through a window has the window's NS as WORLD: the model's choice, log entry 65 (R321 names the ring's world). -/
def Obligations.EaselLoadsAndStores : Prop :=
  (∀ (f : Fld) (opc n : Nat) (i : Instr), (opc, n, i) ∈ loadInstr f → ∀ (s : State) (r : Nat), s.runs r opc f →
      (∀ a d, s.access r (iterEa (s.ctx r) f n) n .load = .loc a → s.locReads (a / 8) d →
        ∃ t, exec i s = .next t ∧ EaselFrame s t ∧ LocSame s t ∧ OtherRings s t r ∧ Passed (s.ctx r) (t.ctx r) 4 ∧
          (t.ctx r).flags = (s.ctx r).flags ∧ (t.ctx r).rc = (s.ctx r).rc ∧ (t.ctx r).w = (s.ctx r).w ∧
          ∀ k, (t.ctx r).gr k =
            if k = f.d.toNat then BitVec.ofNat 64 (d / 2 ^ (8 * (a % 8)) % 2 ^ (8 * n)) else (s.ctx r).gr k) ∧
      (∀ pa ns m code, s.access r (iterEa (s.ctx r) f n) n .load = .mem pa ns → s.mgmtDecode true pa = some (m, code) →
        ∃ t, exec i s = .next t ∧ EaselFrame s t ∧ LocSame s t ∧ (∀ k, SameRegs (s.ctx k) (t.ctx k)) ∧
          (t.ctx r).wait = .mem (.load f.d.toNat n (pa % 64)) ∧
          ∃ q : MemReq, smGet [] t.ez.memOut m = smGet [] s.ez.memOut m ++ [q] ∧ q.mopc = 1 ∧ q.line = pa / 64 ∧ q.off = pa % 64 ∧
            2 ^ q.size = n ∧ q.world = ns ∧ q.part = 0 ∧ q.code = code ∧ q.own = .easel r)) ∧
  (∀ (f : Fld) (s : State) (r sp off : Nat), s.runs r 0x01 f → s.access r (iterEa (s.ctx r) f 8) 8 .load = .spc sp off →
      let gives (v : BitVec 64) (t : State) : Prop := exec (.ezLd f) s = .next t ∧ EaselFrame s t ∧ LocSame s t ∧
        OtherRings s t r ∧ Passed (s.ctx r) (t.ctx r) 4 ∧ (t.ctx r).flags = (s.ctx r).flags ∧ (t.ctx r).rc = (s.ctx r).rc ∧
        (t.ctx r).w = (s.ctx r).w ∧ ∀ k, (t.ctx r).gr k = if k = f.d.toNat then v else (s.ctx r).gr k
      let checked (v : BitVec 64) (d : Dec) : Prop :=
        ∃ t, gives v t ∧ (t.ctx r).viol = (s.ctx r).viol ∧ (t.ctx r).lce = decide (d.ecc = .ce) ∧ (t.ctx r).lue = decide (d.ecc = .ue)
      (r < 8 → s.build.p ≤ 4 →
        (∀ p set way, sp = 1 → p < s.build.panels → set < s.build.sets → set < 2 ^ 15 → way < 16 →
          off = p * 2 ^ 22 + set * 2 ^ 7 + way * 8 →
          let d := strongDec 56 (smGet (Config.freeDir s.nonce p (set * 16 + way)) (s.panel p).dir (set * 16 + way)).toNat
          checked (BitVec.ofNat 64 d.data) d) ∧
        (∀ p pal cw, sp = 2 → p < s.build.panels → pal < 4 * s.build.palSets → pal < 2 ^ 14 → cw < 5 →
          off = p * 2 ^ 20 + pal * 2 ^ 6 + cw * 8 →
          let d := decW (smGet (Config.freePal s.nonce p (pal * 8 + cw)) (s.panel p).pal (pal * 8 + cw))
          checked (BitVec.ofNat 64 d.data) d) ∧
        (∀ n, sp = 3 → n < 16 →
          (off = 16 * n → checked (BitVec.ofNat 64 (decW (s.rgnRaw (2 * n))).data) (decW (s.rgnRaw (2 * n)))) ∧
          (off = 16 * n + 8 → checked (BitVec.ofNat 64 ((decW (s.rgnRaw (2 * n + 1))).data % 2 ^ 63 +
            (if s.bad n = true then 2 ^ 63 else 0))) (decW (s.rgnRaw (2 * n + 1))))) ∧
        (∀ i, sp = 5 → i < 512 → off = 8 * i →
          checked (BitVec.ofNat 64 ((decW (s.ephRaw i)).data &&& ephMask i)) (decW (s.ephRaw i))) ∧
        (∀ p j, sp = 7 → p < s.build.panels → j < 256 → off = p * 2 ^ 16 + 2 ^ 15 + 8 * j →
          ∃ t, gives (match smFind (s.panel p).llt j with | some l => BitVec.ofNat 64 (2 ^ 63 + l % 2 ^ 46 * 64) | none => 0) t) ∧
        (∀ p i, sp = 7 → p < s.build.panels → i < 1024 → (∀ e ∈ (s.panel p).htcs, e.1 < 1024) → off = p * 2 ^ 16 + 16 * i →
          (smFind (s.panel p).htcs i = none → ∃ t, gives 0 t) ∧
          (∀ h, smFind (s.panel p).htcs i = some h → ∃ t v, gives v t ∧ v.getLsbD 63 = true ∧
            v.toNat / 2 ^ 60 % 8 = phaseCode h.phase ∧ v.toNat / 2 ^ 58 % 4 = h.pool % 4 ∧
            (h.pool ≠ 2 → v.toNat / 2 ^ 33 % 512 = h.pkt.hdr.src % 512 ∧ v.toNat % 4096 = h.pkt.hdr.tag % 4096))) ∧
        (∀ p, s.build.panels ≤ p → p < 16 → (sp = 1 ∧ off = p * 2 ^ 22) ∨ (sp = 2 ∧ off = p * 2 ^ 20) ∨ (sp = 7 ∧ off = p * 2 ^ 16) →
          ∃ t, gives 0 t)) ∧
      (8 ≤ r → sp ∈ [1, 2, 5, 7] → ∃ t, gives 0 t ∧ (t.ctx r).viol = true ∧ t.w6g 0xA1008 = ctrAdd (s.w6g 0xA1008) 1) ∧
      (sp = 4 ∨ sp = 6 → ∃ t, exec (.ezLd f) s = .next t ∧ EaselFrame s t ∧ LocSame s t ∧ (∀ k, SameRegs (s.ctx k) (t.ctx k)) ∧
        (t.ctx r).wait = .sample sp off (.load f.d.toNat 8 0))) ∧
  (∀ (s : State) (r sp off d : Nat), s.live → r < 8 → s.clk.cyc % 8 = 7 → (s.ctx r).wait = .sample sp off (.load d 8 0) →
      (∀ k, k ≠ r → ∀ a b u, (s.ctx k).wait ≠ .sample a b u) → s.build.p ≤ 4 →
      ∀ (v : BitVec 64), (sp = 4 ∧ ((∃ p, p < s.build.panels ∧ off = 0x100 * p ∧ v = BitVec.ofNat 64 s.clk.cyc) ∨
            (∃ p i, p < s.build.panels ∧ i < 8 ∧ off = 0x100 * p + 0x80 + 8 * i ∧ v = s.w4g off))) ∨
          (sp = 6 ∧ ((off = 0xA1000 ∧ v = s.ez.events.setWidth 64) ∨
            (∃ q, q < 64 ∧ off = 0xA0000 + 8 * q ∧ v = s.ptSit q) ∨
            (∃ n, n < s.build.slots ∧ n < 256 ∧ off = 0x100 * n + 0x30 ∧ v = (s.port n).protoErr))) →
      EaselFrame s s.kclkEnd ∧ LocSame s s.kclkEnd ∧ OtherRings s s.kclkEnd r ∧ Passed (s.ctx r) (s.kclkEnd.ctx r) 4 ∧
      ∀ k, (s.kclkEnd.ctx r).gr k = if k = d then v else (s.ctx r).gr k) ∧
  (∀ (f : Fld) (s : State) (r sp off : Nat), s.runs r 0x05 f → r < 16 →
      (∀ i, s.ezNext = some (r, i) → ∀ k ∈ i.locs, ∃ d, s.locReads k d) →
      s.access r (iterEa (s.ctx r) f 8) 8 .store = .spc sp off →
      (s.storeWaits r sp off = false → ∃ t u, exec (.ezSt f) s = .next t ∧
        exec (.easelRegisterStore r sp off ((s.ctx r).gr f.d.toNat)) s = .next u ∧ t.panels = u.panels ∧ t.ports = u.ports ∧
        t.routers = u.routers ∧ t.net = u.net ∧ t.mps = u.mps ∧ t.rgn = u.rgn ∧ t.w4 = u.w4 ∧ t.w6 = u.w6 ∧ t.ep = u.ep ∧
        OtherRings s t r ∧ Passed (s.ctx r) (t.ctx r) 4 ∧ (t.ctx r).g = (s.ctx r).g ∧ (t.ctx r).viol = (u.ctx r).viol) ∧
      (s.storeWaits r sp off = true → ∃ t, exec (.ezSt f) s = .next t ∧ EaselFrame s t ∧ t.w6 = s.w6 ∧
        ∀ k, SameRegs (s.ctx k) (t.ctx k))) ∧
  (∀ (f : Fld) (opc n : Nat) (i : Instr), (opc, n, i) ∈ storeInstr f → ∀ (s : State) (r : Nat), s.runs r opc f →
      (∀ a d, s.access r (iterEa (s.ctx r) f n) n .store = .loc a → (n = 8 ∨ s.locReads (a / 8) d) →
        ∃ t e, exec i s = .next t ∧ EaselFrame s t ∧ OtherRings s t r ∧ Passed (s.ctx r) (t.ctx r) 4 ∧
          (t.ctx r).g = (s.ctx r).g ∧ (t.ctx r).flags = (s.ctx r).flags ∧ (t.ctx r).rc = (s.ctx r).rc ∧ (t.ctx r).w = (s.ctx r).w ∧
          (∀ j x, j ≠ a / 8 → s.locReads j x → t.locReads j x) ∧ t.locReads (a / 8) e ∧ e < 2 ^ 64 ∧
          ∀ k, k < 8 → e / 2 ^ (8 * k) % 256 =
            if a % 8 ≤ k ∧ k < a % 8 + n then ((s.ctx r).gr f.d.toNat).toNat / 2 ^ (8 * (k - a % 8)) % 256 else d / 2 ^ (8 * k) % 256) ∧
      (∀ pa ns m code, s.access r (iterEa (s.ctx r) f n) n .store = .mem pa ns → s.mgmtDecode true pa = some (m, code) →
        ∃ t, exec i s = .next t ∧ EaselFrame s t ∧ LocSame s t ∧ (∀ k, SameRegs (s.ctx k) (t.ctx k)) ∧
          (t.ctx r).wait = .mem .store ∧
          ∃ q : MemReq, smGet [] t.ez.memOut m = smGet [] s.ez.memOut m ++ [q] ∧ q.mopc = 2 ∧ q.line = pa / 64 ∧ q.off = pa % 64 ∧
            2 ^ q.size = n ∧ q.world = ns ∧ q.part = 0 ∧ q.code = code ∧ q.own = .easel r ∧
            (∀ k, k < 64 → q.be.getLsbD k = (decide (pa % 64 ≤ k) && decide (k < pa % 64 + n))) ∧
            ∀ k, k < n → lineByte q.data (pa % 64 + k) = ((s.ctx r).gr f.d.toNat).toNat / 2 ^ (8 * k) % 256))

/-- R350: BR, BRL, JMP, JMPL and LOOP, outside a repeat (R376). JMPL with D equal to B takes its target from the old G[B]: the
model's reading, log entry 20. -/
def Obligations.EaselBranches : Prop :=
  ∀ (f : Fld) (s : State) (r : Nat), (s.ctx r).inrep = false →
    let c := s.ctx r
    let by4 : BitVec 64 := f.disp.signExtend 64 * 4
    (∀ e : Nat × Instr × Bool × BitVec 64, e ∈ [(0x38, .ezBr f, false, c.pc + by4), (0x39, .ezBrl f, true, c.pc + by4),
        (0x3A, .ezJmp f, false, c.gr f.b.toNat + by4), (0x3B, .ezJmpl f, true, c.gr f.b.toNat + by4)] → s.runs r e.1 f →
      ∃ t, exec e.2.1 s = .next t ∧ EaselFrame s t ∧ LocSame s t ∧ OtherRings s t r ∧ (t.ctx r).pc = e.2.2.2 ∧
        (t.ctx r).inrep = false ∧ (t.ctx r).flags = c.flags ∧ (t.ctx r).rc = c.rc ∧ (t.ctx r).w = c.w ∧
        ∀ n, (t.ctx r).gr n = if n = f.d.toNat ∧ e.2.2.1 = true then c.pc + 4 else c.gr n) ∧
    (s.runs r 0x3C f →
      ∃ t, exec (.ezLoop f) s = .next t ∧ EaselFrame s t ∧ LocSame s t ∧ OtherRings s t r ∧ (t.ctx r).rc = c.rc - 1 ∧
        (t.ctx r).pc = (if c.rc = 1 then c.pc + 4 else c.pc + by4) ∧ (t.ctx r).inrep = false ∧ (t.ctx r).flags = c.flags ∧
        (t.ctx r).g = c.g ∧ (t.ctx r).w = c.w)

/-- R378, R381, R383: the ring that the Easel picks without a program reads its next descriptor, one full line at
BASE + 64 × (HEAD modulo 2^k); a ring with more work than slots, or with a descriptor in no region, gets RING_ERR, and so does, at
the end of a KCLK, any ring with more work than slots; a TAIL write of the KCLK of the setting undoes it (R539).
R380: END writes STATUS and RESULT of its descriptor in one message; where that cannot be issued, RING_ERR is set and HEAD
advances all the same (R381). That the descriptor is one read of a full line, and STATUS with RESULT one write, is the model's
reading, log entry 15. -/
def Obligations.EaselProgramsStartAndEnd : Prop :=
  (∀ (s : State) (n : Nat), s.live → s.ezPick = some n → (s.ctx n).running = false →
      let g := s.ring n
      let pa := (g.base.toNat + 64 * (g.head.toNat % 2 ^ g.size.toNat)) % 2 ^ 52
      (2 ^ g.size.toNat < (g.tail - g.head).toNat ∨ s.mgmtDecode true pa = none →
        ∃ t, exec .ringDescriptorStart s = .next t ∧ EaselFrame s t ∧ LocSame s t ∧ (∀ k, SameRegs (s.ctx k) (t.ctx k)) ∧
          (t.ring n).err = decide (g.tailK ≠ some (s.clk.cyc / 8)) ∧ (t.ring n).head = g.head) ∧
      (∀ m code, (g.tail - g.head).toNat ≤ 2 ^ g.size.toNat → s.mgmtDecode true pa = some (m, code) →
        ∃ t q, exec .ringDescriptorStart s = .next t ∧ EaselFrame s t ∧ LocSame s t ∧ (∀ k, SameRegs (s.ctx k) (t.ctx k)) ∧
          t.host = s.host ∧ (t.ctx n).wait = .mem .desc ∧ smGet [] t.ez.memOut m = smGet [] s.ez.memOut m ++ [q] ∧ q.mopc = 1 ∧
          q.line = pa / 64 ∧ q.size = 6 ∧ q.world = (if n < 8 then 0 else 1) ∧ q.part = 0 ∧ q.own = .easel n)) ∧
  (∀ (f : Fld) (s : State) (r : Nat), s.runs r 0x0D f →
      (∀ m code, s.mgmtDecode true (s.descAddr r + 0x30) = some (m, code) → s.descAddr r % 64 = 0 →
        ∃ t, exec (.ezEnd f) s = .next t ∧ EaselFrame s t ∧ LocSame s t ∧ (∀ k, SameRegs (s.ctx k) (t.ctx k)) ∧
          (t.ctx r).fault = 0 ∧ (t.ctx r).wait = .mem (.status ((s.ctx r).dflags.getLsbD 0)) ∧
          ∃ q : MemReq, smGet [] t.ez.memOut m = smGet [] s.ez.memOut m ++ [q] ∧ q.mopc = 2 ∧ q.line = (s.descAddr r) / 64 ∧
            q.off = 0x30 ∧ q.size = 4 ∧ q.world = (if r < 8 then 0 else 1) ∧ q.code = code ∧ q.own = .easel r ∧
            q.be = 0xFFFF000000000000#64 ∧
            q.data.extractLsb' 384 64 = 0x8000000000000000#64 + ((s.ctx r).idx.setWidth 64 <<< 16) + (f.disp.extractLsb' 0 8).setWidth 64 ∧
            q.data.extractLsb' 448 64 = (s.ctx r).gr f.d.toNat) ∧
      (s.mgmtDecode true (s.descAddr r + 0x30) = none →
        ∃ t, exec (.ezEnd f) s = .next t ∧ EaselFrame s t ∧ LocSame s t ∧ (∀ k, SameRegs (s.ctx k) (t.ctx k)) ∧
          (t.ctx r).fault = 0 ∧ (t.ctx r).running = false ∧
          (t.ring r).err = decide ((s.ring r).tailK ≠ some (s.clk.cyc / 8)) ∧ (t.ring r).head = (s.ring r).head + 1)) ∧
  (∀ (s : State) (n : Nat), n < 16 → s.clk.cyc % 8 = 7 → s.host.bootEn = true → s.clk.initBusy = false →
      (∀ k a b u, (s.ctx k).wait ≠ .sample a b u) → 2 ^ (s.ring n).size.toNat < ((s.ring n).tail - (s.ring n).head).toNat →
      (s.ring n).tailK ≠ some (s.clk.cyc / 8) → (s.ring n).err = false →
      (s.kclkEnd.ring n).err = true ∧ (s.kclkEnd.ring n).head = (s.ring n).head ∧
        (if n < 8 then s.kclkEnd.host.irqStatS.getLsbD 22 = true else s.kclkEnd.host.irqStatNs.getLsbD 22 = true))

/-- R391: WAIT ends at once when an event that it may take is set, and with M and T both 0; else the ring waits.
R390: SIGNAL sets the EVENTS bits that its ring may set and, with DISP[0], its ring's signal source; naming another bit
is a violation.
R391: a waiting ring takes the events of its mask that no waiting ring of lower number has in its own, and clears them; when its time
has passed and no such event is set, it goes on with G[D] zero, and not before. -/
def Obligations.EaselWaitAndSignal : Prop :=
  (∀ (f : Fld) (s : State) (r : Nat) (lower : BitVec 16), s.runs r 0x0E f → s.awaitedBelow r lower →
      let c := s.ctx r
      let mask := (c.gr f.d.toNat).setWidth 16 &&& (if r < 8 then 0xFFFF#16 else 0xFF00#16)
      let time := c.gr f.b.toNat + f.disp.signExtend 64
      let got := s.ez.events &&& mask &&& ~~~lower
      ∃ t, exec (.ezWait f) s = .next t ∧ EaselFrame s t ∧ LocSame s t ∧ OtherRings s t r ∧
        (t.ctx r).flags = c.flags ∧ (t.ctx r).rc = c.rc ∧ (t.ctx r).w = c.w ∧
        (got ≠ 0 ∨ (mask = 0 ∧ time = 0) →
          Passed c (t.ctx r) 4 ∧ t.ez.events = s.ez.events &&& ~~~got ∧
          ∀ n, (t.ctx r).gr n = if n = f.d.toNat then got.setWidth 64 else c.gr n) ∧
        (¬ (got ≠ 0 ∨ (mask = 0 ∧ time = 0)) →
          (t.ctx r).wait = .event mask (if time = 0 then none else some (s.kclk + time.toNat)) f.d.toNat ∧
          (t.ctx r).pc = c.pc ∧ (t.ctx r).g = c.g ∧ t.ez.events = s.ez.events)) ∧
  (∀ (f : Fld) (s : State) (r : Nat), s.runs r 0x0F f →
      let v := ((s.ctx r).gr f.d.toNat).setWidth 16 &&& 0xFFE0#16
      ∃ t, exec (.ezSignal f) s = .next t ∧ EaselFrame s t ∧ LocSame s t ∧ OtherRings s t r ∧ Passed (s.ctx r) (t.ctx r) 4 ∧
        (t.ctx r).g = (s.ctx r).g ∧ (t.ctx r).flags = (s.ctx r).flags ∧ (t.ctx r).rc = (s.ctx r).rc ∧ (t.ctx r).w = (s.ctx r).w ∧
        t.ez.events = s.ez.events ||| (v &&& (if r < 8 then 0xFFE0#16 else 0xFF00#16)) ∧
        (f.disp.getLsbD 0 = true → r < 8 → t.host.irqStatS.getLsbD (8 + r) = true) ∧
        (f.disp.getLsbD 0 = true → 8 ≤ r → r < 16 → t.host.irqStatNs.getLsbD r = true) ∧
        (8 ≤ r → v &&& 0x00E0#16 ≠ 0 → (t.ctx r).viol = true)) ∧
  (∀ (s : State) (r : Nat) (mask lower : BitVec 16) (u : Option Nat) (d : Nat), s.live → r < 16 →
      (s.ctx r).wait = .event mask u d → s.awaitedBelow r lower →
      let got := s.ez.events &&& mask &&& ~~~lower
      let ends (t : State) : Prop := EaselFrame s t ∧ LocSame s t ∧ OtherRings s t r ∧ Passed (s.ctx r) (t.ctx r) 4 ∧
        (t.ctx r).flags = (s.ctx r).flags ∧ t.ez.events = s.ez.events &&& ~~~got ∧
        ∀ n, (t.ctx r).gr n = if n = d then got.setWidth 64 else (s.ctx r).gr n
      (got ≠ 0 → ∃ t, exec (.waitEventTaken r) s = .next t ∧ ends t) ∧
      (got = 0 → ∀ k, u = some k → k ≤ s.clk.cyc / 8 → ∃ t, exec (.waitTimeout r) s = .next t ∧ ends t) ∧
      (got = 0 → exec (.waitEventTaken r) s = .next s) ∧
      ((u = none ∨ ∃ k, u = some k ∧ s.clk.cyc / 8 < k) → exec (.waitTimeout r) s = .next s))

/-- R371, R372, R375, R376: what REP does, by the instruction after it, by its count, and when a repeat goes on. That an instruction
which R376 forbids runs once with MALF whatever the count, 0 too, and also where INREP is 1, is the model's reading, log entry 31. -/
def Obligations.EaselRepeatPrefix : Prop :=
  ∀ (f : RepFld) (s : State) (r : Nat) (i : Inst) (x e : BitVec 32), s.live → s.ezNext = some (r, i) → i.word = repWord f →
    i.succ = some (x, e) →
    let c := s.ctx r
    let n : BitVec 16 := if f.csrc then c.rc else f.count.setWidth 16
    let after : BitVec 64 := c.pc + 4 + (if wOpc x = 0x0B ∨ wOpc x = 0x0C then 8 else 4)
    let single : Prop := wOpc x ∈ [0x3D, 0x38, 0x39, 0x3A, 0x3B, 0x3C, 0x0D, 0x0E, 0x0F]
    let go : Prop := condHolds f.cond c.flags c.rc = true
    ∃ t, exec (.ezRep f) s = .next t ∧ EaselFrame s t ∧ LocSame s t ∧ OtherRings s t r ∧ (t.ctx r).g = c.g ∧
      (t.ctx r).flags = c.flags ∧ (t.ctx r).rc = c.rc ∧ (t.ctx r).w = c.w ∧
      (c.inrep = false → ¬ go → (t.ctx r).pc = after ∧ (t.ctx r).inrep = false) ∧
      (go ∨ c.inrep = true → single → (t.ctx r).pc = c.pc + 4 ∧ (t.ctx r).inrep = false ∧ (t.ctx r).malf = true) ∧
      (c.inrep = false → go → ¬ single → (t.ctx r).rem = n ∧ (t.ctx r).idx = 0 ∧
        (n = 0 → (t.ctx r).inrep = false ∧ (t.ctx r).pc = after) ∧
        (n ≠ 0 → (t.ctx r).inrep = true ∧ (t.ctx r).pc = c.pc ∧ (t.ctx r).repw = repWord f ∧
          ((t.ctx r).rep = some (x, e) ∨ ((t.ctx r).rep = none ∧ (f.i = true ∨ 8 ≤ r))))) ∧
      (c.inrep = true → ¬ single → (t.ctx r).inrep = true ∧ (t.ctx r).rem = c.rem ∧ (t.ctx r).idx = c.idx ∧
        (t.ctx r).pc = c.pc ∧ (t.ctx r).repw = repWord f)

/-- R349, R355: a reserved opcode and a non-zero DISP[13:4] beside X end the program with FAULT ILL; an access whose address
faults ends it with SPACE, ALIGN, WIN or DECODE, and a load of an uncorrectable local-store word with ECC. No register of the
ring changes but FAULT.
R353: an instruction whose condition fails only passes. -/
def Obligations.EaselFaultsAndFailedConditions : Prop :=
  ((∀ (w : BitVec 32) (s : State) (r : Nat) (i : Inst), s.live → s.ezNext = some (r, i) → i.word = w →
      wOpc w ∈ [0x00, 0x0A, 0x37, 0x3E, 0x3F] → condHolds (wCond w) (s.ctx r).flags (s.ctx r).rc = true →
      ∃ t, exec (.ezReserved w) s = .next t ∧ EaselFrame s t ∧ LocSame s t ∧ (∀ k, SameRegs (s.ctx k) (t.ctx k)) ∧
        (t.ctx r).fault = 0x01 ∧ (t.ctx r).lastOk = false) ∧
    (∀ (f : Fld) (opc : Nat) (i : Instr), (opc, i) ∈ twoOperand f → opc % 2 = 0 → 16 ≤ f.disp.toNat → ∀ (s : State) (r : Nat),
      s.runs r opc f → ∃ t, exec i s = .next t ∧ EaselFrame s t ∧ LocSame s t ∧ (∀ k, SameRegs (s.ctx k) (t.ctx k)) ∧
        (t.ctx r).fault = 0x01 ∧ (t.ctx r).lastOk = false) ∧
    (∀ (f : Fld) (e : Nat × Nat × Instr) (k : AccKind), (e ∈ loadInstr f ∧ k = .load) ∨ (e ∈ storeInstr f ∧ k = .store) →
      ∀ (s : State) (r c : Nat), s.runs r e.1 f → s.access r (iterEa (s.ctx r) f e.2.1) e.2.1 k = .fault c →
      c ∈ [7, 6, 2, 3] ∧ ∃ t, exec e.2.2 s = .next t ∧ EaselFrame s t ∧ LocSame s t ∧ (∀ k, SameRegs (s.ctx k) (t.ctx k)) ∧
        (t.ctx r).fault = BitVec.ofNat 8 c ∧ (t.ctx r).lastOk = false) ∧
    (∀ (f : Fld) (opc n : Nat) (i : Instr), (opc, n, i) ∈ loadInstr f → ∀ (s : State) (r a x : Nat), s.runs r opc f →
      s.access r (iterEa (s.ctx r) f n) n .load = .loc a → lightDec (s.locRaw (a / 8)).toNat = .ue x →
      ∃ t, exec i s = .next t ∧ EaselFrame s t ∧ LocSame s t ∧ (∀ k, SameRegs (s.ctx k) (t.ctx k)) ∧
        (t.ctx r).fault = 0x04 ∧ (t.ctx r).lastOk = false)) ∧
  (∀ (f : Fld) (opc : Nat) (i : Instr), (opc, i) ∈ plainInstr f → ∀ (s : State) (r : Nat) (j : Inst), s.live →
      s.ezNext = some (r, j) → j.word = fldWord opc f → (opc = 0x0B ∨ opc = 0x0C → j.ext = f.ext) →
      condHolds f.cond (s.ctx r).flags (s.ctx r).rc = false →
      ∃ t, exec i s = .next t ∧ EaselFrame s t ∧ LocSame s t ∧ OtherRings s t r ∧
        Passed (s.ctx r) (t.ctx r) (if opc = 0x0B ∨ opc = 0x0C then 8 else 4) ∧ (t.ctx r).g = (s.ctx r).g ∧
        (t.ctx r).flags = (s.ctx r).flags ∧ (t.ctx r).rc = (s.ctx r).rc ∧ (t.ctx r).w = (s.ctx r).w ∧ t.ez.events = s.ez.events)

/-! ### Management operations, rings and events -/

/-- R384: a management operation reads its operand words, blocks its ring, and begins; here no other operation runs, and the
words stand in the local store. -/
def Obligations.EaselManagementOperationBegins : Prop :=
  ∀ (f : Fld) (e : Nat × (Nat → Bool) × Instr), e ∈ mgmtInstr f → ∀ (s : State) (r : Nat) (ws : List (BitVec 64)),
    s.runs r e.1 f → r < 8 → s.ez.ops = [] → ws.length = opTotal e.1 ws → s.operands r (iterEa (s.ctx r) f 8) ws →
    e.2.1 (ws.getD 0 0).toNat = true →
    (e.1 = 0x2D → (ws.getD 0 0).toNat.testBit 8 = true → (s.br ((ws.getD 0 0).toNat % 256)).bstate ≠ 3) →
    ∃ t o, exec e.2.2 s = .next t ∧ SameRegs (s.ctx r) (t.ctx r) ∧ (t.ctx r).wait = .op ∧ t.ez.ops = [o] ∧ o.ring = r ∧
      o.opc = e.1 ∧ o.d = f.d.toNat ∧ o.words = ws ∧ o.started = true ∧ t.build = s.build ∧ t.nonce = s.nonce

/-- R37, R384, R392: LOCK sets its items, and PROFILE sets the profile with its Bounded reserve, once; their statuses.
R291, R384, R386: what ADMIT checks, with its statuses, and what it gives the port; STATE and the ADMIT record are sent, in that
order. In which order two failures that hold at once are looked for, in ADMIT and in PROFILE, is the model's choice, log entry 70. -/
def Obligations.EaselLockProfileAndAdmit : Prop :=
  ((∀ (f : Fld) (s : State) (r : Nat) (w : BitVec 64), s.runs r 0x35 f → r < 8 → s.noOps →
      s.operands r (iterEa (s.ctx r) f 8) [w] →
      ∃ t o, exec (.ezLock f) s = .next t ∧ t.host.locks = s.host.locks ||| w.setWidth 6 ∧ t.host.prof = s.host.prof ∧
        SameTree s t ∧ SameHomes s t ∧ SamePins s t ∧ t.ez.ops = [o] ∧ o.ring = r ∧ o.status = some 1) ∧
    (∀ (f : Fld) (s : State) (r : Nat) (w : BitVec 64), s.runs r 0x34 f → r < 8 → s.noOps →
      s.operands r (iterEa (s.ctx r) f 8) [w] →
      ∃ t o, exec (.ezProfile f) s = .next t ∧ t.host.locks = s.host.locks ∧ SameTree s t ∧ SamePins s t ∧ t.ez.ops = [o] ∧
        o.ring = r ∧
        (s.host.prof ≠ 0 → o.status = some 2 ∧ t.host.prof = s.host.prof ∧ t.panels = s.panels) ∧
        (s.host.prof = 0 → w.extractLsb' 0 2 ≠ 1 → w.extractLsb' 0 2 ≠ 2 → o.status = some 3 ∧ t.host.prof = 0 ∧ t.panels = s.panels) ∧
        (s.host.prof = 0 → w.extractLsb' 0 2 = 1 → 896 < (w.extractLsb' 16 10).toNat →
          o.status = some 4 ∧ t.host.prof = 0 ∧ t.panels = s.panels) ∧
        (s.host.prof = 0 → w.extractLsb' 0 2 = 1 → (w.extractLsb' 16 10).toNat ≤ 896 → o.status = some 1 ∧ t.host.prof = 1 ∧
          ∀ p, p < s.build.panels → (t.panel p).bhtc = (w.extractLsb' 16 10).toNat) ∧
        (s.host.prof = 0 → w.extractLsb' 0 2 = 2 → o.status = some 1 ∧ t.host.prof = 2 ∧
          ∀ p, p < s.build.panels → (t.panel p).bhtc = 0))) ∧
  (∀ (f : Fld) (s : State) (r : Nat) (w v : BitVec 64), s.runs r 0x28 f → r < 8 → s.noOps →
      s.operands r (iterEa (s.ctx r) f 8) [w, v] →
      let n := (w.extractLsb' 0 8).toNat
      let a := (w.extractLsb' 8 8).toNat
      let limit := (w.extractLsb' 32 13).toNat
      let sit := (v.extractLsb' 0 32).toNat
      let x := s.port n
      let used : Prop := ∃ m, m < 256 ∧ (s.port m).agent = a ∧
        ((s.port m).lstate = .admitted ∨ (s.port m).lstate = .eclipsed ∨ (s.port m).lstate = .dead)
      ∃ t o, exec (.ezAdmit f) s = .next t ∧ t.ez.ops = [o] ∧ o.ring = r ∧ (∀ m, m ≠ n → t.port m = s.port m) ∧
        t.net = s.net ∧ t.routers = s.routers ∧ t.mps = s.mps ∧ t.host.prof = s.host.prof ∧ t.host.locks = s.host.locks ∧
        (∀ st, o.status = some st → st ≠ 1 → t.port n = x ∧ t.outs = s.outs ∧ t.panels = s.panels) ∧
        (s.host.prof = 0 → o.status = some 2) ∧
        (s.host.prof ≠ 0 → x.lstate ≠ .ready → o.status = some 3) ∧
        (s.host.prof ≠ 0 → x.lstate = .ready → s.capacityOk n = false → o.status = some 4) ∧
        (s.host.prof ≠ 0 → x.lstate = .ready → s.capacityOk n = true → used → o.status = some 5) ∧
        (s.host.prof ≠ 0 → x.lstate = .ready → s.capacityOk n = true → ¬ used → sit < x.maxSit → o.status = some 6) ∧
        (s.host.prof ≠ 0 → x.lstate = .ready → s.capacityOk n = true → ¬ used → x.maxSit ≤ sit → limit < 8 ∨ 4096 < limit →
          o.status = some 7) ∧
        (s.host.prof ≠ 0 → x.lstate = .ready → s.capacityOk n = true → ¬ used → x.maxSit ≤ sit → 8 ≤ limit → limit ≤ 4096 →
          o.status = some 1 ∧ (t.port n).lstate = .admitted ∧ (t.port n).agent = a ∧ (t.port n).limit = limit ∧
          (t.port n).part = (w.extractLsb' 16 6).toNat ∧ (t.port n).nsOnly = w.getLsbD 24 ∧ (t.port n).sitCyc = sit ∧
          (t.port n).hbCyc = (v.extractLsb' 32 32).toNat ∧ (t.port n).mode = x.mode ∧ (t.port n).prio = x.prio ∧
          t.outs = s.outs ++ [.link n (linkWords [0x84000003#32]), .link n (linkWords (t.port n).admitRecord)]))

/-- R384: operations that are not performed end at once with the failure status of their row, and change neither a port nor a
line nor the tree. That LEDGER FUNC 1 after PROFILE ends with 0x03 also where no slots are recorded is the model's order, log entry 37. -/
def Obligations.EaselManagementFailures : Prop :=
  ∀ (f : Fld) (s : State) (r : Nat) (ws : List (BitVec 64)), r < 8 → s.noOps → s.operands r (iterEa (s.ctx r) f 8) ws →
    let w := (ws.getD 0 0).toNat
    let n := w % 256
    let fails (opc k st : Nat) (i : Instr) : Prop := s.runs r opc f → ws.length = k →
      ∃ t o, exec i s = .next t ∧ t.ez.ops = [o] ∧ o.ring = r ∧ o.status = some st ∧ t.ports = s.ports ∧ t.net = s.net ∧
        t.panels = s.panels ∧ t.routers = s.routers ∧ t.outs = s.outs
    let absent : Prop := s.build.panels ≤ w % 16 ∨ s.build.sets ≤ w / 65536 % 32768
    ((s.port n).lstate ≠ .admitted → (s.port n).lstate ≠ .eclipsed → fails 0x29 1 2 (.ezExpel f)) ∧
    ((ws.getD 1 0).toNat = 0 ∨ 2 ^ 32 < (ws.getD 1 0).toNat ∨ 2 ^ 46 < w / 64 % 2 ^ 46 + (ws.getD 1 0).toNat →
      fails 0x2A 2 2 (.ezRecall f)) ∧
    (absent → fails 0x2B 1 2 (.ezSweep f) ∧ fails 0x2C 1 2 (.ezRetire f)) ∧
    (w.testBit 8 = false → (s.port n).lstate ≠ .admitted → fails 0x2D 2 2 (.ezEclipse f)) ∧
    (w.testBit 8 = false → (s.port n).lstate ≠ .eclipsed ∨ (s.port n).eclReq = true → fails 0x2E 1 2 (.ezDawn f)) ∧
    (w.testBit 8 = true → (s.br n).bstate ≠ 2 ∨ (s.br n).eclReq = true → fails 0x2E 1 2 (.ezDawnBranch f)) ∧
    (s.host.locks = 0 → 2 ^ s.build.panels ≤ w % 2 ^ 16 ∨ 2 ^ s.build.memPorts ≤ w / 2 ^ 16 % 256 → fails 0x30 1 2 (.ezTswap f)) ∧
    (s.host.prof ≠ 0 → fails 0x31 0 3 (.ezBist f)) ∧
    (3 < w % 8 ∨ (w % 8 < 2 ∧ s.build.panels ≤ w / 16 % 16) → fails 0x32 3 2 (.ezScrubq f)) ∧
    (w % 4 = 0 → s.ep.slots = none → fails 0x33 1 4 (.ezLedgerFunc0 f)) ∧
    (w % 4 = 1 → s.host.prof ≠ 0 → fails 0x33 1 3 (.ezLedgerFunc1 f)) ∧
    (w % 4 = 2 → (ws.getD 1 0).toNat % 4096 ≠ 0 → fails 0x33 3 3 (.ezLedgerFunc2 f)) ∧
    ((∀ m, m < 256 → (s.port m).agent = n → (s.port m).lstate ≠ .admitted ∧ (s.port m).lstate ≠ .eclipsed ∧
        (s.port m).lstate ≠ .dead) → fails 0x36 5 2 (.ezTinv f))

/-- R384: a blocked operation whose status is known completes: its status reaches G[D] and its ring goes on. BIST ends with what the
answers of the checkers show (R413, R542): DONE, PASS and TWINF, how many checkers gave a wrong answer, and the first of them, in the
order of log entry 28, which is the model's choice.
R389: an ECLIPSE of a port whose TIMEOUT has passed ends with 0x04 while the port is ADMITTED, and its fence is cancelled unless
the request pin is 1; where the port is ECLIPSED it ends with 0x01, and in any other state with 0x05. -/
def Obligations.ManagementOperationsEnd : Prop :=
  (∀ (s : State) (r : Nat) (rep : OpReport) (o : MOp), s.live → r < 16 → s.ez.ops = [o] → s.ez.asks = [] → o.ring = r → o.started = true →
      let done (v : Nat) (t : State) : Prop := SameTree s t ∧ SameHomes s t ∧ SamePins s t ∧ OtherRings s t r ∧ t.ez.ops = [] ∧
        Passed (s.ctx r) (t.ctx r) 4 ∧ (t.ctx r).flags = (s.ctx r).flags ∧ (t.ctx r).rc = (s.ctx r).rc ∧
        ∀ n, (t.ctx r).gr n = if n = o.d then BitVec.ofNat 64 v else (s.ctx r).gr n
      (∀ v, o.status = some v → ∃ t, exec (.managementOpComplete r rep) s = .next t ∧ done v t) ∧
      (o.opc = 0x31 → o.status = none → s.build.p ≤ 4 →
        let bad := s.bistFails rep
        ∃ t, exec (.managementOpComplete r rep) s = .next t ∧ t.host.bist.getLsbD 31 = true ∧
          (t.host.bist.getLsbD 30 = true ↔ bad = []) ∧ (t.host.bist.getLsbD 29 = true ↔ ∃ c ∈ bad, c.1 = 10) ∧
          t.host.bist.extractLsb' 16 8 = BitVec.ofNat 8 (min 255 bad.length) ∧
          (∀ c u rest, bad = (c, u) :: rest → t.host.bist.extractLsb' 0 16 = BitVec.ofNat 16 (c * 2 ^ 12 + u)) ∧
          done (if bad = [] then 1 else 2) t)) ∧
  (∀ (s : State) (r : Nat) (o : MOp), s.live → r < 16 → s.ez.ops = [o] → o.ring = r → o.opc = 0x2D → o.started = true →
      o.status = none → (o.word 0).testBit 8 = false → o.word 1 ≠ 0 → o.startK + o.word 1 ≤ s.clk.cyc / 8 →
      let n := o.word 0 % 256
      let ends (t : State) (v : Nat) : Prop := exec (.eclipseTimeout r) s = .next t ∧ t.ez.ops = [{ o with status := some v }] ∧
        SameBase s t ∧ SamePins s t ∧ t.net = s.net ∧ t.routers = s.routers
      ((s.port n).lstate = .admitted → ∃ t, ends t 4 ∧ (∀ m, m ≠ n → t.port m = s.port m) ∧ (∀ q ∈ t.ez.asks, q.2.op ≠ o.mark) ∧
        t.port n = { s.port n with eclOp := false, fencing := (s.port n).fencing && (s.port n).eclReq }) ∧
      ((s.port n).lstate = .eclipsed → ∃ t, ends t 1 ∧ t.ports = s.ports ∧ SameHomes s t) ∧
      ((s.port n).lstate ≠ .admitted → (s.port n).lstate ≠ .eclipsed → ∃ t, ends t 5 ∧ t.ports = s.ports ∧ SameHomes s t))

/-- R212: at a frame boundary every table that a pending TSWAP names takes its shadow, no other slot word changes, and the
TSWAP completes; between boundaries nothing happens. -/
def Obligations.FrameBoundarySwapsTables : Prop :=
  ∀ (s : State) (o : MOp), s.live → s.ez.tswap = [] → o ∈ s.ez.ops → o.opc = 0x30 → o.started = true → o.status = none →
    (∀ q ∈ s.ez.ops, q.opc = 0x30 → q = o) →
    (s.clk.cyc % 64 = 0 →
      ∃ t, exec .slotFrameBoundary s = .next t ∧ SameBase s t ∧ SamePins s t ∧ SameTree s t ∧ SameHomes s t ∧
        (∀ k, SameRegs (s.ctx k) (t.ctx k)) ∧ { o with status := some 1 } ∈ t.ez.ops ∧
        (∀ p i, p < 16 → i < 64 → t.w6g (0x90000 + 0x1000 * p + 0x400 + 8 * i) =
          if (o.word 0).testBit p then s.w6g (0x90000 + 0x1000 * p + 0x200 + 8 * i)
          else s.w6g (0x90000 + 0x1000 * p + 0x400 + 8 * i)) ∧
        (∀ m i, m < 8 → i < 64 → t.w6g (0x80000 + 0x800 * m + 0x400 + 8 * i) =
          if (o.word 0).testBit (16 + m) then s.w6g (0x80000 + 0x800 * m + 0x200 + 8 * i)
          else s.w6g (0x80000 + 0x800 * m + 0x400 + 8 * i)) ∧
        (∀ p i, p < 16 → i < 64 → t.w6g (0x90000 + 0x1000 * p + 0x200 + 8 * i) = s.w6g (0x90000 + 0x1000 * p + 0x200 + 8 * i))) ∧
    (s.clk.cyc % 64 ≠ 0 → exec .slotFrameBoundary s = .next s)

/-! ### Registers that rings store -/

/-- R392, R393, R395, R396: a store beyond a ring's privilege or to a locked item is ignored and counted as one violation. The KIND of
each, and that privilege is judged before a lock, is the model's reading, log entry 19. -/
def Obligations.StoreBeyondPrivilegeIsAViolation : Prop :=
  ∀ (ring sp off : Nat) (v : BitVec 64) (s : State), s.live → ring < 16 →
    (8 ≤ ring → sp ∈ [1, 2, 3, 4, 5, 7] →
      ∃ t, exec (.easelRegisterStore ring sp off v) s = .next t ∧ Violated s t ring 1) ∧
    (ring < 8 → s.host.prof ≠ 0 → sp ∈ [1, 2, 5] →
      ∃ t, exec (.easelRegisterStore ring sp off v) s = .next t ∧ Violated s t ring 1) ∧
    (ring < 8 → ∃ t, exec (.easelRegisterStore ring 7 off v) s = .next t ∧ Violated s t ring 1) ∧
    (ring < 8 → s.host.locks.getLsbD 0 = true →
      ∃ t, exec (.easelRegisterStore ring 3 off v) s = .next t ∧ Violated s t ring 5) ∧
    (ring < 8 → s.host.locks.getLsbD 1 = true → ∀ q, q < 64 →
      ∃ t, exec (.easelRegisterStore ring 6 (0xA0000 + 8 * q) v) s = .next t ∧ Violated s t ring 5) ∧
    (8 ≤ ring → ∀ q, q < 64 → ∃ t, exec (.easelRegisterStore ring 6 (0xA0000 + 8 * q) v) s = .next t ∧ Violated s t ring 1) ∧
    (8 ≤ ring → ∀ n, n < s.build.slots → n < 256 → (s.port n).shold = true →
      ∃ t, exec (.psHbWrite ring n v) s = .next t ∧ Violated s t ring 1)

/-- R305, R346, R368: a secure ring's store of the partition table is held to 32 to 4,096, of PS_STATE clears what it names, but
for a bit that was set in the same KCLK (R20), and sets SHOLD; read-only words stay. -/
def Obligations.EaselRegisterStoreTakesEffect : Prop :=
  ∀ (ring : Nat) (v : BitVec 64) (s : State), s.live → ring < 8 →
    (∀ q, q < 64 → s.host.locks.getLsbD 1 = false →
      ∃ t, exec (.easelRegisterStore ring 6 (0xA0000 + 8 * q) v) s = .next t ∧ StoreFrame s t ∧ SameHomes s t ∧ t.ports = s.ports ∧
        (t.ptSit q).toNat = max 32 (min 4096 (v.toNat % 2 ^ 13)) ∧ (∀ o, o ≠ 0xA0000 + 8 * q → t.w6g o = s.w6g o)) ∧
    (∀ n, n < s.build.slots → n < 256 →
      ∃ t, exec (.easelRegisterStore ring 6 (0x100 * n) v) s = .next t ∧ StoreFrame s t ∧ SameHomes s t ∧ t.w6 = s.w6 ∧
        OtherPorts s t n ∧ (t.port n).shold = v.getLsbD 8 ∧
        (t.port n).crdOvf = ((s.port n).crdOvf && (!v.getLsbD 19 || s.justSet (kPs n 19))) ∧
        (t.port n).hbLapse = ((s.port n).hbLapse && (!v.getLsbD 18 || s.justSet (kPs n 18))) ∧
        (t.port n).hdrFault = ((s.port n).hdrFault && (!v.getLsbD 17 || s.justSet (kPs n 17))) ∧
        (t.port n).introErr = ((s.port n).introErr && (!v.getLsbD 16 || s.justSet (kPs n 16))) ∧ (t.port n).lstate = (s.port n).lstate ∧
        (t.port n).fencing = (s.port n).fencing) ∧
    (∀ n, n < s.build.slots → n < 256 → exec (.easelRegisterStore ring 6 (0x100 * n + 0x10) v) s = .next s) ∧
    (∀ off, ¬ 8 ∣ off → exec (.easelRegisterStore ring 6 off v) s = .next s)

/-- R213, R215, R216: a route entry goes to the table that is not in use, and a write to the one in use only sets TBL_ERR once
the root has flipped; ROOT_FLIP inverts the root's epoch, which each router captures three HCLK later; RT_CLR clears the counters
of the epochs it names; a store to a router that the build lacks is ignored (R357).
R306, R310, R363, R364, R370: before PROFILE a secure store writes the array word it names with its check bits, in every panel where
ALL is set; it is the management request of each of them in its KCLK, and waits where one has had its own (R152).
R306, R393: a region-map word keeps its reserved bits zero; a secure ring may store it after PROFILE too, but not a hash key. -/
def Obligations.RouterAndArrayStores : Prop :=
  (∀ (ring : Nat) (v : BitVec 64) (s : State), s.live → ring < 8 →
      (∀ r e id, s.build.hasRouter r = true → e < 2 → id < 256 →
        (((s.router 40).flipped = true ∧ (s.router r).epoch % 2 = e) →
          ∃ t, exec (.routeEntryWrite ring r e id v) s = .next t ∧ StoreFrame s t ∧ SameHomes s t ∧ t.ports = s.ports ∧ t.w6 = s.w6 ∧
            t.router r = { s.router r with tblErr := true } ∧ ∀ q, q ≠ r → t.router q = s.router q) ∧
        (¬ ((s.router 40).flipped = true ∧ (s.router r).epoch % 2 = e) →
          ∃ t, exec (.routeEntryWrite ring r e id v) s = .next t ∧ StoreFrame s t ∧ SameHomes s t ∧ t.ports = s.ports ∧ t.w6 = s.w6 ∧
            (∀ q, q ≠ r → t.router q = s.router q) ∧ (t.router r).epoch = (s.router r).epoch ∧ (t.router r).tblErr = (s.router r).tblErr ∧
            ∀ i, smGet 0 (t.router r).routes i = if i = e * 256 + id then
              v.setWidth 8 &&& (if 32 ≤ r ∧ r < 40 then 0x83#8 else 0x87#8) else smGet 0 (s.router r).routes i)) ∧
      (v.getLsbD 0 = true →
        ∃ t, exec (.rootFlip ring v) s = .next t ∧ StoreFrame s t ∧ SameHomes s t ∧ t.ports = s.ports ∧ t.w6 = s.w6 ∧
          (t.router 40).epoch = 1 - (s.router 40).epoch % 2 ∧ (t.router 40).flipped = true ∧
          ∀ r, r < 40 → s.build.hasRouter r = true →
            (s.mirrored r = false → (t.router r).epoch = (s.router r).epoch ∧ (t.router r).flipAt = some (s.clk.cyc + 3)) ∧
            (s.mirrored r = true → (t.router r).epoch = 1 - (s.router 40).epoch % 2)) ∧
      (v.getLsbD 0 = false → exec (.rootFlip ring v) s = .next s) ∧
      (∀ r a b c d, s.build.hasRouter r = true → (s.router r).inj = [a, b] → (s.router r).ej = [c, d] →
        ∃ t, exec (.rtClr ring r v) s = .next t ∧ StoreFrame s t ∧ SameHomes s t ∧ t.ports = s.ports ∧
          (∀ q, q ≠ r → t.router q = s.router q) ∧
          (t.router r).inj = [if v.getLsbD 0 then 0 else a, if v.getLsbD 1 then 0 else b] ∧
          (t.router r).ej = [if v.getLsbD 0 then 0 else c, if v.getLsbD 1 then 0 else d]) ∧
      (∀ r, s.build.hasRouter r = true →
        ∃ t, exec (.rtSnpdlWrite ring r v) s = .next t ∧ StoreFrame s t ∧ SameHomes s t ∧ t.ports = s.ports ∧
          (∀ q, q ≠ r → t.router q = s.router q) ∧ t.router r = { s.router r with
            snpdl := v.setWidth 20, snpOld := some (s.clk.cyc, (s.router r).snpdlAt s.clk.cyc) }) ∧
      (∀ r e id, s.build.hasRouter r = false → exec (.routeEntryWrite ring r e id v) s = .next s ∧
        exec (.rtClr ring r v) s = .next s ∧ exec (.rtSnpdlWrite ring r v) s = .next s)) ∧
  (∀ (ring : Nat) (v : BitVec 64) (s : State), s.live → ring < 8 → s.host.prof = 0 → s.build.p ≤ 4 →
      (∀ off p set way, p < s.build.panels → set < s.build.sets → set < 2 ^ 15 → way < 16 → s.panelFrozen p = false →
        off = p * 2 ^ 22 + set * 2 ^ 7 + way * 8 →
        ((s.panel p).mgmtAt = some (s.clk.cyc / 8) → exec (.directoryWordStore ring off v) s = .next s) ∧
        ((s.panel p).mgmtAt ≠ some (s.clk.cyc / 8) →
        ∃ t, exec (.directoryWordStore ring off v) s = .next t ∧ StoreFrame s t ∧ t.ports = s.ports ∧ t.mps = s.mps ∧ t.rgn = s.rgn ∧
          (∀ q, q ≠ p → t.panel q = s.panel q) ∧ (t.panel p).pal = (s.panel p).pal ∧ (t.panel p).htcs = (s.panel p).htcs ∧
          (t.panel p).mgmtAt = some (s.clk.cyc / 8) ∧
          smFind (t.panel p).dir (set * 16 + way) = some (BitVec.ofNat 72 (strongEnc 56 (v.toNat % 2 ^ 56))) ∧
          ∀ i, i ≠ set * 16 + way → smFind (t.panel p).dir i = smFind (s.panel p).dir i)) ∧
      (∀ set way, set < s.build.sets → set < 2 ^ 15 → way < 16 →
        ((∃ p, p < s.build.panels ∧ s.panelFrozen p = false ∧ (s.panel p).mgmtAt = some (s.clk.cyc / 8)) →
          exec (.directoryWordStore ring (2 ^ 26 + set * 2 ^ 7 + way * 8) v) s = .next s) ∧
        ((∀ p, p < s.build.panels → s.panelFrozen p = false → (s.panel p).mgmtAt ≠ some (s.clk.cyc / 8)) →
        ∃ t, exec (.directoryWordStore ring (2 ^ 26 + set * 2 ^ 7 + way * 8) v) s = .next t ∧ StoreFrame s t ∧
          ∀ p, p < s.build.panels → s.panelFrozen p = false → (t.panel p).mgmtAt = some (s.clk.cyc / 8) ∧
            smFind (t.panel p).dir (set * 16 + way) = some (BitVec.ofNat 72 (strongEnc 56 (v.toNat % 2 ^ 56))))) ∧
      (∀ p pal cw, p < s.build.panels → pal < 4 * s.build.palSets → pal < 2 ^ 14 → cw < 5 → s.panelFrozen p = false →
        ((s.panel p).mgmtAt = some (s.clk.cyc / 8) →
          exec (.paletteCodewordStore ring (p * 2 ^ 20 + pal * 2 ^ 6 + cw * 8) v) s = .next s) ∧
        ((s.panel p).mgmtAt ≠ some (s.clk.cyc / 8) →
        ∃ t, exec (.paletteCodewordStore ring (p * 2 ^ 20 + pal * 2 ^ 6 + cw * 8) v) s = .next t ∧ StoreFrame s t ∧
          t.ports = s.ports ∧ (∀ q, q ≠ p → t.panel q = s.panel q) ∧ (t.panel p).dir = (s.panel p).dir ∧
          (t.panel p).mgmtAt = some (s.clk.cyc / 8) ∧ smFind (t.panel p).pal (pal * 8 + cw) = some (encW v) ∧
          ∀ i, i ≠ pal * 8 + cw → smFind (t.panel p).pal i = smFind (s.panel p).pal i)) ∧
      (∀ pal cw, pal < 4 * s.build.palSets → pal < 2 ^ 14 → cw < 5 →
        ((∃ p, p < s.build.panels ∧ s.panelFrozen p = false ∧ (s.panel p).mgmtAt = some (s.clk.cyc / 8)) →
          exec (.paletteCodewordStore ring (2 ^ 24 + pal * 2 ^ 6 + cw * 8) v) s = .next s) ∧
        ((∀ p, p < s.build.panels → s.panelFrozen p = false → (s.panel p).mgmtAt ≠ some (s.clk.cyc / 8)) →
        ∃ t, exec (.paletteCodewordStore ring (2 ^ 24 + pal * 2 ^ 6 + cw * 8) v) s = .next t ∧ StoreFrame s t ∧ t.ports = s.ports ∧
          ∀ p, p < s.build.panels → s.panelFrozen p = false → (t.panel p).dir = (s.panel p).dir ∧
            (t.panel p).mgmtAt = some (s.clk.cyc / 8) ∧ smFind (t.panel p).pal (pal * 8 + cw) = some (encW v) ∧
            ∀ i, i ≠ pal * 8 + cw → smFind (t.panel p).pal i = smFind (s.panel p).pal i)) ∧
      (∀ j, j < s.build.p → s.host.locks.getLsbD 0 = false →
        ∃ t, exec (.hashKeyWrite ring j v) s = .next t ∧ StoreFrame s t ∧ t.ports = s.ports ∧ t.panels = s.panels ∧ t.mps = s.mps ∧
          t.rgnRaw (32 + j) = encW (v &&& 0x3FFFFFFF00007FFF#64) ∧ ∀ i, i ≠ 32 + j → t.rgnRaw i = s.rgnRaw i)) ∧
  (∀ (ring : Nat) (v : BitVec 64) (s : State), s.live → ring < 8 → s.build.p ≤ 4 → s.host.locks.getLsbD 0 = false →
      (∀ i, i < 32 →
        ∃ t, exec (.regionMapWrite ring (8 * i) v) s = .next t ∧ StoreFrame s t ∧ t.ports = s.ports ∧ t.panels = s.panels ∧ t.mps = s.mps ∧
          (s.host.prof ≠ 0 → t.routers = s.routers) ∧
          t.rgnRaw i = encW (v &&& (if i % 2 = 0 then 0x800FFFFFFFFF0000#64 else 0x003F000F00FF3703#64)) ∧
          ∀ j, j ≠ i → t.rgnRaw j = s.rgnRaw j) ∧
      (∀ j, s.host.prof ≠ 0 → exec (.hashKeyWrite ring j v) s = .next s))

/-- R202, R205, R296, R497, R500, R505, R515: PS_PRIO, PS_HB, DL_LIM, counters and window registers take what a secure ring
stores in their writable bits; the events of the KCLK of a store to a counter count there no more, and a window that has ended in
the KCLK of a store to its maximum is compared with it; PRIO 0 is stored as 1, and a change into or out of 1 waits until every REQ of the port has had its response;
a store to a slot or panel that the build lacks is ignored (R357). -/
def Obligations.ControlRegisterStores : Prop :=
  ∀ (ring : Nat) (v : BitVec 64) (s : State), s.live → ring < 8 → s.build.p ≤ 4 →
    (∀ n, n < s.build.slots → n < 256 →
      let x := s.port n
      let w := if v.toNat % 4 = 0 then 1 else v.toNat % 4
      let idle := (∀ e ∈ x.reqs, e.resp = true) ∧ s.q (.leafUp n) cREQ = [] ∧ ∀ f ∈ x.upq, f.chan ≠ cREQ
      ∃ t, exec (.psPrioWrite ring n v) s = .next t ∧ StoreFrame s t ∧ SameHomes s t ∧ OtherPorts s t n ∧
        (w = x.prio → t.port n = { x with prioPend := none }) ∧
        (w ≠ x.prio → w ≠ 1 → x.prio ≠ 1 → t.port n = { x with prio := w, prioPend := none }) ∧
        (w ≠ x.prio → w = 1 ∨ x.prio = 1 → idle → t.port n = { x with prio := w, prioPend := none }) ∧
        (w ≠ x.prio → w = 1 ∨ x.prio = 1 → ¬ idle → t.port n = { x with prioPend := some w })) ∧
    (∀ n, n < s.build.slots → n < 256 →
      exec (.psHbWrite ring n v) s = .next (s.setPort n { s.port n with
        hbWin := v.setWidth 20, hbOld := some (s.clk.cyc / 8, BitVec.ofNat 20 ((s.port n).hbWinAt (s.clk.cyc / 8))) })) ∧
    (∀ n, s.build.slots ≤ n → exec (.psHbWrite ring n v) s = .next s ∧ exec (.psPrioWrite ring n v) s = .next s) ∧
    (∀ p g, s.build.panels ≤ p → exec (.dlLimWrite ring p g v) s = .next s) ∧
    (∀ p g, p < s.build.panels → g < 8 →
      ∃ t, exec (.dlLimWrite ring p g v) s = .next t ∧ StoreFrame s t ∧ SameHomes s t ∧ t.ports = s.ports ∧
        t.w6g (0x90000 + 0x1000 * p + 0x800 + 8 * g) = v &&& 0xFFFFF#64 ∧
        ∀ o, o ≠ 0x90000 + 0x1000 * p + 0x800 + 8 * g → t.w6g o = s.w6g o) ∧
    (∀ p i, p < s.build.panels → i < 8 →
      ∃ t, exec (.counterStore ring (0x100 * p + 0x80 + 8 * i) v) s = .next t ∧ StoreFrame s t ∧ SameHomes s t ∧ t.ports = s.ports ∧
        t.w4g (0x100 * p + 0x80 + 8 * i) = v &&& 0xFFFFFFFFFFFF#64 ∧
        (∀ o, o ≠ 0x100 * p + 0x80 + 8 * i → t.w4g o = s.w4g o) ∧ ∀ k, t.ctr4 (0x100 * p + 0x80 + 8 * i) k = t) ∧
    (∀ p, p < s.build.panels → exec (.counterStore ring (0x100 * p + 0x18) v) s = .next s) ∧
    (∀ n, n < s.build.slots → n < 256 →
      ∃ t, exec (.bwCtlWrite ring (0x1000 + 0x40 * n) v) s = .next t ∧ StoreFrame s t ∧ SameHomes s t ∧ OtherPorts s t n ∧
        t.port n = { s.port n with winUp := 0, winDn := 0 } ∧ t.w4g (0x1000 + 0x40 * n) = v &&& 0x3F#64 ∧
        ∀ o, o ≠ 0x1000 + 0x40 * n → t.w4g o = s.w4g o) ∧
    (∀ n, n < s.build.slots → n < 256 →
      let base := 0x1000 + 0x40 * n
      ∃ t, exec (.bwCtlWrite ring (base + 0x18) v) s = .next t ∧ StoreFrame s t ∧ SameHomes s t ∧ t.ports = s.ports ∧
        (∀ o, o ≠ base + 0x18 → t.w4g o = s.w4g o) ∧
        ((∀ k u d, smFind s.winLast base = some (k, u, d) → k ≠ s.clk.cyc / 8 + 1) →
          t.w4g (base + 0x18) = v &&& 0xFFFFFFFFFFFF#64) ∧
        ∀ u d, smFind s.winLast base = some (s.clk.cyc / 8 + 1, u, d) → u < 2 ^ 48 →
          (t.w4g (base + 0x18)).toNat = max (v.toNat % 2 ^ 48) u)

/-! ### The control port -/

/-- R529, R535, R538, R539: secure writes of page 0 with good parity. DRV_BOOT is written once; a doorbell sets TAIL and clears
RING_ERR; a ring's BASE and SIZE are written only while it is idle and, for rings 0 to 7, not locked; an interrupt status bit is
cleared by a 1, unless it was set in the same KCLK (R20). Each answers without an error. SIZE is judged on its low four bits, so that a write of 0x10 stores 0: the model's reading, log entry 38.
R529, R532, R534, R536: a read answers the register it names, with its parity; an access whose CP_REQ_PAR is not the odd parity of its
bytes is answered with an error and has no effect; a non-secure access of page 0 reads zero, is ignored, and is counted as a
violation. -/
def Obligations.ControlPortAccesses : Prop :=
  (∀ (v : BitVec 32) (s : State), s.live → s.clk.cpSvc = true →
      let ok (t : State) : Prop := SameBase s t ∧ SameTree s t ∧ SameHomes s t ∧ SameObs s t ∧ t.clk = s.clk ∧ t.ez = s.ez ∧
        t.ep = s.ep ∧ t.w6 = s.w6 ∧ t.host.prof = s.host.prof ∧ t.host.locks = s.host.locks ∧ t.outs = s.outs ++ [.cp false 0 0xF#4]
      let par (ns : Bool) (addr : Nat) : BitVec 5 := cpReqPar true ns addr v
      let ringReg (n o : Nat) : Nat := n / 8 * 4096 + 0x100 + 32 * (n % 8) + o
      (∃ t, exec (.drvBootWrite false (par false 0x40) v) s = .next t ∧ ok t ∧
        (s.host.bootEn = true → t.host = s.host) ∧
        (s.host.bootEn = false → t.host.bootEn = v.getLsbD 0 ∧ t.host.rings = s.host.rings ∧
          ((v.extractLsb' 4 3).toNat < s.build.memPorts → s.build.devMask.getLsbD (v.extractLsb' 4 3).toNat = false →
            t.host.bootPort = v.extractLsb' 4 3))) ∧
      (∀ n, n < 16 → ∃ t, exec (.drvRingTailWrite false (par false (ringReg n 12)) n v) s = .next t ∧ ok t ∧
        t.ring n = { s.ring n with tail := v.setWidth 16, err := false, tailK := some (s.clk.cyc / 8) } ∧ (∀ k, k ≠ n → t.ring k = s.ring k) ∧
        t.host.bootEn = s.host.bootEn) ∧
      (∀ n, n < 16 → 8 ≤ n ∨ s.host.locks.getLsbD 4 = false →
        (s.ctx n).running = false → (s.ctx n).wait = .idle → (s.ring n).tail = (s.ring n).head →
        (∃ t, exec (.drvRingBaseSizeWrite false (par false (ringReg n 0)) n 0 v) s = .next t ∧ ok t ∧ (∀ k, k ≠ n → t.ring k = s.ring k) ∧
          (t.ring n).base.toNat = (s.ring n).base.toNat / 2 ^ 32 * 2 ^ 32 + v.toNat / 64 * 64 ∧ (t.ring n).size = (s.ring n).size) ∧
        (∃ t, exec (.drvRingBaseSizeWrite false (par false (ringReg n 4)) n 1 v) s = .next t ∧ ok t ∧ (∀ k, k ≠ n → t.ring k = s.ring k) ∧
          (t.ring n).base.toNat = (s.ring n).base.toNat % 2 ^ 32 + v.toNat % 2 ^ 20 * 2 ^ 32) ∧
        (∃ t, exec (.drvRingBaseSizeWrite false (par false (ringReg n 8)) n 2 v) s = .next t ∧ ok t ∧ (∀ k, k ≠ n → t.ring k = s.ring k) ∧
          (t.ring n).base = (s.ring n).base ∧
          (t.ring n).size = (if v.toNat % 16 ≤ 12 then v.setWidth 4 else (s.ring n).size))) ∧
      (∀ n w, w < 3 → s.host.locks.getLsbD 4 = true →
        ∀ ns, n < 8 → exec (.drvRingBaseSizeWrite ns (par ns (ringReg n (4 * w))) n w v) s = .next (s.cpViolated.out (.cp false 0 0xF#4))) ∧
      (∀ n, n < 16 → 8 ≤ n ∨ s.host.locks.getLsbD 4 = false → ∀ w, w < 3 →
        (s.ctx n).running = true ∨ (s.ring n).tail ≠ (s.ring n).head →
        ∃ t, exec (.drvRingBaseSizeWrite false (par false (ringReg n (4 * w))) n w v) s = .next t ∧ ok t ∧ t.host = s.host) ∧
      (∃ t, exec (.drvIrqStatWrite false (par false 0x60) 0 v) s = .next t ∧ ok t ∧ t.host = { s.host with irqStatS := t.host.irqStatS } ∧
        ∀ i, i < 25 → t.host.irqStatS.getLsbD i = (s.host.irqStatS.getLsbD i && (!v.getLsbD i || s.justSet (kIrqS i)))) ∧
      (∀ ns, ∃ t, exec (.drvIrqStatWrite ns (par ns 0x1060) 1 v) s = .next t ∧ ok t ∧ t.host = { s.host with irqStatNs := t.host.irqStatNs } ∧
        ∀ i, i < 23 → t.host.irqStatNs.getLsbD i = (s.host.irqStatNs.getLsbD i && (!v.getLsbD i || s.justSet (kIrqNs i))))) ∧
  (∀ (a : CpAcc) (s : State), s.live → s.clk.cpSvc = true →
      let soundR : Prop := a.par = cpReqPar false a.ns a.addr 0
      let soundW : Prop := a.par = cpReqPar true a.ns a.addr a.wdata
      (¬ soundR → exec (.cpRegisterRead a) s = .next (s.out (.cp true 0 0xF#4))) ∧
      (¬ soundW → exec (.cpRegisterWrite a) s = .next (s.out (.cp true 0 0xF#4))) ∧
      (a.ns = true → a.addr / 4096 % 2 = 0 → ∀ c, (soundR ∧ c = .cpRegisterRead a) ∨ (soundW ∧ c = .cpRegisterWrite a) →
        exec c s = .next (s.cpViolated.out (.cp false 0 0xF#4))) ∧
      (soundR → a.ns = false → ∀ o v, (o, v) ∈ [(0x0, 0xD7E00301#32), (0x4C, s.host.bist), (0x54, s.host.timeFreq),
          (0x58, s.host.cpViol), (0x50, s.host.locks.setWidth 32), (0x60, s.host.irqStatS.setWidth 32),
          (0x64, s.host.irqMaskS.setWidth 32), (0x10C, (s.ring 0).tail.setWidth 32), (0x110, (s.ring 0).head.setWidth 32)] →
        a.addr = o → exec (.cpRegisterRead a) s = .next (s.out (.cp false v (linkPar v)))) ∧
      (soundW → a.ns = false → a.addr = 0x54 →
        exec (.cpRegisterWrite a) s = .next ({ s with host := { s.host with timeFreq := a.wdata } }.out (.cp false 0 0xF#4))) ∧
      (soundW → a.ns = false → a.addr = 0x64 →
        exec (.cpRegisterWrite a) s = .next ({ s with host := { s.host with irqMaskS := a.wdata.setWidth 25 } }.out (.cp false 0 0xF#4))))
end

