-- ==== Sys2Proof/Laws/Tables.lean ====
section
/-! SUPPORT. The laws of sparse tables: what reads back after a change, and that every change keeps the indices rising. -/

namespace Sys2Proof

variable {α : Type}

/-! ### Reading back -/

theorem smFind_smErase_self (m : SMap α) (i : Nat) : smFind (smErase m i) i = none := by
  induction m with
  | nil => rfl
  | cons e r ih =>
    obtain ⟨j, a⟩ := e
    by_cases h : j = i <;> simp_all [smErase, smFind]

theorem smFind_smErase_ne (m : SMap α) {i k : Nat} (h : k ≠ i) : smFind (smErase m i) k = smFind m k := by
  induction m with
  | nil => rfl
  | cons e r ih =>
    obtain ⟨j, a⟩ := e
    by_cases hj : j = i
    · subst hj
      have : ¬ j = k := fun e => h e.symm
      simp_all [smErase, smFind]
    · by_cases hk : j = k <;> simp_all [smErase, smFind]

theorem smFind_smIns_self (m : SMap α) (i : Nat) (a : α) (h : smFind m i = none) : smFind (smIns i a m) i = some a := by
  induction m with
  | nil => simp [smIns, smFind]
  | cons e r ih =>
    obtain ⟨j, b⟩ := e
    by_cases hj : j = i
    · simp [smFind, hj] at h
    · simp only [smFind, hj, if_false] at h
      by_cases hl : i < j
      · simp [smIns, hl, smFind]
      · simp [smIns, hl, smFind, hj, ih h]

theorem smFind_smIns_ne (m : SMap α) {i k : Nat} (a : α) (h : k ≠ i) : smFind (smIns i a m) k = smFind m k := by
  induction m with
  | nil => simp [smIns, smFind, Ne.symm h]
  | cons e r ih =>
    obtain ⟨j, b⟩ := e
    by_cases hl : i < j
    · simp [smIns, hl, smFind, Ne.symm h]
    · simp only [smIns, hl, if_false, smFind, ih]

/-- A table answers what was stored last at an index. -/
@[simp] theorem smFind_smSet_self (m : SMap α) (i : Nat) (a : α) : smFind (smSet m i a) i = some a :=
  smFind_smIns_self _ _ _ (smFind_smErase_self m i)

/-- A store leaves every other index alone. -/
theorem smFind_smSet_ne (m : SMap α) {i k : Nat} (a : α) (h : k ≠ i) : smFind (smSet m i a) k = smFind m k := by
  rw [smSet, smFind_smIns_ne _ _ h, smFind_smErase_ne _ h]

@[simp] theorem smGet_smSet_self (d : α) (m : SMap α) (i : Nat) (a : α) : smGet d (smSet m i a) i = a := by
  simp [smGet]

theorem smGet_smSet_ne (d : α) (m : SMap α) {i k : Nat} (a : α) (h : k ≠ i) : smGet d (smSet m i a) k = smGet d m k := by
  simp [smGet, smFind_smSet_ne m a h]

theorem smGet_smErase_self (d : α) (m : SMap α) (i : Nat) : smGet d (smErase m i) i = d := by
  simp [smGet, smFind_smErase_self]

theorem smGet_smErase_ne (d : α) (m : SMap α) {i k : Nat} (h : k ≠ i) : smGet d (smErase m i) k = smGet d m k := by
  simp [smGet, smFind_smErase_ne m h]

@[simp] theorem smGet_smPut_self [DecidableEq α] (d : α) (m : SMap α) (i : Nat) (a : α) : smGet d (smPut d m i a) i = a := by
  unfold smPut
  split
  · rename_i h; simp [smGet_smErase_self, h]
  · simp

theorem smGet_smPut_ne [DecidableEq α] (d e : α) (m : SMap α) {i k : Nat} (a : α) (h : k ≠ i) :
    smGet d (smPut e m i a) k = smGet d m k := by
  unfold smPut
  split
  · exact smGet_smErase_ne d m h
  · exact smGet_smSet_ne d m a h

@[simp] theorem smGet_smMod_self (d : α) (m : SMap α) (i : Nat) (f : α → α) : smGet d (smMod d m i f) i = f (smGet d m i) := by
  simp [smMod]

theorem smGet_smMod_ne (d e : α) (m : SMap α) {i k : Nat} (f : α → α) (h : k ≠ i) :
    smGet d (smMod e m i f) k = smGet d m k := smGet_smSet_ne d m _ h

/-- A change of every value by a function of it. -/
theorem smFind_map {β : Type} (m : SMap α) (f : α → β) (i : Nat) :
    smFind (m.map fun e => (e.1, f e.2)) i = (smFind m i).map f := by
  induction m with
  | nil => rfl
  | cons e r ih => obtain ⟨j, a⟩ := e; by_cases h : j = i <;> simp_all [smFind]

/-! ### The canonical form -/

/-- Every index of a table is above `i`. -/
def smAbove (i : Nat) (m : SMap α) : Prop := ∀ e ∈ m, i < e.1

/-- The two readings of the canonical form agree. -/
theorem smSorted_cons (i : Nat) (a : α) (m : SMap α) : smSorted ((i, a) :: m) = true ↔ smAbove i m ∧ smSorted m = true := by
  induction m generalizing i a with
  | nil => simp [smSorted, smAbove]
  | cons e r ih =>
    obtain ⟨j, b⟩ := e
    rw [smSorted, Bool.and_eq_true, decide_eq_true_eq, ih]
    constructor
    · rintro ⟨h, h1, h2⟩
      refine ⟨?_, h1, h2⟩
      intro e he
      rcases List.mem_cons.mp he with rfl | he
      · exact h
      · exact Nat.lt_trans h (h1 e he)
    · rintro ⟨h, h1, h2⟩
      exact ⟨h (j, b) (List.mem_cons_self ..), h1, h2⟩

theorem smSorted_nil : smSorted ([] : SMap α) = true := rfl

/-- Leaving entries out keeps the canonical form. -/
theorem smSorted_filter (m : SMap α) (p : Nat × α → Bool) (h : smSorted m = true) : smSorted (m.filter p) = true := by
  induction m with
  | nil => rfl
  | cons e r ih =>
    obtain ⟨i, a⟩ := e
    obtain ⟨h1, h2⟩ := (smSorted_cons i a r).mp h
    by_cases hp : p (i, a)
    · rw [List.filter_cons_of_pos hp]
      exact (smSorted_cons i a _).mpr ⟨fun e he => h1 e (List.mem_filter.mp he).1, ih h2⟩
    · rw [List.filter_cons_of_neg (by simpa using hp)]
      exact ih h2

theorem smSorted_smErase (m : SMap α) (i : Nat) (h : smSorted m = true) : smSorted (smErase m i) = true :=
  smSorted_filter m _ h

theorem mem_smIns (i : Nat) (a : α) (m : SMap α) (e : Nat × α) (h : e ∈ smIns i a m) : e = (i, a) ∨ e ∈ m := by
  induction m with
  | nil => simpa [smIns] using h
  | cons x r ih =>
    obtain ⟨j, b⟩ := x
    by_cases hl : i < j
    · simpa [smIns, hl] using h
    · simp only [smIns, hl, if_false, List.mem_cons] at h ⊢
      rcases h with h | h
      · exact .inr (.inl h)
      · rcases ih h with h | h
        · exact .inl h
        · exact .inr (.inr h)

theorem smSorted_smIns (i : Nat) (a : α) (m : SMap α) (h : smSorted m = true) (hi : ∀ e ∈ m, e.1 ≠ i) :
    smSorted (smIns i a m) = true := by
  induction m with
  | nil => rfl
  | cons x r ih =>
    obtain ⟨j, b⟩ := x
    obtain ⟨h1, h2⟩ := (smSorted_cons j b r).mp h
    by_cases hl : i < j
    · simp only [smIns, hl, if_true]
      refine (smSorted_cons i a _).mpr ⟨?_, h⟩
      intro e he
      rcases List.mem_cons.mp he with rfl | he
      · exact hl
      · exact Nat.lt_trans hl (h1 e he)
    · simp only [smIns, hl, if_false]
      have hj : j ≠ i := hi (j, b) (List.mem_cons_self ..)
      refine (smSorted_cons j b _).mpr ⟨?_, ih h2 fun e he => hi e (List.mem_cons_of_mem _ he)⟩
      intro e he
      rcases mem_smIns i a r e he with rfl | he
      · show j < i
        omega
      · exact h1 e he

/-- Every change of a table keeps the canonical form. -/
theorem smSorted_smSet (m : SMap α) (i : Nat) (a : α) (h : smSorted m = true) : smSorted (smSet m i a) = true :=
  smSorted_smIns i a _ (smSorted_smErase m i h) fun e he => by
    have := (List.mem_filter.mp he).2
    simpa using this

theorem smSorted_smPut [DecidableEq α] (d : α) (m : SMap α) (i : Nat) (a : α) (h : smSorted m = true) :
    smSorted (smPut d m i a) = true := by
  unfold smPut
  split
  · exact smSorted_smErase m i h
  · exact smSorted_smSet m i a h

theorem smSorted_smMod (d : α) (m : SMap α) (i : Nat) (f : α → α) (h : smSorted m = true) :
    smSorted (smMod d m i f) = true := smSorted_smSet m i _ h

theorem smSorted_map {β : Type} (m : SMap α) (f : α → β) (h : smSorted m = true) :
    smSorted (m.map fun e => (e.1, f e.2)) = true := by
  induction m with
  | nil => rfl
  | cons e r ih =>
    obtain ⟨i, a⟩ := e
    obtain ⟨h1, h2⟩ := (smSorted_cons i a r).mp h
    refine (smSorted_cons i (f a) _).mpr ⟨?_, ih h2⟩
    intro e he
    obtain ⟨x, hx, rfl⟩ := List.mem_map.mp he
    exact h1 x hx

end Sys2Proof
end

