-- ==== Sys2Proof/Laws/State.lean ====
section
/-! SUPPORT. What each plain update of the state leaves as it was, field by field, and what reads back after it. -/

namespace Sys2Proof.Machine

variable (s : State)

/-! ### setPort -/

@[simp] theorem State.setPort_pending (n : Nat) (x : Port) : (s.setPort n x).pending = s.pending := rfl
@[simp] theorem State.setPort_build (n : Nat) (x : Port) : (s.setPort n x).build = s.build := rfl
@[simp] theorem State.setPort_nonce (n : Nat) (x : Port) : (s.setPort n x).nonce = s.nonce := rfl
@[simp] theorem State.setPort_outs (n : Nat) (x : Port) : (s.setPort n x).outs = s.outs := rfl
@[simp] theorem State.setPort_clk (n : Nat) (x : Port) : (s.setPort n x).clk = s.clk := rfl
@[simp] theorem State.setPort_host (n : Nat) (x : Port) : (s.setPort n x).host = s.host := rfl
@[simp] theorem State.setPort_ez (n : Nat) (x : Port) : (s.setPort n x).ez = s.ez := rfl
@[simp] theorem State.setPort_rgn (n : Nat) (x : Port) : (s.setPort n x).rgn = s.rgn := rfl
@[simp] theorem State.setPort_routers (n : Nat) (x : Port) : (s.setPort n x).routers = s.routers := rfl
@[simp] theorem State.setPort_net (n : Nat) (x : Port) : (s.setPort n x).net = s.net := rfl
@[simp] theorem State.setPort_panels (n : Nat) (x : Port) : (s.setPort n x).panels = s.panels := rfl
@[simp] theorem State.setPort_mps (n : Nat) (x : Port) : (s.setPort n x).mps = s.mps := rfl
@[simp] theorem State.setPort_rs (n : Nat) (x : Port) : (s.setPort n x).rs = s.rs := rfl
@[simp] theorem State.setPort_ep (n : Nat) (x : Port) : (s.setPort n x).ep = s.ep := rfl
@[simp] theorem State.setPort_tr (n : Nat) (x : Port) : (s.setPort n x).tr = s.tr := rfl
@[simp] theorem State.setPort_w4 (n : Nat) (x : Port) : (s.setPort n x).w4 = s.w4 := rfl
@[simp] theorem State.setPort_w6 (n : Nat) (x : Port) : (s.setPort n x).w6 = s.w6 := rfl
@[simp] theorem State.setPort_hwSet (n : Nat) (x : Port) : (s.setPort n x).hwSet = s.hwSet := rfl
@[simp] theorem State.setPort_bkNote (n : Nat) (x : Port) : (s.setPort n x).bkNote = s.bkNote := rfl
@[simp] theorem State.setPort_st4 (n : Nat) (x : Port) : (s.setPort n x).st4 = s.st4 := rfl
@[simp] theorem State.setPort_evOld (n : Nat) (x : Port) : (s.setPort n x).evOld = s.evOld := rfl
@[simp] theorem State.setPort_winLast (n : Nat) (x : Port) : (s.setPort n x).winLast = s.winLast := rfl

/-! ### modPort -/

@[simp] theorem State.modPort_pending (n : Nat) (f : Port → Port) : (s.modPort n f).pending = s.pending := rfl
@[simp] theorem State.modPort_build (n : Nat) (f : Port → Port) : (s.modPort n f).build = s.build := rfl
@[simp] theorem State.modPort_nonce (n : Nat) (f : Port → Port) : (s.modPort n f).nonce = s.nonce := rfl
@[simp] theorem State.modPort_outs (n : Nat) (f : Port → Port) : (s.modPort n f).outs = s.outs := rfl
@[simp] theorem State.modPort_clk (n : Nat) (f : Port → Port) : (s.modPort n f).clk = s.clk := rfl
@[simp] theorem State.modPort_host (n : Nat) (f : Port → Port) : (s.modPort n f).host = s.host := rfl
@[simp] theorem State.modPort_ez (n : Nat) (f : Port → Port) : (s.modPort n f).ez = s.ez := rfl
@[simp] theorem State.modPort_rgn (n : Nat) (f : Port → Port) : (s.modPort n f).rgn = s.rgn := rfl
@[simp] theorem State.modPort_routers (n : Nat) (f : Port → Port) : (s.modPort n f).routers = s.routers := rfl
@[simp] theorem State.modPort_net (n : Nat) (f : Port → Port) : (s.modPort n f).net = s.net := rfl
@[simp] theorem State.modPort_panels (n : Nat) (f : Port → Port) : (s.modPort n f).panels = s.panels := rfl
@[simp] theorem State.modPort_mps (n : Nat) (f : Port → Port) : (s.modPort n f).mps = s.mps := rfl
@[simp] theorem State.modPort_rs (n : Nat) (f : Port → Port) : (s.modPort n f).rs = s.rs := rfl
@[simp] theorem State.modPort_ep (n : Nat) (f : Port → Port) : (s.modPort n f).ep = s.ep := rfl
@[simp] theorem State.modPort_tr (n : Nat) (f : Port → Port) : (s.modPort n f).tr = s.tr := rfl
@[simp] theorem State.modPort_w4 (n : Nat) (f : Port → Port) : (s.modPort n f).w4 = s.w4 := rfl
@[simp] theorem State.modPort_w6 (n : Nat) (f : Port → Port) : (s.modPort n f).w6 = s.w6 := rfl
@[simp] theorem State.modPort_hwSet (n : Nat) (f : Port → Port) : (s.modPort n f).hwSet = s.hwSet := rfl
@[simp] theorem State.modPort_bkNote (n : Nat) (f : Port → Port) : (s.modPort n f).bkNote = s.bkNote := rfl
@[simp] theorem State.modPort_st4 (n : Nat) (f : Port → Port) : (s.modPort n f).st4 = s.st4 := rfl
@[simp] theorem State.modPort_evOld (n : Nat) (f : Port → Port) : (s.modPort n f).evOld = s.evOld := rfl
@[simp] theorem State.modPort_winLast (n : Nat) (f : Port → Port) : (s.modPort n f).winLast = s.winLast := rfl

/-! ### modRouter -/

@[simp] theorem State.modRouter_pending (r : Nat) (f : Router → Router) : (s.modRouter r f).pending = s.pending := rfl
@[simp] theorem State.modRouter_build (r : Nat) (f : Router → Router) : (s.modRouter r f).build = s.build := rfl
@[simp] theorem State.modRouter_nonce (r : Nat) (f : Router → Router) : (s.modRouter r f).nonce = s.nonce := rfl
@[simp] theorem State.modRouter_outs (r : Nat) (f : Router → Router) : (s.modRouter r f).outs = s.outs := rfl
@[simp] theorem State.modRouter_clk (r : Nat) (f : Router → Router) : (s.modRouter r f).clk = s.clk := rfl
@[simp] theorem State.modRouter_host (r : Nat) (f : Router → Router) : (s.modRouter r f).host = s.host := rfl
@[simp] theorem State.modRouter_ez (r : Nat) (f : Router → Router) : (s.modRouter r f).ez = s.ez := rfl
@[simp] theorem State.modRouter_rgn (r : Nat) (f : Router → Router) : (s.modRouter r f).rgn = s.rgn := rfl
@[simp] theorem State.modRouter_ports (r : Nat) (f : Router → Router) : (s.modRouter r f).ports = s.ports := rfl
@[simp] theorem State.modRouter_net (r : Nat) (f : Router → Router) : (s.modRouter r f).net = s.net := rfl
@[simp] theorem State.modRouter_panels (r : Nat) (f : Router → Router) : (s.modRouter r f).panels = s.panels := rfl
@[simp] theorem State.modRouter_mps (r : Nat) (f : Router → Router) : (s.modRouter r f).mps = s.mps := rfl
@[simp] theorem State.modRouter_rs (r : Nat) (f : Router → Router) : (s.modRouter r f).rs = s.rs := rfl
@[simp] theorem State.modRouter_ep (r : Nat) (f : Router → Router) : (s.modRouter r f).ep = s.ep := rfl
@[simp] theorem State.modRouter_tr (r : Nat) (f : Router → Router) : (s.modRouter r f).tr = s.tr := rfl
@[simp] theorem State.modRouter_w4 (r : Nat) (f : Router → Router) : (s.modRouter r f).w4 = s.w4 := rfl
@[simp] theorem State.modRouter_w6 (r : Nat) (f : Router → Router) : (s.modRouter r f).w6 = s.w6 := rfl
@[simp] theorem State.modRouter_hwSet (r : Nat) (f : Router → Router) : (s.modRouter r f).hwSet = s.hwSet := rfl
@[simp] theorem State.modRouter_bkNote (r : Nat) (f : Router → Router) : (s.modRouter r f).bkNote = s.bkNote := rfl
@[simp] theorem State.modRouter_st4 (r : Nat) (f : Router → Router) : (s.modRouter r f).st4 = s.st4 := rfl
@[simp] theorem State.modRouter_evOld (r : Nat) (f : Router → Router) : (s.modRouter r f).evOld = s.evOld := rfl
@[simp] theorem State.modRouter_winLast (r : Nat) (f : Router → Router) : (s.modRouter r f).winLast = s.winLast := rfl

/-! ### modPanel -/

@[simp] theorem State.modPanel_pending (p : Nat) (f : Panel → Panel) : (s.modPanel p f).pending = s.pending := rfl
@[simp] theorem State.modPanel_build (p : Nat) (f : Panel → Panel) : (s.modPanel p f).build = s.build := rfl
@[simp] theorem State.modPanel_nonce (p : Nat) (f : Panel → Panel) : (s.modPanel p f).nonce = s.nonce := rfl
@[simp] theorem State.modPanel_outs (p : Nat) (f : Panel → Panel) : (s.modPanel p f).outs = s.outs := rfl
@[simp] theorem State.modPanel_clk (p : Nat) (f : Panel → Panel) : (s.modPanel p f).clk = s.clk := rfl
@[simp] theorem State.modPanel_host (p : Nat) (f : Panel → Panel) : (s.modPanel p f).host = s.host := rfl
@[simp] theorem State.modPanel_ez (p : Nat) (f : Panel → Panel) : (s.modPanel p f).ez = s.ez := rfl
@[simp] theorem State.modPanel_rgn (p : Nat) (f : Panel → Panel) : (s.modPanel p f).rgn = s.rgn := rfl
@[simp] theorem State.modPanel_ports (p : Nat) (f : Panel → Panel) : (s.modPanel p f).ports = s.ports := rfl
@[simp] theorem State.modPanel_routers (p : Nat) (f : Panel → Panel) : (s.modPanel p f).routers = s.routers := rfl
@[simp] theorem State.modPanel_net (p : Nat) (f : Panel → Panel) : (s.modPanel p f).net = s.net := rfl
@[simp] theorem State.modPanel_mps (p : Nat) (f : Panel → Panel) : (s.modPanel p f).mps = s.mps := rfl
@[simp] theorem State.modPanel_rs (p : Nat) (f : Panel → Panel) : (s.modPanel p f).rs = s.rs := rfl
@[simp] theorem State.modPanel_ep (p : Nat) (f : Panel → Panel) : (s.modPanel p f).ep = s.ep := rfl
@[simp] theorem State.modPanel_tr (p : Nat) (f : Panel → Panel) : (s.modPanel p f).tr = s.tr := rfl
@[simp] theorem State.modPanel_w4 (p : Nat) (f : Panel → Panel) : (s.modPanel p f).w4 = s.w4 := rfl
@[simp] theorem State.modPanel_w6 (p : Nat) (f : Panel → Panel) : (s.modPanel p f).w6 = s.w6 := rfl
@[simp] theorem State.modPanel_hwSet (p : Nat) (f : Panel → Panel) : (s.modPanel p f).hwSet = s.hwSet := rfl
@[simp] theorem State.modPanel_bkNote (p : Nat) (f : Panel → Panel) : (s.modPanel p f).bkNote = s.bkNote := rfl
@[simp] theorem State.modPanel_st4 (p : Nat) (f : Panel → Panel) : (s.modPanel p f).st4 = s.st4 := rfl
@[simp] theorem State.modPanel_evOld (p : Nat) (f : Panel → Panel) : (s.modPanel p f).evOld = s.evOld := rfl
@[simp] theorem State.modPanel_winLast (p : Nat) (f : Panel → Panel) : (s.modPanel p f).winLast = s.winLast := rfl

/-! ### modMp -/

@[simp] theorem State.modMp_pending (m : Nat) (f : MemPort → MemPort) : (s.modMp m f).pending = s.pending := rfl
@[simp] theorem State.modMp_build (m : Nat) (f : MemPort → MemPort) : (s.modMp m f).build = s.build := rfl
@[simp] theorem State.modMp_nonce (m : Nat) (f : MemPort → MemPort) : (s.modMp m f).nonce = s.nonce := rfl
@[simp] theorem State.modMp_outs (m : Nat) (f : MemPort → MemPort) : (s.modMp m f).outs = s.outs := rfl
@[simp] theorem State.modMp_clk (m : Nat) (f : MemPort → MemPort) : (s.modMp m f).clk = s.clk := rfl
@[simp] theorem State.modMp_host (m : Nat) (f : MemPort → MemPort) : (s.modMp m f).host = s.host := rfl
@[simp] theorem State.modMp_ez (m : Nat) (f : MemPort → MemPort) : (s.modMp m f).ez = s.ez := rfl
@[simp] theorem State.modMp_rgn (m : Nat) (f : MemPort → MemPort) : (s.modMp m f).rgn = s.rgn := rfl
@[simp] theorem State.modMp_ports (m : Nat) (f : MemPort → MemPort) : (s.modMp m f).ports = s.ports := rfl
@[simp] theorem State.modMp_routers (m : Nat) (f : MemPort → MemPort) : (s.modMp m f).routers = s.routers := rfl
@[simp] theorem State.modMp_net (m : Nat) (f : MemPort → MemPort) : (s.modMp m f).net = s.net := rfl
@[simp] theorem State.modMp_panels (m : Nat) (f : MemPort → MemPort) : (s.modMp m f).panels = s.panels := rfl
@[simp] theorem State.modMp_rs (m : Nat) (f : MemPort → MemPort) : (s.modMp m f).rs = s.rs := rfl
@[simp] theorem State.modMp_ep (m : Nat) (f : MemPort → MemPort) : (s.modMp m f).ep = s.ep := rfl
@[simp] theorem State.modMp_tr (m : Nat) (f : MemPort → MemPort) : (s.modMp m f).tr = s.tr := rfl
@[simp] theorem State.modMp_w4 (m : Nat) (f : MemPort → MemPort) : (s.modMp m f).w4 = s.w4 := rfl
@[simp] theorem State.modMp_w6 (m : Nat) (f : MemPort → MemPort) : (s.modMp m f).w6 = s.w6 := rfl
@[simp] theorem State.modMp_hwSet (m : Nat) (f : MemPort → MemPort) : (s.modMp m f).hwSet = s.hwSet := rfl
@[simp] theorem State.modMp_bkNote (m : Nat) (f : MemPort → MemPort) : (s.modMp m f).bkNote = s.bkNote := rfl
@[simp] theorem State.modMp_st4 (m : Nat) (f : MemPort → MemPort) : (s.modMp m f).st4 = s.st4 := rfl
@[simp] theorem State.modMp_evOld (m : Nat) (f : MemPort → MemPort) : (s.modMp m f).evOld = s.evOld := rfl
@[simp] theorem State.modMp_winLast (m : Nat) (f : MemPort → MemPort) : (s.modMp m f).winLast = s.winLast := rfl

/-! ### modRing -/

@[simp] theorem State.modRing_pending (n : Nat) (f : Ring → Ring) : (s.modRing n f).pending = s.pending := rfl
@[simp] theorem State.modRing_build (n : Nat) (f : Ring → Ring) : (s.modRing n f).build = s.build := rfl
@[simp] theorem State.modRing_nonce (n : Nat) (f : Ring → Ring) : (s.modRing n f).nonce = s.nonce := rfl
@[simp] theorem State.modRing_outs (n : Nat) (f : Ring → Ring) : (s.modRing n f).outs = s.outs := rfl
@[simp] theorem State.modRing_clk (n : Nat) (f : Ring → Ring) : (s.modRing n f).clk = s.clk := rfl
@[simp] theorem State.modRing_ez (n : Nat) (f : Ring → Ring) : (s.modRing n f).ez = s.ez := rfl
@[simp] theorem State.modRing_rgn (n : Nat) (f : Ring → Ring) : (s.modRing n f).rgn = s.rgn := rfl
@[simp] theorem State.modRing_ports (n : Nat) (f : Ring → Ring) : (s.modRing n f).ports = s.ports := rfl
@[simp] theorem State.modRing_routers (n : Nat) (f : Ring → Ring) : (s.modRing n f).routers = s.routers := rfl
@[simp] theorem State.modRing_net (n : Nat) (f : Ring → Ring) : (s.modRing n f).net = s.net := rfl
@[simp] theorem State.modRing_panels (n : Nat) (f : Ring → Ring) : (s.modRing n f).panels = s.panels := rfl
@[simp] theorem State.modRing_mps (n : Nat) (f : Ring → Ring) : (s.modRing n f).mps = s.mps := rfl
@[simp] theorem State.modRing_rs (n : Nat) (f : Ring → Ring) : (s.modRing n f).rs = s.rs := rfl
@[simp] theorem State.modRing_ep (n : Nat) (f : Ring → Ring) : (s.modRing n f).ep = s.ep := rfl
@[simp] theorem State.modRing_tr (n : Nat) (f : Ring → Ring) : (s.modRing n f).tr = s.tr := rfl
@[simp] theorem State.modRing_w4 (n : Nat) (f : Ring → Ring) : (s.modRing n f).w4 = s.w4 := rfl
@[simp] theorem State.modRing_w6 (n : Nat) (f : Ring → Ring) : (s.modRing n f).w6 = s.w6 := rfl
@[simp] theorem State.modRing_hwSet (n : Nat) (f : Ring → Ring) : (s.modRing n f).hwSet = s.hwSet := rfl
@[simp] theorem State.modRing_bkNote (n : Nat) (f : Ring → Ring) : (s.modRing n f).bkNote = s.bkNote := rfl
@[simp] theorem State.modRing_st4 (n : Nat) (f : Ring → Ring) : (s.modRing n f).st4 = s.st4 := rfl
@[simp] theorem State.modRing_evOld (n : Nat) (f : Ring → Ring) : (s.modRing n f).evOld = s.evOld := rfl
@[simp] theorem State.modRing_winLast (n : Nat) (f : Ring → Ring) : (s.modRing n f).winLast = s.winLast := rfl
@[simp] theorem State.modRing_host_bootPort (n : Nat) (f : Ring → Ring) : (s.modRing n f).host.bootPort = s.host.bootPort := rfl
@[simp] theorem State.modRing_host_bootEn (n : Nat) (f : Ring → Ring) : (s.modRing n f).host.bootEn = s.host.bootEn := rfl
@[simp] theorem State.modRing_host_prof (n : Nat) (f : Ring → Ring) : (s.modRing n f).host.prof = s.host.prof := rfl
@[simp] theorem State.modRing_host_warnSeen (n : Nat) (f : Ring → Ring) : (s.modRing n f).host.warnSeen = s.host.warnSeen := rfl
@[simp] theorem State.modRing_host_bist (n : Nat) (f : Ring → Ring) : (s.modRing n f).host.bist = s.host.bist := rfl
@[simp] theorem State.modRing_host_locks (n : Nat) (f : Ring → Ring) : (s.modRing n f).host.locks = s.host.locks := rfl
@[simp] theorem State.modRing_host_timeFreq (n : Nat) (f : Ring → Ring) : (s.modRing n f).host.timeFreq = s.host.timeFreq := rfl
@[simp] theorem State.modRing_host_cpViol (n : Nat) (f : Ring → Ring) : (s.modRing n f).host.cpViol = s.host.cpViol := rfl
@[simp] theorem State.modRing_host_irqStatS (n : Nat) (f : Ring → Ring) : (s.modRing n f).host.irqStatS = s.host.irqStatS := rfl
@[simp] theorem State.modRing_host_irqMaskS (n : Nat) (f : Ring → Ring) : (s.modRing n f).host.irqMaskS = s.host.irqMaskS := rfl
@[simp] theorem State.modRing_host_irqStatNs (n : Nat) (f : Ring → Ring) : (s.modRing n f).host.irqStatNs = s.host.irqStatNs := rfl
@[simp] theorem State.modRing_host_irqMaskNs (n : Nat) (f : Ring → Ring) : (s.modRing n f).host.irqMaskNs = s.host.irqMaskNs := rfl

/-! ### modCtx -/

@[simp] theorem State.modCtx_pending (n : Nat) (f : Ctx → Ctx) : (s.modCtx n f).pending = s.pending := rfl
@[simp] theorem State.modCtx_build (n : Nat) (f : Ctx → Ctx) : (s.modCtx n f).build = s.build := rfl
@[simp] theorem State.modCtx_nonce (n : Nat) (f : Ctx → Ctx) : (s.modCtx n f).nonce = s.nonce := rfl
@[simp] theorem State.modCtx_outs (n : Nat) (f : Ctx → Ctx) : (s.modCtx n f).outs = s.outs := rfl
@[simp] theorem State.modCtx_clk (n : Nat) (f : Ctx → Ctx) : (s.modCtx n f).clk = s.clk := rfl
@[simp] theorem State.modCtx_host (n : Nat) (f : Ctx → Ctx) : (s.modCtx n f).host = s.host := rfl
@[simp] theorem State.modCtx_rgn (n : Nat) (f : Ctx → Ctx) : (s.modCtx n f).rgn = s.rgn := rfl
@[simp] theorem State.modCtx_ports (n : Nat) (f : Ctx → Ctx) : (s.modCtx n f).ports = s.ports := rfl
@[simp] theorem State.modCtx_routers (n : Nat) (f : Ctx → Ctx) : (s.modCtx n f).routers = s.routers := rfl
@[simp] theorem State.modCtx_net (n : Nat) (f : Ctx → Ctx) : (s.modCtx n f).net = s.net := rfl
@[simp] theorem State.modCtx_panels (n : Nat) (f : Ctx → Ctx) : (s.modCtx n f).panels = s.panels := rfl
@[simp] theorem State.modCtx_mps (n : Nat) (f : Ctx → Ctx) : (s.modCtx n f).mps = s.mps := rfl
@[simp] theorem State.modCtx_rs (n : Nat) (f : Ctx → Ctx) : (s.modCtx n f).rs = s.rs := rfl
@[simp] theorem State.modCtx_ep (n : Nat) (f : Ctx → Ctx) : (s.modCtx n f).ep = s.ep := rfl
@[simp] theorem State.modCtx_tr (n : Nat) (f : Ctx → Ctx) : (s.modCtx n f).tr = s.tr := rfl
@[simp] theorem State.modCtx_w4 (n : Nat) (f : Ctx → Ctx) : (s.modCtx n f).w4 = s.w4 := rfl
@[simp] theorem State.modCtx_w6 (n : Nat) (f : Ctx → Ctx) : (s.modCtx n f).w6 = s.w6 := rfl
@[simp] theorem State.modCtx_hwSet (n : Nat) (f : Ctx → Ctx) : (s.modCtx n f).hwSet = s.hwSet := rfl
@[simp] theorem State.modCtx_bkNote (n : Nat) (f : Ctx → Ctx) : (s.modCtx n f).bkNote = s.bkNote := rfl
@[simp] theorem State.modCtx_st4 (n : Nat) (f : Ctx → Ctx) : (s.modCtx n f).st4 = s.st4 := rfl
@[simp] theorem State.modCtx_evOld (n : Nat) (f : Ctx → Ctx) : (s.modCtx n f).evOld = s.evOld := rfl
@[simp] theorem State.modCtx_winLast (n : Nat) (f : Ctx → Ctx) : (s.modCtx n f).winLast = s.winLast := rfl
@[simp] theorem State.modCtx_ez_events (n : Nat) (f : Ctx → Ctx) : (s.modCtx n f).ez.events = s.ez.events := rfl
@[simp] theorem State.modCtx_ez_loc (n : Nat) (f : Ctx → Ctx) : (s.modCtx n f).ez.loc = s.ez.loc := rfl
@[simp] theorem State.modCtx_ez_ops (n : Nat) (f : Ctx → Ctx) : (s.modCtx n f).ez.ops = s.ez.ops := rfl
@[simp] theorem State.modCtx_ez_opSeq (n : Nat) (f : Ctx → Ctx) : (s.modCtx n f).ez.opSeq = s.ez.opSeq := rfl
@[simp] theorem State.modCtx_ez_memOut (n : Nat) (f : Ctx → Ctx) : (s.modCtx n f).ez.memOut = s.ez.memOut := rfl
@[simp] theorem State.modCtx_ez_everRegion (n : Nat) (f : Ctx → Ctx) : (s.modCtx n f).ez.everRegion = s.ez.everRegion := rfl
@[simp] theorem State.modCtx_ez_last (n : Nat) (f : Ctx → Ctx) : (s.modCtx n f).ez.last = s.ez.last := rfl
@[simp] theorem State.modCtx_ez_tswap (n : Nat) (f : Ctx → Ctx) : (s.modCtx n f).ez.tswap = s.ez.tswap := rfl
@[simp] theorem State.modCtx_ez_asks (n : Nat) (f : Ctx → Ctx) : (s.modCtx n f).ez.asks = s.ez.asks := rfl

/-! ### modBr -/

@[simp] theorem State.modBr_pending (b : Nat) (f : Br → Br) : (s.modBr b f).pending = s.pending := rfl
@[simp] theorem State.modBr_build (b : Nat) (f : Br → Br) : (s.modBr b f).build = s.build := rfl
@[simp] theorem State.modBr_nonce (b : Nat) (f : Br → Br) : (s.modBr b f).nonce = s.nonce := rfl
@[simp] theorem State.modBr_outs (b : Nat) (f : Br → Br) : (s.modBr b f).outs = s.outs := rfl
@[simp] theorem State.modBr_clk (b : Nat) (f : Br → Br) : (s.modBr b f).clk = s.clk := rfl
@[simp] theorem State.modBr_host (b : Nat) (f : Br → Br) : (s.modBr b f).host = s.host := rfl
@[simp] theorem State.modBr_ez (b : Nat) (f : Br → Br) : (s.modBr b f).ez = s.ez := rfl
@[simp] theorem State.modBr_rgn (b : Nat) (f : Br → Br) : (s.modBr b f).rgn = s.rgn := rfl
@[simp] theorem State.modBr_ports (b : Nat) (f : Br → Br) : (s.modBr b f).ports = s.ports := rfl
@[simp] theorem State.modBr_routers (b : Nat) (f : Br → Br) : (s.modBr b f).routers = s.routers := rfl
@[simp] theorem State.modBr_panels (b : Nat) (f : Br → Br) : (s.modBr b f).panels = s.panels := rfl
@[simp] theorem State.modBr_mps (b : Nat) (f : Br → Br) : (s.modBr b f).mps = s.mps := rfl
@[simp] theorem State.modBr_rs (b : Nat) (f : Br → Br) : (s.modBr b f).rs = s.rs := rfl
@[simp] theorem State.modBr_ep (b : Nat) (f : Br → Br) : (s.modBr b f).ep = s.ep := rfl
@[simp] theorem State.modBr_tr (b : Nat) (f : Br → Br) : (s.modBr b f).tr = s.tr := rfl
@[simp] theorem State.modBr_w4 (b : Nat) (f : Br → Br) : (s.modBr b f).w4 = s.w4 := rfl
@[simp] theorem State.modBr_w6 (b : Nat) (f : Br → Br) : (s.modBr b f).w6 = s.w6 := rfl
@[simp] theorem State.modBr_hwSet (b : Nat) (f : Br → Br) : (s.modBr b f).hwSet = s.hwSet := rfl
@[simp] theorem State.modBr_bkNote (b : Nat) (f : Br → Br) : (s.modBr b f).bkNote = s.bkNote := rfl
@[simp] theorem State.modBr_st4 (b : Nat) (f : Br → Br) : (s.modBr b f).st4 = s.st4 := rfl
@[simp] theorem State.modBr_evOld (b : Nat) (f : Br → Br) : (s.modBr b f).evOld = s.evOld := rfl
@[simp] theorem State.modBr_winLast (b : Nat) (f : Br → Br) : (s.modBr b f).winLast = s.winLast := rfl
@[simp] theorem State.modBr_net_qs (b : Nat) (f : Br → Br) : (s.modBr b f).net.qs = s.net.qs := rfl
@[simp] theorem State.modBr_net_owed (b : Nat) (f : Br → Br) : (s.modBr b f).net.owed = s.net.owed := rfl
@[simp] theorem State.modBr_net_ebars (b : Nat) (f : Br → Br) : (s.modBr b f).net.ebars = s.net.ebars := rfl
@[simp] theorem State.modBr_net_dbl (b : Nat) (f : Br → Br) : (s.modBr b f).net.dbl = s.net.dbl := rfl
@[simp] theorem State.modBr_net_ezMgt (b : Nat) (f : Br → Br) : (s.modBr b f).net.ezMgt = s.net.ezMgt := rfl
@[simp] theorem State.modBr_net_rsMgt (b : Nat) (f : Br → Br) : (s.modBr b f).net.rsMgt = s.net.rsMgt := rfl

/-! ### A block in service -/

theorem Clk.shut_of_open (x : Clk) (h : x.inReset = false) (h' : x.cellsOpen = true) : x.shut = false := by simp [Clk.shut, h, h']
theorem State.whenLive_of_open (f : State → State) (h : s.clk.inReset = false) (h' : s.clk.cellsOpen = true) : s.whenLive f = f s := by
  simp [State.whenLive, Clk.shut_of_open _ h h']

/-! ### out -/

@[simp] theorem State.out_pending (o : Out) : (s.out o).pending = s.pending := rfl
@[simp] theorem State.out_build (o : Out) : (s.out o).build = s.build := rfl
@[simp] theorem State.out_nonce (o : Out) : (s.out o).nonce = s.nonce := rfl
@[simp] theorem State.out_clk (o : Out) : (s.out o).clk = s.clk := rfl
@[simp] theorem State.out_host (o : Out) : (s.out o).host = s.host := rfl
@[simp] theorem State.out_ez (o : Out) : (s.out o).ez = s.ez := rfl
@[simp] theorem State.out_rgn (o : Out) : (s.out o).rgn = s.rgn := rfl
@[simp] theorem State.out_ports (o : Out) : (s.out o).ports = s.ports := rfl
@[simp] theorem State.out_routers (o : Out) : (s.out o).routers = s.routers := rfl
@[simp] theorem State.out_net (o : Out) : (s.out o).net = s.net := rfl
@[simp] theorem State.out_panels (o : Out) : (s.out o).panels = s.panels := rfl
@[simp] theorem State.out_mps (o : Out) : (s.out o).mps = s.mps := rfl
@[simp] theorem State.out_rs (o : Out) : (s.out o).rs = s.rs := rfl
@[simp] theorem State.out_ep (o : Out) : (s.out o).ep = s.ep := rfl
@[simp] theorem State.out_tr (o : Out) : (s.out o).tr = s.tr := rfl
@[simp] theorem State.out_w4 (o : Out) : (s.out o).w4 = s.w4 := rfl
@[simp] theorem State.out_w6 (o : Out) : (s.out o).w6 = s.w6 := rfl
@[simp] theorem State.out_hwSet (o : Out) : (s.out o).hwSet = s.hwSet := rfl
@[simp] theorem State.out_bkNote (o : Out) : (s.out o).bkNote = s.bkNote := rfl
@[simp] theorem State.out_st4 (o : Out) : (s.out o).st4 = s.st4 := rfl
@[simp] theorem State.out_evOld (o : Out) : (s.out o).evOld = s.evOld := rfl
@[simp] theorem State.out_winLast (o : Out) : (s.out o).winLast = s.winLast := rfl
theorem State.out_outs_open (o : Out) (h : s.clk.cellsOpen = true) : (s.out o).outs = s.outs ++ [o] := by simp [State.out, h]

/-! ### w6s -/

@[simp] theorem State.w6s_pending (off : Nat) (v : BitVec 64) : (s.w6s off v).pending = s.pending := rfl
@[simp] theorem State.w6s_build (off : Nat) (v : BitVec 64) : (s.w6s off v).build = s.build := rfl
@[simp] theorem State.w6s_nonce (off : Nat) (v : BitVec 64) : (s.w6s off v).nonce = s.nonce := rfl
@[simp] theorem State.w6s_outs (off : Nat) (v : BitVec 64) : (s.w6s off v).outs = s.outs := rfl
@[simp] theorem State.w6s_clk (off : Nat) (v : BitVec 64) : (s.w6s off v).clk = s.clk := rfl
@[simp] theorem State.w6s_host (off : Nat) (v : BitVec 64) : (s.w6s off v).host = s.host := rfl
@[simp] theorem State.w6s_ez (off : Nat) (v : BitVec 64) : (s.w6s off v).ez = s.ez := rfl
@[simp] theorem State.w6s_rgn (off : Nat) (v : BitVec 64) : (s.w6s off v).rgn = s.rgn := rfl
@[simp] theorem State.w6s_ports (off : Nat) (v : BitVec 64) : (s.w6s off v).ports = s.ports := rfl
@[simp] theorem State.w6s_routers (off : Nat) (v : BitVec 64) : (s.w6s off v).routers = s.routers := rfl
@[simp] theorem State.w6s_net (off : Nat) (v : BitVec 64) : (s.w6s off v).net = s.net := rfl
@[simp] theorem State.w6s_panels (off : Nat) (v : BitVec 64) : (s.w6s off v).panels = s.panels := rfl
@[simp] theorem State.w6s_mps (off : Nat) (v : BitVec 64) : (s.w6s off v).mps = s.mps := rfl
@[simp] theorem State.w6s_rs (off : Nat) (v : BitVec 64) : (s.w6s off v).rs = s.rs := rfl
@[simp] theorem State.w6s_ep (off : Nat) (v : BitVec 64) : (s.w6s off v).ep = s.ep := rfl
@[simp] theorem State.w6s_tr (off : Nat) (v : BitVec 64) : (s.w6s off v).tr = s.tr := rfl
@[simp] theorem State.w6s_w4 (off : Nat) (v : BitVec 64) : (s.w6s off v).w4 = s.w4 := rfl
@[simp] theorem State.w6s_hwSet (off : Nat) (v : BitVec 64) : (s.w6s off v).hwSet = s.hwSet := rfl
@[simp] theorem State.w6s_bkNote (off : Nat) (v : BitVec 64) : (s.w6s off v).bkNote = s.bkNote := rfl
@[simp] theorem State.w6s_st4 (off : Nat) (v : BitVec 64) : (s.w6s off v).st4 = s.st4 := rfl
@[simp] theorem State.w6s_evOld (off : Nat) (v : BitVec 64) : (s.w6s off v).evOld = s.evOld := rfl
@[simp] theorem State.w6s_winLast (off : Nat) (v : BitVec 64) : (s.w6s off v).winLast = s.winLast := rfl

/-! ### w4s -/

@[simp] theorem State.w4s_pending (off : Nat) (v : BitVec 64) : (s.w4s off v).pending = s.pending := rfl
@[simp] theorem State.w4s_build (off : Nat) (v : BitVec 64) : (s.w4s off v).build = s.build := rfl
@[simp] theorem State.w4s_nonce (off : Nat) (v : BitVec 64) : (s.w4s off v).nonce = s.nonce := rfl
@[simp] theorem State.w4s_outs (off : Nat) (v : BitVec 64) : (s.w4s off v).outs = s.outs := rfl
@[simp] theorem State.w4s_clk (off : Nat) (v : BitVec 64) : (s.w4s off v).clk = s.clk := rfl
@[simp] theorem State.w4s_host (off : Nat) (v : BitVec 64) : (s.w4s off v).host = s.host := rfl
@[simp] theorem State.w4s_ez (off : Nat) (v : BitVec 64) : (s.w4s off v).ez = s.ez := rfl
@[simp] theorem State.w4s_rgn (off : Nat) (v : BitVec 64) : (s.w4s off v).rgn = s.rgn := rfl
@[simp] theorem State.w4s_ports (off : Nat) (v : BitVec 64) : (s.w4s off v).ports = s.ports := rfl
@[simp] theorem State.w4s_routers (off : Nat) (v : BitVec 64) : (s.w4s off v).routers = s.routers := rfl
@[simp] theorem State.w4s_net (off : Nat) (v : BitVec 64) : (s.w4s off v).net = s.net := rfl
@[simp] theorem State.w4s_panels (off : Nat) (v : BitVec 64) : (s.w4s off v).panels = s.panels := rfl
@[simp] theorem State.w4s_mps (off : Nat) (v : BitVec 64) : (s.w4s off v).mps = s.mps := rfl
@[simp] theorem State.w4s_rs (off : Nat) (v : BitVec 64) : (s.w4s off v).rs = s.rs := rfl
@[simp] theorem State.w4s_ep (off : Nat) (v : BitVec 64) : (s.w4s off v).ep = s.ep := rfl
@[simp] theorem State.w4s_tr (off : Nat) (v : BitVec 64) : (s.w4s off v).tr = s.tr := rfl
@[simp] theorem State.w4s_w6 (off : Nat) (v : BitVec 64) : (s.w4s off v).w6 = s.w6 := rfl
@[simp] theorem State.w4s_hwSet (off : Nat) (v : BitVec 64) : (s.w4s off v).hwSet = s.hwSet := rfl
@[simp] theorem State.w4s_bkNote (off : Nat) (v : BitVec 64) : (s.w4s off v).bkNote = s.bkNote := rfl
@[simp] theorem State.w4s_st4 (off : Nat) (v : BitVec 64) : (s.w4s off v).st4 = s.st4 := rfl
@[simp] theorem State.w4s_evOld (off : Nat) (v : BitVec 64) : (s.w4s off v).evOld = s.evOld := rfl
@[simp] theorem State.w4s_winLast (off : Nat) (v : BitVec 64) : (s.w4s off v).winLast = s.winLast := rfl

/-! ### ctr6 -/

@[simp] theorem State.ctr6_pending (off n : Nat) : (s.ctr6 off n).pending = s.pending := rfl
@[simp] theorem State.ctr6_build (off n : Nat) : (s.ctr6 off n).build = s.build := rfl
@[simp] theorem State.ctr6_nonce (off n : Nat) : (s.ctr6 off n).nonce = s.nonce := rfl
@[simp] theorem State.ctr6_outs (off n : Nat) : (s.ctr6 off n).outs = s.outs := rfl
@[simp] theorem State.ctr6_clk (off n : Nat) : (s.ctr6 off n).clk = s.clk := rfl
@[simp] theorem State.ctr6_host (off n : Nat) : (s.ctr6 off n).host = s.host := rfl
@[simp] theorem State.ctr6_ez (off n : Nat) : (s.ctr6 off n).ez = s.ez := rfl
@[simp] theorem State.ctr6_rgn (off n : Nat) : (s.ctr6 off n).rgn = s.rgn := rfl
@[simp] theorem State.ctr6_ports (off n : Nat) : (s.ctr6 off n).ports = s.ports := rfl
@[simp] theorem State.ctr6_routers (off n : Nat) : (s.ctr6 off n).routers = s.routers := rfl
@[simp] theorem State.ctr6_net (off n : Nat) : (s.ctr6 off n).net = s.net := rfl
@[simp] theorem State.ctr6_panels (off n : Nat) : (s.ctr6 off n).panels = s.panels := rfl
@[simp] theorem State.ctr6_mps (off n : Nat) : (s.ctr6 off n).mps = s.mps := rfl
@[simp] theorem State.ctr6_rs (off n : Nat) : (s.ctr6 off n).rs = s.rs := rfl
@[simp] theorem State.ctr6_ep (off n : Nat) : (s.ctr6 off n).ep = s.ep := rfl
@[simp] theorem State.ctr6_tr (off n : Nat) : (s.ctr6 off n).tr = s.tr := rfl
@[simp] theorem State.ctr6_w4 (off n : Nat) : (s.ctr6 off n).w4 = s.w4 := rfl
@[simp] theorem State.ctr6_hwSet (off n : Nat) : (s.ctr6 off n).hwSet = s.hwSet := rfl
@[simp] theorem State.ctr6_bkNote (off n : Nat) : (s.ctr6 off n).bkNote = s.bkNote := rfl
@[simp] theorem State.ctr6_st4 (off n : Nat) : (s.ctr6 off n).st4 = s.st4 := rfl
@[simp] theorem State.ctr6_evOld (off n : Nat) : (s.ctr6 off n).evOld = s.evOld := rfl
@[simp] theorem State.ctr6_winLast (off n : Nat) : (s.ctr6 off n).winLast = s.winLast := rfl

/-! ### ctr4 -/

@[simp] theorem State.ctr4_pending (off n : Nat) : (s.ctr4 off n).pending = s.pending := by unfold State.ctr4; split <;> rfl
@[simp] theorem State.ctr4_build (off n : Nat) : (s.ctr4 off n).build = s.build := by unfold State.ctr4; split <;> rfl
@[simp] theorem State.ctr4_nonce (off n : Nat) : (s.ctr4 off n).nonce = s.nonce := by unfold State.ctr4; split <;> rfl
@[simp] theorem State.ctr4_outs (off n : Nat) : (s.ctr4 off n).outs = s.outs := by unfold State.ctr4; split <;> rfl
@[simp] theorem State.ctr4_clk (off n : Nat) : (s.ctr4 off n).clk = s.clk := by unfold State.ctr4; split <;> rfl
@[simp] theorem State.ctr4_host (off n : Nat) : (s.ctr4 off n).host = s.host := by unfold State.ctr4; split <;> rfl
@[simp] theorem State.ctr4_ez (off n : Nat) : (s.ctr4 off n).ez = s.ez := by unfold State.ctr4; split <;> rfl
@[simp] theorem State.ctr4_rgn (off n : Nat) : (s.ctr4 off n).rgn = s.rgn := by unfold State.ctr4; split <;> rfl
@[simp] theorem State.ctr4_ports (off n : Nat) : (s.ctr4 off n).ports = s.ports := by unfold State.ctr4; split <;> rfl
@[simp] theorem State.ctr4_routers (off n : Nat) : (s.ctr4 off n).routers = s.routers := by unfold State.ctr4; split <;> rfl
@[simp] theorem State.ctr4_net (off n : Nat) : (s.ctr4 off n).net = s.net := by unfold State.ctr4; split <;> rfl
@[simp] theorem State.ctr4_panels (off n : Nat) : (s.ctr4 off n).panels = s.panels := by unfold State.ctr4; split <;> rfl
@[simp] theorem State.ctr4_mps (off n : Nat) : (s.ctr4 off n).mps = s.mps := by unfold State.ctr4; split <;> rfl
@[simp] theorem State.ctr4_rs (off n : Nat) : (s.ctr4 off n).rs = s.rs := by unfold State.ctr4; split <;> rfl
@[simp] theorem State.ctr4_ep (off n : Nat) : (s.ctr4 off n).ep = s.ep := by unfold State.ctr4; split <;> rfl
@[simp] theorem State.ctr4_tr (off n : Nat) : (s.ctr4 off n).tr = s.tr := by unfold State.ctr4; split <;> rfl
@[simp] theorem State.ctr4_w6 (off n : Nat) : (s.ctr4 off n).w6 = s.w6 := by unfold State.ctr4; split <;> rfl
@[simp] theorem State.ctr4_hwSet (off n : Nat) : (s.ctr4 off n).hwSet = s.hwSet := by unfold State.ctr4; split <;> rfl
@[simp] theorem State.ctr4_bkNote (off n : Nat) : (s.ctr4 off n).bkNote = s.bkNote := by unfold State.ctr4; split <;> rfl
@[simp] theorem State.ctr4_st4 (off n : Nat) : (s.ctr4 off n).st4 = s.st4 := by unfold State.ctr4; split <;> rfl
@[simp] theorem State.ctr4_evOld (off n : Nat) : (s.ctr4 off n).evOld = s.evOld := by unfold State.ctr4; split <;> rfl
@[simp] theorem State.ctr4_winLast (off n : Nat) : (s.ctr4 off n).winLast = s.winLast := by unfold State.ctr4; split <;> rfl

/-! ### irqS -/

@[simp] theorem State.irqS_pending (n : Nat) : (s.irqS n).pending = s.pending := rfl
@[simp] theorem State.irqS_build (n : Nat) : (s.irqS n).build = s.build := rfl
@[simp] theorem State.irqS_nonce (n : Nat) : (s.irqS n).nonce = s.nonce := rfl
@[simp] theorem State.irqS_outs (n : Nat) : (s.irqS n).outs = s.outs := rfl
@[simp] theorem State.irqS_clk (n : Nat) : (s.irqS n).clk = s.clk := rfl
@[simp] theorem State.irqS_ez (n : Nat) : (s.irqS n).ez = s.ez := rfl
@[simp] theorem State.irqS_rgn (n : Nat) : (s.irqS n).rgn = s.rgn := rfl
@[simp] theorem State.irqS_ports (n : Nat) : (s.irqS n).ports = s.ports := rfl
@[simp] theorem State.irqS_routers (n : Nat) : (s.irqS n).routers = s.routers := rfl
@[simp] theorem State.irqS_net (n : Nat) : (s.irqS n).net = s.net := rfl
@[simp] theorem State.irqS_panels (n : Nat) : (s.irqS n).panels = s.panels := rfl
@[simp] theorem State.irqS_mps (n : Nat) : (s.irqS n).mps = s.mps := rfl
@[simp] theorem State.irqS_rs (n : Nat) : (s.irqS n).rs = s.rs := rfl
@[simp] theorem State.irqS_ep (n : Nat) : (s.irqS n).ep = s.ep := rfl
@[simp] theorem State.irqS_tr (n : Nat) : (s.irqS n).tr = s.tr := rfl
@[simp] theorem State.irqS_w4 (n : Nat) : (s.irqS n).w4 = s.w4 := rfl
@[simp] theorem State.irqS_w6 (n : Nat) : (s.irqS n).w6 = s.w6 := rfl
@[simp] theorem State.irqS_bkNote (n : Nat) : (s.irqS n).bkNote = s.bkNote := rfl
@[simp] theorem State.irqS_st4 (n : Nat) : (s.irqS n).st4 = s.st4 := rfl
@[simp] theorem State.irqS_evOld (n : Nat) : (s.irqS n).evOld = s.evOld := rfl
@[simp] theorem State.irqS_winLast (n : Nat) : (s.irqS n).winLast = s.winLast := rfl
@[simp] theorem State.irqS_host_bootPort (n : Nat) : (s.irqS n).host.bootPort = s.host.bootPort := rfl
@[simp] theorem State.irqS_host_bootEn (n : Nat) : (s.irqS n).host.bootEn = s.host.bootEn := rfl
@[simp] theorem State.irqS_host_prof (n : Nat) : (s.irqS n).host.prof = s.host.prof := rfl
@[simp] theorem State.irqS_host_warnSeen (n : Nat) : (s.irqS n).host.warnSeen = s.host.warnSeen := rfl
@[simp] theorem State.irqS_host_bist (n : Nat) : (s.irqS n).host.bist = s.host.bist := rfl
@[simp] theorem State.irqS_host_locks (n : Nat) : (s.irqS n).host.locks = s.host.locks := rfl
@[simp] theorem State.irqS_host_timeFreq (n : Nat) : (s.irqS n).host.timeFreq = s.host.timeFreq := rfl
@[simp] theorem State.irqS_host_cpViol (n : Nat) : (s.irqS n).host.cpViol = s.host.cpViol := rfl
@[simp] theorem State.irqS_host_irqMaskS (n : Nat) : (s.irqS n).host.irqMaskS = s.host.irqMaskS := rfl
@[simp] theorem State.irqS_host_irqStatNs (n : Nat) : (s.irqS n).host.irqStatNs = s.host.irqStatNs := rfl
@[simp] theorem State.irqS_host_irqMaskNs (n : Nat) : (s.irqS n).host.irqMaskNs = s.host.irqMaskNs := rfl
@[simp] theorem State.irqS_host_rings (n : Nat) : (s.irqS n).host.rings = s.host.rings := rfl

/-! ### irqNs -/

@[simp] theorem State.irqNs_pending (n : Nat) : (s.irqNs n).pending = s.pending := rfl
@[simp] theorem State.irqNs_build (n : Nat) : (s.irqNs n).build = s.build := rfl
@[simp] theorem State.irqNs_nonce (n : Nat) : (s.irqNs n).nonce = s.nonce := rfl
@[simp] theorem State.irqNs_outs (n : Nat) : (s.irqNs n).outs = s.outs := rfl
@[simp] theorem State.irqNs_clk (n : Nat) : (s.irqNs n).clk = s.clk := rfl
@[simp] theorem State.irqNs_ez (n : Nat) : (s.irqNs n).ez = s.ez := rfl
@[simp] theorem State.irqNs_rgn (n : Nat) : (s.irqNs n).rgn = s.rgn := rfl
@[simp] theorem State.irqNs_ports (n : Nat) : (s.irqNs n).ports = s.ports := rfl
@[simp] theorem State.irqNs_routers (n : Nat) : (s.irqNs n).routers = s.routers := rfl
@[simp] theorem State.irqNs_net (n : Nat) : (s.irqNs n).net = s.net := rfl
@[simp] theorem State.irqNs_panels (n : Nat) : (s.irqNs n).panels = s.panels := rfl
@[simp] theorem State.irqNs_mps (n : Nat) : (s.irqNs n).mps = s.mps := rfl
@[simp] theorem State.irqNs_rs (n : Nat) : (s.irqNs n).rs = s.rs := rfl
@[simp] theorem State.irqNs_ep (n : Nat) : (s.irqNs n).ep = s.ep := rfl
@[simp] theorem State.irqNs_tr (n : Nat) : (s.irqNs n).tr = s.tr := rfl
@[simp] theorem State.irqNs_w4 (n : Nat) : (s.irqNs n).w4 = s.w4 := rfl
@[simp] theorem State.irqNs_w6 (n : Nat) : (s.irqNs n).w6 = s.w6 := rfl
@[simp] theorem State.irqNs_bkNote (n : Nat) : (s.irqNs n).bkNote = s.bkNote := rfl
@[simp] theorem State.irqNs_st4 (n : Nat) : (s.irqNs n).st4 = s.st4 := rfl
@[simp] theorem State.irqNs_evOld (n : Nat) : (s.irqNs n).evOld = s.evOld := rfl
@[simp] theorem State.irqNs_winLast (n : Nat) : (s.irqNs n).winLast = s.winLast := rfl
@[simp] theorem State.irqNs_host_bootPort (n : Nat) : (s.irqNs n).host.bootPort = s.host.bootPort := rfl
@[simp] theorem State.irqNs_host_bootEn (n : Nat) : (s.irqNs n).host.bootEn = s.host.bootEn := rfl
@[simp] theorem State.irqNs_host_prof (n : Nat) : (s.irqNs n).host.prof = s.host.prof := rfl
@[simp] theorem State.irqNs_host_warnSeen (n : Nat) : (s.irqNs n).host.warnSeen = s.host.warnSeen := rfl
@[simp] theorem State.irqNs_host_bist (n : Nat) : (s.irqNs n).host.bist = s.host.bist := rfl
@[simp] theorem State.irqNs_host_locks (n : Nat) : (s.irqNs n).host.locks = s.host.locks := rfl
@[simp] theorem State.irqNs_host_timeFreq (n : Nat) : (s.irqNs n).host.timeFreq = s.host.timeFreq := rfl
@[simp] theorem State.irqNs_host_cpViol (n : Nat) : (s.irqNs n).host.cpViol = s.host.cpViol := rfl
@[simp] theorem State.irqNs_host_irqStatS (n : Nat) : (s.irqNs n).host.irqStatS = s.host.irqStatS := rfl
@[simp] theorem State.irqNs_host_irqMaskS (n : Nat) : (s.irqNs n).host.irqMaskS = s.host.irqMaskS := rfl
@[simp] theorem State.irqNs_host_irqMaskNs (n : Nat) : (s.irqNs n).host.irqMaskNs = s.host.irqMaskNs := rfl
@[simp] theorem State.irqNs_host_rings (n : Nat) : (s.irqNs n).host.rings = s.host.rings := rfl

/-! ### noteSet -/

@[simp] theorem State.noteSet_pending (k : Nat) : (s.noteSet k).pending = s.pending := rfl
@[simp] theorem State.noteSet_build (k : Nat) : (s.noteSet k).build = s.build := rfl
@[simp] theorem State.noteSet_nonce (k : Nat) : (s.noteSet k).nonce = s.nonce := rfl
@[simp] theorem State.noteSet_outs (k : Nat) : (s.noteSet k).outs = s.outs := rfl
@[simp] theorem State.noteSet_clk (k : Nat) : (s.noteSet k).clk = s.clk := rfl
@[simp] theorem State.noteSet_host (k : Nat) : (s.noteSet k).host = s.host := rfl
@[simp] theorem State.noteSet_ez (k : Nat) : (s.noteSet k).ez = s.ez := rfl
@[simp] theorem State.noteSet_rgn (k : Nat) : (s.noteSet k).rgn = s.rgn := rfl
@[simp] theorem State.noteSet_ports (k : Nat) : (s.noteSet k).ports = s.ports := rfl
@[simp] theorem State.noteSet_routers (k : Nat) : (s.noteSet k).routers = s.routers := rfl
@[simp] theorem State.noteSet_net (k : Nat) : (s.noteSet k).net = s.net := rfl
@[simp] theorem State.noteSet_panels (k : Nat) : (s.noteSet k).panels = s.panels := rfl
@[simp] theorem State.noteSet_mps (k : Nat) : (s.noteSet k).mps = s.mps := rfl
@[simp] theorem State.noteSet_rs (k : Nat) : (s.noteSet k).rs = s.rs := rfl
@[simp] theorem State.noteSet_ep (k : Nat) : (s.noteSet k).ep = s.ep := rfl
@[simp] theorem State.noteSet_tr (k : Nat) : (s.noteSet k).tr = s.tr := rfl
@[simp] theorem State.noteSet_w4 (k : Nat) : (s.noteSet k).w4 = s.w4 := rfl
@[simp] theorem State.noteSet_w6 (k : Nat) : (s.noteSet k).w6 = s.w6 := rfl
@[simp] theorem State.noteSet_bkNote (k : Nat) : (s.noteSet k).bkNote = s.bkNote := rfl
@[simp] theorem State.noteSet_st4 (k : Nat) : (s.noteSet k).st4 = s.st4 := rfl
@[simp] theorem State.noteSet_evOld (k : Nat) : (s.noteSet k).evOld = s.evOld := rfl
@[simp] theorem State.noteSet_winLast (k : Nat) : (s.noteSet k).winLast = s.winLast := rfl

/-! ### bkMark -/

@[simp] theorem State.bkMark_pending (b v : Nat) : (s.bkMark b v).pending = s.pending := rfl
@[simp] theorem State.bkMark_build (b v : Nat) : (s.bkMark b v).build = s.build := rfl
@[simp] theorem State.bkMark_nonce (b v : Nat) : (s.bkMark b v).nonce = s.nonce := rfl
@[simp] theorem State.bkMark_outs (b v : Nat) : (s.bkMark b v).outs = s.outs := rfl
@[simp] theorem State.bkMark_clk (b v : Nat) : (s.bkMark b v).clk = s.clk := rfl
@[simp] theorem State.bkMark_host (b v : Nat) : (s.bkMark b v).host = s.host := rfl
@[simp] theorem State.bkMark_ez (b v : Nat) : (s.bkMark b v).ez = s.ez := rfl
@[simp] theorem State.bkMark_rgn (b v : Nat) : (s.bkMark b v).rgn = s.rgn := rfl
@[simp] theorem State.bkMark_ports (b v : Nat) : (s.bkMark b v).ports = s.ports := rfl
@[simp] theorem State.bkMark_routers (b v : Nat) : (s.bkMark b v).routers = s.routers := rfl
@[simp] theorem State.bkMark_net (b v : Nat) : (s.bkMark b v).net = s.net := rfl
@[simp] theorem State.bkMark_panels (b v : Nat) : (s.bkMark b v).panels = s.panels := rfl
@[simp] theorem State.bkMark_mps (b v : Nat) : (s.bkMark b v).mps = s.mps := rfl
@[simp] theorem State.bkMark_rs (b v : Nat) : (s.bkMark b v).rs = s.rs := rfl
@[simp] theorem State.bkMark_ep (b v : Nat) : (s.bkMark b v).ep = s.ep := rfl
@[simp] theorem State.bkMark_tr (b v : Nat) : (s.bkMark b v).tr = s.tr := rfl
@[simp] theorem State.bkMark_w4 (b v : Nat) : (s.bkMark b v).w4 = s.w4 := rfl
@[simp] theorem State.bkMark_w6 (b v : Nat) : (s.bkMark b v).w6 = s.w6 := rfl
@[simp] theorem State.bkMark_hwSet (b v : Nat) : (s.bkMark b v).hwSet = s.hwSet := rfl
@[simp] theorem State.bkMark_st4 (b v : Nat) : (s.bkMark b v).st4 = s.st4 := rfl
@[simp] theorem State.bkMark_evOld (b v : Nat) : (s.bkMark b v).evOld = s.evOld := rfl
@[simp] theorem State.bkMark_winLast (b v : Nat) : (s.bkMark b v).winLast = s.winLast := rfl

/-! ### event -/

@[simp] theorem State.event_pending (n : Nat) : (s.event n).pending = s.pending := rfl
@[simp] theorem State.event_build (n : Nat) : (s.event n).build = s.build := rfl
@[simp] theorem State.event_nonce (n : Nat) : (s.event n).nonce = s.nonce := rfl
@[simp] theorem State.event_outs (n : Nat) : (s.event n).outs = s.outs := rfl
@[simp] theorem State.event_clk (n : Nat) : (s.event n).clk = s.clk := rfl
@[simp] theorem State.event_host (n : Nat) : (s.event n).host = s.host := rfl
@[simp] theorem State.event_rgn (n : Nat) : (s.event n).rgn = s.rgn := rfl
@[simp] theorem State.event_ports (n : Nat) : (s.event n).ports = s.ports := rfl
@[simp] theorem State.event_routers (n : Nat) : (s.event n).routers = s.routers := rfl
@[simp] theorem State.event_net (n : Nat) : (s.event n).net = s.net := rfl
@[simp] theorem State.event_panels (n : Nat) : (s.event n).panels = s.panels := rfl
@[simp] theorem State.event_mps (n : Nat) : (s.event n).mps = s.mps := rfl
@[simp] theorem State.event_rs (n : Nat) : (s.event n).rs = s.rs := rfl
@[simp] theorem State.event_ep (n : Nat) : (s.event n).ep = s.ep := rfl
@[simp] theorem State.event_tr (n : Nat) : (s.event n).tr = s.tr := rfl
@[simp] theorem State.event_w4 (n : Nat) : (s.event n).w4 = s.w4 := rfl
@[simp] theorem State.event_w6 (n : Nat) : (s.event n).w6 = s.w6 := rfl
@[simp] theorem State.event_hwSet (n : Nat) : (s.event n).hwSet = s.hwSet := rfl
@[simp] theorem State.event_bkNote (n : Nat) : (s.event n).bkNote = s.bkNote := rfl
@[simp] theorem State.event_st4 (n : Nat) : (s.event n).st4 = s.st4 := rfl
@[simp] theorem State.event_evOld (n : Nat) : (s.event n).evOld = s.evOld := rfl
@[simp] theorem State.event_winLast (n : Nat) : (s.event n).winLast = s.winLast := rfl
@[simp] theorem State.event_ez_ctx (n : Nat) : (s.event n).ez.ctx = s.ez.ctx := rfl
@[simp] theorem State.event_ez_loc (n : Nat) : (s.event n).ez.loc = s.ez.loc := rfl
@[simp] theorem State.event_ez_ops (n : Nat) : (s.event n).ez.ops = s.ez.ops := rfl
@[simp] theorem State.event_ez_opSeq (n : Nat) : (s.event n).ez.opSeq = s.ez.opSeq := rfl
@[simp] theorem State.event_ez_memOut (n : Nat) : (s.event n).ez.memOut = s.ez.memOut := rfl
@[simp] theorem State.event_ez_everRegion (n : Nat) : (s.event n).ez.everRegion = s.ez.everRegion := rfl
@[simp] theorem State.event_ez_last (n : Nat) : (s.event n).ez.last = s.ez.last := rfl
@[simp] theorem State.event_ez_tswap (n : Nat) : (s.event n).ez.tswap = s.ez.tswap := rfl
@[simp] theorem State.event_ez_asks (n : Nat) : (s.event n).ez.asks = s.ez.asks := rfl

/-! ### stage -/

@[simp] theorem State.stage_pending (off n : Nat) : (s.stage off n).pending = s.pending := rfl
@[simp] theorem State.stage_build (off n : Nat) : (s.stage off n).build = s.build := rfl
@[simp] theorem State.stage_nonce (off n : Nat) : (s.stage off n).nonce = s.nonce := rfl
@[simp] theorem State.stage_outs (off n : Nat) : (s.stage off n).outs = s.outs := rfl
@[simp] theorem State.stage_clk (off n : Nat) : (s.stage off n).clk = s.clk := rfl
@[simp] theorem State.stage_host (off n : Nat) : (s.stage off n).host = s.host := rfl
@[simp] theorem State.stage_ez (off n : Nat) : (s.stage off n).ez = s.ez := rfl
@[simp] theorem State.stage_rgn (off n : Nat) : (s.stage off n).rgn = s.rgn := rfl
@[simp] theorem State.stage_ports (off n : Nat) : (s.stage off n).ports = s.ports := rfl
@[simp] theorem State.stage_routers (off n : Nat) : (s.stage off n).routers = s.routers := rfl
@[simp] theorem State.stage_net (off n : Nat) : (s.stage off n).net = s.net := rfl
@[simp] theorem State.stage_panels (off n : Nat) : (s.stage off n).panels = s.panels := rfl
@[simp] theorem State.stage_mps (off n : Nat) : (s.stage off n).mps = s.mps := rfl
@[simp] theorem State.stage_rs (off n : Nat) : (s.stage off n).rs = s.rs := rfl
@[simp] theorem State.stage_tr (off n : Nat) : (s.stage off n).tr = s.tr := rfl
@[simp] theorem State.stage_w4 (off n : Nat) : (s.stage off n).w4 = s.w4 := rfl
@[simp] theorem State.stage_w6 (off n : Nat) : (s.stage off n).w6 = s.w6 := rfl
@[simp] theorem State.stage_hwSet (off n : Nat) : (s.stage off n).hwSet = s.hwSet := rfl
@[simp] theorem State.stage_bkNote (off n : Nat) : (s.stage off n).bkNote = s.bkNote := rfl
@[simp] theorem State.stage_st4 (off n : Nat) : (s.stage off n).st4 = s.st4 := rfl
@[simp] theorem State.stage_evOld (off n : Nat) : (s.stage off n).evOld = s.evOld := rfl
@[simp] theorem State.stage_winLast (off n : Nat) : (s.stage off n).winLast = s.winLast := rfl
@[simp] theorem State.stage_ep_sram (off n : Nat) : (s.stage off n).ep.sram = s.ep.sram := rfl
@[simp] theorem State.stage_ep_cals (off n : Nat) : (s.stage off n).ep.cals = s.ep.cals := rfl
@[simp] theorem State.stage_ep_held (off n : Nat) : (s.stage off n).ep.held = s.ep.held := rfl
@[simp] theorem State.stage_ep_job (off n : Nat) : (s.stage off n).ep.job = s.ep.job := rfl
@[simp] theorem State.stage_ep_trigger (off n : Nat) : (s.stage off n).ep.trigger = s.ep.trigger := rfl
@[simp] theorem State.stage_ep_slots (off n : Nat) : (s.stage off n).ep.slots = s.ep.slots := rfl
@[simp] theorem State.stage_ep_memOut (off n : Nat) : (s.stage off n).ep.memOut = s.ep.memOut := rfl

/-! ### calendar -/

@[simp] theorem State.calendar_pending (hw : Bool) (code : Nat) : (s.calendar hw code).pending = s.pending := rfl
@[simp] theorem State.calendar_build (hw : Bool) (code : Nat) : (s.calendar hw code).build = s.build := rfl
@[simp] theorem State.calendar_nonce (hw : Bool) (code : Nat) : (s.calendar hw code).nonce = s.nonce := rfl
@[simp] theorem State.calendar_outs (hw : Bool) (code : Nat) : (s.calendar hw code).outs = s.outs := rfl
@[simp] theorem State.calendar_clk (hw : Bool) (code : Nat) : (s.calendar hw code).clk = s.clk := rfl
@[simp] theorem State.calendar_host (hw : Bool) (code : Nat) : (s.calendar hw code).host = s.host := rfl
@[simp] theorem State.calendar_ez (hw : Bool) (code : Nat) : (s.calendar hw code).ez = s.ez := rfl
@[simp] theorem State.calendar_rgn (hw : Bool) (code : Nat) : (s.calendar hw code).rgn = s.rgn := rfl
@[simp] theorem State.calendar_ports (hw : Bool) (code : Nat) : (s.calendar hw code).ports = s.ports := rfl
@[simp] theorem State.calendar_routers (hw : Bool) (code : Nat) : (s.calendar hw code).routers = s.routers := rfl
@[simp] theorem State.calendar_net (hw : Bool) (code : Nat) : (s.calendar hw code).net = s.net := rfl
@[simp] theorem State.calendar_panels (hw : Bool) (code : Nat) : (s.calendar hw code).panels = s.panels := rfl
@[simp] theorem State.calendar_mps (hw : Bool) (code : Nat) : (s.calendar hw code).mps = s.mps := rfl
@[simp] theorem State.calendar_rs (hw : Bool) (code : Nat) : (s.calendar hw code).rs = s.rs := rfl
@[simp] theorem State.calendar_tr (hw : Bool) (code : Nat) : (s.calendar hw code).tr = s.tr := rfl
@[simp] theorem State.calendar_w4 (hw : Bool) (code : Nat) : (s.calendar hw code).w4 = s.w4 := rfl
@[simp] theorem State.calendar_w6 (hw : Bool) (code : Nat) : (s.calendar hw code).w6 = s.w6 := rfl
@[simp] theorem State.calendar_hwSet (hw : Bool) (code : Nat) : (s.calendar hw code).hwSet = s.hwSet := rfl
@[simp] theorem State.calendar_bkNote (hw : Bool) (code : Nat) : (s.calendar hw code).bkNote = s.bkNote := rfl
@[simp] theorem State.calendar_st4 (hw : Bool) (code : Nat) : (s.calendar hw code).st4 = s.st4 := rfl
@[simp] theorem State.calendar_evOld (hw : Bool) (code : Nat) : (s.calendar hw code).evOld = s.evOld := rfl
@[simp] theorem State.calendar_winLast (hw : Bool) (code : Nat) : (s.calendar hw code).winLast = s.winLast := rfl
@[simp] theorem State.calendar_ep_sram (hw : Bool) (code : Nat) : (s.calendar hw code).ep.sram = s.ep.sram := rfl
@[simp] theorem State.calendar_ep_staging (hw : Bool) (code : Nat) : (s.calendar hw code).ep.staging = s.ep.staging := rfl
@[simp] theorem State.calendar_ep_held (hw : Bool) (code : Nat) : (s.calendar hw code).ep.held = s.ep.held := rfl
@[simp] theorem State.calendar_ep_job (hw : Bool) (code : Nat) : (s.calendar hw code).ep.job = s.ep.job := rfl
@[simp] theorem State.calendar_ep_trigger (hw : Bool) (code : Nat) : (s.calendar hw code).ep.trigger = s.ep.trigger := rfl
@[simp] theorem State.calendar_ep_slots (hw : Bool) (code : Nat) : (s.calendar hw code).ep.slots = s.ep.slots := rfl
@[simp] theorem State.calendar_ep_memOut (hw : Bool) (code : Nat) : (s.calendar hw code).ep.memOut = s.ep.memOut := rfl

/-! ### freezePanel -/

@[simp] theorem State.freezePanel_pending (p : Nat) : (s.freezePanel p).pending = s.pending := rfl
@[simp] theorem State.freezePanel_build (p : Nat) : (s.freezePanel p).build = s.build := rfl
@[simp] theorem State.freezePanel_nonce (p : Nat) : (s.freezePanel p).nonce = s.nonce := rfl
@[simp] theorem State.freezePanel_outs (p : Nat) : (s.freezePanel p).outs = s.outs := rfl
@[simp] theorem State.freezePanel_host (p : Nat) : (s.freezePanel p).host = s.host := rfl
@[simp] theorem State.freezePanel_ez (p : Nat) : (s.freezePanel p).ez = s.ez := rfl
@[simp] theorem State.freezePanel_rgn (p : Nat) : (s.freezePanel p).rgn = s.rgn := rfl
@[simp] theorem State.freezePanel_ports (p : Nat) : (s.freezePanel p).ports = s.ports := rfl
@[simp] theorem State.freezePanel_routers (p : Nat) : (s.freezePanel p).routers = s.routers := rfl
@[simp] theorem State.freezePanel_net (p : Nat) : (s.freezePanel p).net = s.net := rfl
@[simp] theorem State.freezePanel_panels (p : Nat) : (s.freezePanel p).panels = s.panels := rfl
@[simp] theorem State.freezePanel_mps (p : Nat) : (s.freezePanel p).mps = s.mps := rfl
@[simp] theorem State.freezePanel_rs (p : Nat) : (s.freezePanel p).rs = s.rs := rfl
@[simp] theorem State.freezePanel_ep (p : Nat) : (s.freezePanel p).ep = s.ep := rfl
@[simp] theorem State.freezePanel_tr (p : Nat) : (s.freezePanel p).tr = s.tr := rfl
@[simp] theorem State.freezePanel_w4 (p : Nat) : (s.freezePanel p).w4 = s.w4 := rfl
@[simp] theorem State.freezePanel_w6 (p : Nat) : (s.freezePanel p).w6 = s.w6 := rfl
@[simp] theorem State.freezePanel_hwSet (p : Nat) : (s.freezePanel p).hwSet = s.hwSet := rfl
@[simp] theorem State.freezePanel_bkNote (p : Nat) : (s.freezePanel p).bkNote = s.bkNote := rfl
@[simp] theorem State.freezePanel_st4 (p : Nat) : (s.freezePanel p).st4 = s.st4 := rfl
@[simp] theorem State.freezePanel_evOld (p : Nat) : (s.freezePanel p).evOld = s.evOld := rfl
@[simp] theorem State.freezePanel_winLast (p : Nat) : (s.freezePanel p).winLast = s.winLast := rfl
@[simp] theorem State.freezePanel_clk_cyc (p : Nat) : (s.freezePanel p).clk.cyc = s.clk.cyc := rfl
@[simp] theorem State.freezePanel_clk_inReset (p : Nat) : (s.freezePanel p).clk.inReset = s.clk.inReset := rfl
@[simp] theorem State.freezePanel_clk_initBusy (p : Nat) : (s.freezePanel p).clk.initBusy = s.clk.initBusy := rfl
@[simp] theorem State.freezePanel_clk_fatal (p : Nat) : (s.freezePanel p).clk.fatal = s.clk.fatal := rfl
@[simp] theorem State.freezePanel_clk_fatalRows (p : Nat) : (s.freezePanel p).clk.fatalRows = s.clk.fatalRows := rfl
@[simp] theorem State.freezePanel_clk_frozenRoot (p : Nat) : (s.freezePanel p).clk.frozenRoot = s.clk.frozenRoot := rfl
@[simp] theorem State.freezePanel_clk_frozenRouters (p : Nat) : (s.freezePanel p).clk.frozenRouters = s.clk.frozenRouters := rfl

/-! ### freezeAllPanels -/

@[simp] theorem State.freezeAllPanels_pending : s.freezeAllPanels.pending = s.pending := rfl
@[simp] theorem State.freezeAllPanels_build : s.freezeAllPanels.build = s.build := rfl
@[simp] theorem State.freezeAllPanels_nonce : s.freezeAllPanels.nonce = s.nonce := rfl
@[simp] theorem State.freezeAllPanels_outs : s.freezeAllPanels.outs = s.outs := rfl
@[simp] theorem State.freezeAllPanels_host : s.freezeAllPanels.host = s.host := rfl
@[simp] theorem State.freezeAllPanels_ez : s.freezeAllPanels.ez = s.ez := rfl
@[simp] theorem State.freezeAllPanels_rgn : s.freezeAllPanels.rgn = s.rgn := rfl
@[simp] theorem State.freezeAllPanels_ports : s.freezeAllPanels.ports = s.ports := rfl
@[simp] theorem State.freezeAllPanels_routers : s.freezeAllPanels.routers = s.routers := rfl
@[simp] theorem State.freezeAllPanels_net : s.freezeAllPanels.net = s.net := rfl
@[simp] theorem State.freezeAllPanels_panels : s.freezeAllPanels.panels = s.panels := rfl
@[simp] theorem State.freezeAllPanels_mps : s.freezeAllPanels.mps = s.mps := rfl
@[simp] theorem State.freezeAllPanels_rs : s.freezeAllPanels.rs = s.rs := rfl
@[simp] theorem State.freezeAllPanels_ep : s.freezeAllPanels.ep = s.ep := rfl
@[simp] theorem State.freezeAllPanels_tr : s.freezeAllPanels.tr = s.tr := rfl
@[simp] theorem State.freezeAllPanels_w4 : s.freezeAllPanels.w4 = s.w4 := rfl
@[simp] theorem State.freezeAllPanels_w6 : s.freezeAllPanels.w6 = s.w6 := rfl
@[simp] theorem State.freezeAllPanels_hwSet : s.freezeAllPanels.hwSet = s.hwSet := rfl
@[simp] theorem State.freezeAllPanels_bkNote : s.freezeAllPanels.bkNote = s.bkNote := rfl
@[simp] theorem State.freezeAllPanels_st4 : s.freezeAllPanels.st4 = s.st4 := rfl
@[simp] theorem State.freezeAllPanels_evOld : s.freezeAllPanels.evOld = s.evOld := rfl
@[simp] theorem State.freezeAllPanels_winLast : s.freezeAllPanels.winLast = s.winLast := rfl
@[simp] theorem State.freezeAllPanels_clk_cyc : s.freezeAllPanels.clk.cyc = s.clk.cyc := rfl
@[simp] theorem State.freezeAllPanels_clk_inReset : s.freezeAllPanels.clk.inReset = s.clk.inReset := rfl
@[simp] theorem State.freezeAllPanels_clk_initBusy : s.freezeAllPanels.clk.initBusy = s.clk.initBusy := rfl
@[simp] theorem State.freezeAllPanels_clk_fatal : s.freezeAllPanels.clk.fatal = s.clk.fatal := rfl
@[simp] theorem State.freezeAllPanels_clk_fatalRows : s.freezeAllPanels.clk.fatalRows = s.clk.fatalRows := rfl
@[simp] theorem State.freezeAllPanels_clk_frozenRoot : s.freezeAllPanels.clk.frozenRoot = s.clk.frozenRoot := rfl
@[simp] theorem State.freezeAllPanels_clk_frozenRouters : s.freezeAllPanels.clk.frozenRouters = s.clk.frozenRouters := rfl

/-! ### freezeRouter -/

@[simp] theorem State.freezeRouter_pending (r : Nat) : (s.freezeRouter r).pending = s.pending := rfl
@[simp] theorem State.freezeRouter_build (r : Nat) : (s.freezeRouter r).build = s.build := rfl
@[simp] theorem State.freezeRouter_nonce (r : Nat) : (s.freezeRouter r).nonce = s.nonce := rfl
@[simp] theorem State.freezeRouter_outs (r : Nat) : (s.freezeRouter r).outs = s.outs := rfl
@[simp] theorem State.freezeRouter_host (r : Nat) : (s.freezeRouter r).host = s.host := rfl
@[simp] theorem State.freezeRouter_ez (r : Nat) : (s.freezeRouter r).ez = s.ez := rfl
@[simp] theorem State.freezeRouter_rgn (r : Nat) : (s.freezeRouter r).rgn = s.rgn := rfl
@[simp] theorem State.freezeRouter_ports (r : Nat) : (s.freezeRouter r).ports = s.ports := rfl
@[simp] theorem State.freezeRouter_routers (r : Nat) : (s.freezeRouter r).routers = s.routers := rfl
@[simp] theorem State.freezeRouter_net (r : Nat) : (s.freezeRouter r).net = s.net := rfl
@[simp] theorem State.freezeRouter_panels (r : Nat) : (s.freezeRouter r).panels = s.panels := rfl
@[simp] theorem State.freezeRouter_mps (r : Nat) : (s.freezeRouter r).mps = s.mps := rfl
@[simp] theorem State.freezeRouter_rs (r : Nat) : (s.freezeRouter r).rs = s.rs := rfl
@[simp] theorem State.freezeRouter_ep (r : Nat) : (s.freezeRouter r).ep = s.ep := rfl
@[simp] theorem State.freezeRouter_tr (r : Nat) : (s.freezeRouter r).tr = s.tr := rfl
@[simp] theorem State.freezeRouter_w4 (r : Nat) : (s.freezeRouter r).w4 = s.w4 := rfl
@[simp] theorem State.freezeRouter_w6 (r : Nat) : (s.freezeRouter r).w6 = s.w6 := rfl
@[simp] theorem State.freezeRouter_hwSet (r : Nat) : (s.freezeRouter r).hwSet = s.hwSet := rfl
@[simp] theorem State.freezeRouter_bkNote (r : Nat) : (s.freezeRouter r).bkNote = s.bkNote := rfl
@[simp] theorem State.freezeRouter_st4 (r : Nat) : (s.freezeRouter r).st4 = s.st4 := rfl
@[simp] theorem State.freezeRouter_evOld (r : Nat) : (s.freezeRouter r).evOld = s.evOld := rfl
@[simp] theorem State.freezeRouter_winLast (r : Nat) : (s.freezeRouter r).winLast = s.winLast := rfl
@[simp] theorem State.freezeRouter_clk_cyc (r : Nat) : (s.freezeRouter r).clk.cyc = s.clk.cyc := rfl
@[simp] theorem State.freezeRouter_clk_inReset (r : Nat) : (s.freezeRouter r).clk.inReset = s.clk.inReset := rfl
@[simp] theorem State.freezeRouter_clk_initBusy (r : Nat) : (s.freezeRouter r).clk.initBusy = s.clk.initBusy := rfl
@[simp] theorem State.freezeRouter_clk_fatal (r : Nat) : (s.freezeRouter r).clk.fatal = s.clk.fatal := rfl
@[simp] theorem State.freezeRouter_clk_fatalRows (r : Nat) : (s.freezeRouter r).clk.fatalRows = s.clk.fatalRows := rfl
@[simp] theorem State.freezeRouter_clk_frozenRoot (r : Nat) : (s.freezeRouter r).clk.frozenRoot = s.clk.frozenRoot := rfl
@[simp] theorem State.freezeRouter_clk_frozenPanels (r : Nat) : (s.freezeRouter r).clk.frozenPanels = s.clk.frozenPanels := rfl

/-! ### setQ -/

@[simp] theorem State.setQ_pending (l : Loc) (c : Nat) (x : List Packet) : (s.setQ l c x).pending = s.pending := rfl
@[simp] theorem State.setQ_build (l : Loc) (c : Nat) (x : List Packet) : (s.setQ l c x).build = s.build := rfl
@[simp] theorem State.setQ_nonce (l : Loc) (c : Nat) (x : List Packet) : (s.setQ l c x).nonce = s.nonce := rfl
@[simp] theorem State.setQ_outs (l : Loc) (c : Nat) (x : List Packet) : (s.setQ l c x).outs = s.outs := rfl
@[simp] theorem State.setQ_clk (l : Loc) (c : Nat) (x : List Packet) : (s.setQ l c x).clk = s.clk := rfl
@[simp] theorem State.setQ_host (l : Loc) (c : Nat) (x : List Packet) : (s.setQ l c x).host = s.host := rfl
@[simp] theorem State.setQ_ez (l : Loc) (c : Nat) (x : List Packet) : (s.setQ l c x).ez = s.ez := rfl
@[simp] theorem State.setQ_rgn (l : Loc) (c : Nat) (x : List Packet) : (s.setQ l c x).rgn = s.rgn := rfl
@[simp] theorem State.setQ_ports (l : Loc) (c : Nat) (x : List Packet) : (s.setQ l c x).ports = s.ports := rfl
@[simp] theorem State.setQ_routers (l : Loc) (c : Nat) (x : List Packet) : (s.setQ l c x).routers = s.routers := rfl
@[simp] theorem State.setQ_panels (l : Loc) (c : Nat) (x : List Packet) : (s.setQ l c x).panels = s.panels := rfl
@[simp] theorem State.setQ_mps (l : Loc) (c : Nat) (x : List Packet) : (s.setQ l c x).mps = s.mps := rfl
@[simp] theorem State.setQ_rs (l : Loc) (c : Nat) (x : List Packet) : (s.setQ l c x).rs = s.rs := rfl
@[simp] theorem State.setQ_ep (l : Loc) (c : Nat) (x : List Packet) : (s.setQ l c x).ep = s.ep := rfl
@[simp] theorem State.setQ_tr (l : Loc) (c : Nat) (x : List Packet) : (s.setQ l c x).tr = s.tr := rfl
@[simp] theorem State.setQ_w4 (l : Loc) (c : Nat) (x : List Packet) : (s.setQ l c x).w4 = s.w4 := rfl
@[simp] theorem State.setQ_w6 (l : Loc) (c : Nat) (x : List Packet) : (s.setQ l c x).w6 = s.w6 := rfl
@[simp] theorem State.setQ_hwSet (l : Loc) (c : Nat) (x : List Packet) : (s.setQ l c x).hwSet = s.hwSet := rfl
@[simp] theorem State.setQ_bkNote (l : Loc) (c : Nat) (x : List Packet) : (s.setQ l c x).bkNote = s.bkNote := rfl
@[simp] theorem State.setQ_st4 (l : Loc) (c : Nat) (x : List Packet) : (s.setQ l c x).st4 = s.st4 := rfl
@[simp] theorem State.setQ_evOld (l : Loc) (c : Nat) (x : List Packet) : (s.setQ l c x).evOld = s.evOld := rfl
@[simp] theorem State.setQ_winLast (l : Loc) (c : Nat) (x : List Packet) : (s.setQ l c x).winLast = s.winLast := rfl
@[simp] theorem State.setQ_net_owed (l : Loc) (c : Nat) (x : List Packet) : (s.setQ l c x).net.owed = s.net.owed := rfl
@[simp] theorem State.setQ_net_ebars (l : Loc) (c : Nat) (x : List Packet) : (s.setQ l c x).net.ebars = s.net.ebars := rfl
@[simp] theorem State.setQ_net_brs (l : Loc) (c : Nat) (x : List Packet) : (s.setQ l c x).net.brs = s.net.brs := rfl
@[simp] theorem State.setQ_net_dbl (l : Loc) (c : Nat) (x : List Packet) : (s.setQ l c x).net.dbl = s.net.dbl := rfl
@[simp] theorem State.setQ_net_ezMgt (l : Loc) (c : Nat) (x : List Packet) : (s.setQ l c x).net.ezMgt = s.net.ezMgt := rfl
@[simp] theorem State.setQ_net_rsMgt (l : Loc) (c : Nat) (x : List Packet) : (s.setQ l c x).net.rsMgt = s.net.rsMgt := rfl

/-! ### push -/

@[simp] theorem State.push_pending (l : Loc) (c : Nat) (x : Packet) : (s.push l c x).pending = s.pending := rfl
@[simp] theorem State.push_build (l : Loc) (c : Nat) (x : Packet) : (s.push l c x).build = s.build := rfl
@[simp] theorem State.push_nonce (l : Loc) (c : Nat) (x : Packet) : (s.push l c x).nonce = s.nonce := rfl
@[simp] theorem State.push_outs (l : Loc) (c : Nat) (x : Packet) : (s.push l c x).outs = s.outs := rfl
@[simp] theorem State.push_clk (l : Loc) (c : Nat) (x : Packet) : (s.push l c x).clk = s.clk := rfl
@[simp] theorem State.push_host (l : Loc) (c : Nat) (x : Packet) : (s.push l c x).host = s.host := rfl
@[simp] theorem State.push_ez (l : Loc) (c : Nat) (x : Packet) : (s.push l c x).ez = s.ez := rfl
@[simp] theorem State.push_rgn (l : Loc) (c : Nat) (x : Packet) : (s.push l c x).rgn = s.rgn := rfl
@[simp] theorem State.push_ports (l : Loc) (c : Nat) (x : Packet) : (s.push l c x).ports = s.ports := rfl
@[simp] theorem State.push_routers (l : Loc) (c : Nat) (x : Packet) : (s.push l c x).routers = s.routers := rfl
@[simp] theorem State.push_panels (l : Loc) (c : Nat) (x : Packet) : (s.push l c x).panels = s.panels := rfl
@[simp] theorem State.push_mps (l : Loc) (c : Nat) (x : Packet) : (s.push l c x).mps = s.mps := rfl
@[simp] theorem State.push_rs (l : Loc) (c : Nat) (x : Packet) : (s.push l c x).rs = s.rs := rfl
@[simp] theorem State.push_ep (l : Loc) (c : Nat) (x : Packet) : (s.push l c x).ep = s.ep := rfl
@[simp] theorem State.push_tr (l : Loc) (c : Nat) (x : Packet) : (s.push l c x).tr = s.tr := rfl
@[simp] theorem State.push_w4 (l : Loc) (c : Nat) (x : Packet) : (s.push l c x).w4 = s.w4 := rfl
@[simp] theorem State.push_w6 (l : Loc) (c : Nat) (x : Packet) : (s.push l c x).w6 = s.w6 := rfl
@[simp] theorem State.push_hwSet (l : Loc) (c : Nat) (x : Packet) : (s.push l c x).hwSet = s.hwSet := rfl
@[simp] theorem State.push_bkNote (l : Loc) (c : Nat) (x : Packet) : (s.push l c x).bkNote = s.bkNote := rfl
@[simp] theorem State.push_st4 (l : Loc) (c : Nat) (x : Packet) : (s.push l c x).st4 = s.st4 := rfl
@[simp] theorem State.push_evOld (l : Loc) (c : Nat) (x : Packet) : (s.push l c x).evOld = s.evOld := rfl
@[simp] theorem State.push_winLast (l : Loc) (c : Nat) (x : Packet) : (s.push l c x).winLast = s.winLast := rfl

/-! ### owe -/

@[simp] theorem State.owe_pending (l : Loc) (c : Nat) : (s.owe l c).pending = s.pending := rfl
@[simp] theorem State.owe_build (l : Loc) (c : Nat) : (s.owe l c).build = s.build := rfl
@[simp] theorem State.owe_nonce (l : Loc) (c : Nat) : (s.owe l c).nonce = s.nonce := rfl
@[simp] theorem State.owe_outs (l : Loc) (c : Nat) : (s.owe l c).outs = s.outs := rfl
@[simp] theorem State.owe_clk (l : Loc) (c : Nat) : (s.owe l c).clk = s.clk := rfl
@[simp] theorem State.owe_host (l : Loc) (c : Nat) : (s.owe l c).host = s.host := rfl
@[simp] theorem State.owe_ez (l : Loc) (c : Nat) : (s.owe l c).ez = s.ez := rfl
@[simp] theorem State.owe_rgn (l : Loc) (c : Nat) : (s.owe l c).rgn = s.rgn := rfl
@[simp] theorem State.owe_ports (l : Loc) (c : Nat) : (s.owe l c).ports = s.ports := rfl
@[simp] theorem State.owe_routers (l : Loc) (c : Nat) : (s.owe l c).routers = s.routers := rfl
@[simp] theorem State.owe_panels (l : Loc) (c : Nat) : (s.owe l c).panels = s.panels := rfl
@[simp] theorem State.owe_mps (l : Loc) (c : Nat) : (s.owe l c).mps = s.mps := rfl
@[simp] theorem State.owe_rs (l : Loc) (c : Nat) : (s.owe l c).rs = s.rs := rfl
@[simp] theorem State.owe_ep (l : Loc) (c : Nat) : (s.owe l c).ep = s.ep := rfl
@[simp] theorem State.owe_tr (l : Loc) (c : Nat) : (s.owe l c).tr = s.tr := rfl
@[simp] theorem State.owe_w4 (l : Loc) (c : Nat) : (s.owe l c).w4 = s.w4 := rfl
@[simp] theorem State.owe_w6 (l : Loc) (c : Nat) : (s.owe l c).w6 = s.w6 := rfl
@[simp] theorem State.owe_hwSet (l : Loc) (c : Nat) : (s.owe l c).hwSet = s.hwSet := rfl
@[simp] theorem State.owe_bkNote (l : Loc) (c : Nat) : (s.owe l c).bkNote = s.bkNote := rfl
@[simp] theorem State.owe_st4 (l : Loc) (c : Nat) : (s.owe l c).st4 = s.st4 := rfl
@[simp] theorem State.owe_evOld (l : Loc) (c : Nat) : (s.owe l c).evOld = s.evOld := rfl
@[simp] theorem State.owe_winLast (l : Loc) (c : Nat) : (s.owe l c).winLast = s.winLast := rfl
@[simp] theorem State.owe_net_qs (l : Loc) (c : Nat) : (s.owe l c).net.qs = s.net.qs := rfl
@[simp] theorem State.owe_net_ebars (l : Loc) (c : Nat) : (s.owe l c).net.ebars = s.net.ebars := rfl
@[simp] theorem State.owe_net_brs (l : Loc) (c : Nat) : (s.owe l c).net.brs = s.net.brs := rfl
@[simp] theorem State.owe_net_dbl (l : Loc) (c : Nat) : (s.owe l c).net.dbl = s.net.dbl := rfl
@[simp] theorem State.owe_net_ezMgt (l : Loc) (c : Nat) : (s.owe l c).net.ezMgt = s.net.ezMgt := rfl
@[simp] theorem State.owe_net_rsMgt (l : Loc) (c : Nat) : (s.owe l c).net.rsMgt = s.net.rsMgt := rfl

/-! ### take -/

@[simp] theorem State.take_pending (l : Loc) (c : Nat) : (s.take l c).pending = s.pending := rfl
@[simp] theorem State.take_build (l : Loc) (c : Nat) : (s.take l c).build = s.build := rfl
@[simp] theorem State.take_nonce (l : Loc) (c : Nat) : (s.take l c).nonce = s.nonce := rfl
@[simp] theorem State.take_outs (l : Loc) (c : Nat) : (s.take l c).outs = s.outs := rfl
@[simp] theorem State.take_clk (l : Loc) (c : Nat) : (s.take l c).clk = s.clk := rfl
@[simp] theorem State.take_host (l : Loc) (c : Nat) : (s.take l c).host = s.host := rfl
@[simp] theorem State.take_ez (l : Loc) (c : Nat) : (s.take l c).ez = s.ez := rfl
@[simp] theorem State.take_rgn (l : Loc) (c : Nat) : (s.take l c).rgn = s.rgn := rfl
@[simp] theorem State.take_ports (l : Loc) (c : Nat) : (s.take l c).ports = s.ports := rfl
@[simp] theorem State.take_routers (l : Loc) (c : Nat) : (s.take l c).routers = s.routers := rfl
@[simp] theorem State.take_panels (l : Loc) (c : Nat) : (s.take l c).panels = s.panels := rfl
@[simp] theorem State.take_mps (l : Loc) (c : Nat) : (s.take l c).mps = s.mps := rfl
@[simp] theorem State.take_rs (l : Loc) (c : Nat) : (s.take l c).rs = s.rs := rfl
@[simp] theorem State.take_ep (l : Loc) (c : Nat) : (s.take l c).ep = s.ep := rfl
@[simp] theorem State.take_tr (l : Loc) (c : Nat) : (s.take l c).tr = s.tr := rfl
@[simp] theorem State.take_w4 (l : Loc) (c : Nat) : (s.take l c).w4 = s.w4 := rfl
@[simp] theorem State.take_w6 (l : Loc) (c : Nat) : (s.take l c).w6 = s.w6 := rfl
@[simp] theorem State.take_hwSet (l : Loc) (c : Nat) : (s.take l c).hwSet = s.hwSet := rfl
@[simp] theorem State.take_bkNote (l : Loc) (c : Nat) : (s.take l c).bkNote = s.bkNote := rfl
@[simp] theorem State.take_st4 (l : Loc) (c : Nat) : (s.take l c).st4 = s.st4 := rfl
@[simp] theorem State.take_evOld (l : Loc) (c : Nat) : (s.take l c).evOld = s.evOld := rfl
@[simp] theorem State.take_winLast (l : Loc) (c : Nat) : (s.take l c).winLast = s.winLast := rfl

/-! ### addInj -/

@[simp] theorem State.addInj_pending (r e : Nat) (n : BitVec 32) : (s.addInj r e n).pending = s.pending := rfl
@[simp] theorem State.addInj_build (r e : Nat) (n : BitVec 32) : (s.addInj r e n).build = s.build := rfl
@[simp] theorem State.addInj_nonce (r e : Nat) (n : BitVec 32) : (s.addInj r e n).nonce = s.nonce := rfl
@[simp] theorem State.addInj_outs (r e : Nat) (n : BitVec 32) : (s.addInj r e n).outs = s.outs := rfl
@[simp] theorem State.addInj_clk (r e : Nat) (n : BitVec 32) : (s.addInj r e n).clk = s.clk := rfl
@[simp] theorem State.addInj_host (r e : Nat) (n : BitVec 32) : (s.addInj r e n).host = s.host := rfl
@[simp] theorem State.addInj_ez (r e : Nat) (n : BitVec 32) : (s.addInj r e n).ez = s.ez := rfl
@[simp] theorem State.addInj_rgn (r e : Nat) (n : BitVec 32) : (s.addInj r e n).rgn = s.rgn := rfl
@[simp] theorem State.addInj_ports (r e : Nat) (n : BitVec 32) : (s.addInj r e n).ports = s.ports := rfl
@[simp] theorem State.addInj_net (r e : Nat) (n : BitVec 32) : (s.addInj r e n).net = s.net := rfl
@[simp] theorem State.addInj_panels (r e : Nat) (n : BitVec 32) : (s.addInj r e n).panels = s.panels := rfl
@[simp] theorem State.addInj_mps (r e : Nat) (n : BitVec 32) : (s.addInj r e n).mps = s.mps := rfl
@[simp] theorem State.addInj_rs (r e : Nat) (n : BitVec 32) : (s.addInj r e n).rs = s.rs := rfl
@[simp] theorem State.addInj_ep (r e : Nat) (n : BitVec 32) : (s.addInj r e n).ep = s.ep := rfl
@[simp] theorem State.addInj_tr (r e : Nat) (n : BitVec 32) : (s.addInj r e n).tr = s.tr := rfl
@[simp] theorem State.addInj_w4 (r e : Nat) (n : BitVec 32) : (s.addInj r e n).w4 = s.w4 := rfl
@[simp] theorem State.addInj_w6 (r e : Nat) (n : BitVec 32) : (s.addInj r e n).w6 = s.w6 := rfl
@[simp] theorem State.addInj_hwSet (r e : Nat) (n : BitVec 32) : (s.addInj r e n).hwSet = s.hwSet := rfl
@[simp] theorem State.addInj_bkNote (r e : Nat) (n : BitVec 32) : (s.addInj r e n).bkNote = s.bkNote := rfl
@[simp] theorem State.addInj_st4 (r e : Nat) (n : BitVec 32) : (s.addInj r e n).st4 = s.st4 := rfl
@[simp] theorem State.addInj_evOld (r e : Nat) (n : BitVec 32) : (s.addInj r e n).evOld = s.evOld := rfl
@[simp] theorem State.addInj_winLast (r e : Nat) (n : BitVec 32) : (s.addInj r e n).winLast = s.winLast := rfl

/-! ### addEj -/

@[simp] theorem State.addEj_pending (r e : Nat) (n : BitVec 32) : (s.addEj r e n).pending = s.pending := rfl
@[simp] theorem State.addEj_build (r e : Nat) (n : BitVec 32) : (s.addEj r e n).build = s.build := rfl
@[simp] theorem State.addEj_nonce (r e : Nat) (n : BitVec 32) : (s.addEj r e n).nonce = s.nonce := rfl
@[simp] theorem State.addEj_outs (r e : Nat) (n : BitVec 32) : (s.addEj r e n).outs = s.outs := rfl
@[simp] theorem State.addEj_clk (r e : Nat) (n : BitVec 32) : (s.addEj r e n).clk = s.clk := rfl
@[simp] theorem State.addEj_host (r e : Nat) (n : BitVec 32) : (s.addEj r e n).host = s.host := rfl
@[simp] theorem State.addEj_ez (r e : Nat) (n : BitVec 32) : (s.addEj r e n).ez = s.ez := rfl
@[simp] theorem State.addEj_rgn (r e : Nat) (n : BitVec 32) : (s.addEj r e n).rgn = s.rgn := rfl
@[simp] theorem State.addEj_ports (r e : Nat) (n : BitVec 32) : (s.addEj r e n).ports = s.ports := rfl
@[simp] theorem State.addEj_net (r e : Nat) (n : BitVec 32) : (s.addEj r e n).net = s.net := rfl
@[simp] theorem State.addEj_panels (r e : Nat) (n : BitVec 32) : (s.addEj r e n).panels = s.panels := rfl
@[simp] theorem State.addEj_mps (r e : Nat) (n : BitVec 32) : (s.addEj r e n).mps = s.mps := rfl
@[simp] theorem State.addEj_rs (r e : Nat) (n : BitVec 32) : (s.addEj r e n).rs = s.rs := rfl
@[simp] theorem State.addEj_ep (r e : Nat) (n : BitVec 32) : (s.addEj r e n).ep = s.ep := rfl
@[simp] theorem State.addEj_tr (r e : Nat) (n : BitVec 32) : (s.addEj r e n).tr = s.tr := rfl
@[simp] theorem State.addEj_w4 (r e : Nat) (n : BitVec 32) : (s.addEj r e n).w4 = s.w4 := rfl
@[simp] theorem State.addEj_w6 (r e : Nat) (n : BitVec 32) : (s.addEj r e n).w6 = s.w6 := rfl
@[simp] theorem State.addEj_hwSet (r e : Nat) (n : BitVec 32) : (s.addEj r e n).hwSet = s.hwSet := rfl
@[simp] theorem State.addEj_bkNote (r e : Nat) (n : BitVec 32) : (s.addEj r e n).bkNote = s.bkNote := rfl
@[simp] theorem State.addEj_st4 (r e : Nat) (n : BitVec 32) : (s.addEj r e n).st4 = s.st4 := rfl
@[simp] theorem State.addEj_evOld (r e : Nat) (n : BitVec 32) : (s.addEj r e n).evOld = s.evOld := rfl
@[simp] theorem State.addEj_winLast (r e : Nat) (n : BitVec 32) : (s.addEj r e n).winLast = s.winLast := rfl

/-! ### setRgn -/

@[simp] theorem State.setRgn_pending (i : Nat) (v : BitVec 64) : (s.setRgn i v).pending = s.pending := rfl
@[simp] theorem State.setRgn_build (i : Nat) (v : BitVec 64) : (s.setRgn i v).build = s.build := rfl
@[simp] theorem State.setRgn_nonce (i : Nat) (v : BitVec 64) : (s.setRgn i v).nonce = s.nonce := rfl
@[simp] theorem State.setRgn_outs (i : Nat) (v : BitVec 64) : (s.setRgn i v).outs = s.outs := rfl
@[simp] theorem State.setRgn_clk (i : Nat) (v : BitVec 64) : (s.setRgn i v).clk = s.clk := rfl
@[simp] theorem State.setRgn_host (i : Nat) (v : BitVec 64) : (s.setRgn i v).host = s.host := rfl
@[simp] theorem State.setRgn_ez (i : Nat) (v : BitVec 64) : (s.setRgn i v).ez = s.ez := rfl
@[simp] theorem State.setRgn_ports (i : Nat) (v : BitVec 64) : (s.setRgn i v).ports = s.ports := rfl
@[simp] theorem State.setRgn_routers (i : Nat) (v : BitVec 64) : (s.setRgn i v).routers = s.routers := rfl
@[simp] theorem State.setRgn_net (i : Nat) (v : BitVec 64) : (s.setRgn i v).net = s.net := rfl
@[simp] theorem State.setRgn_panels (i : Nat) (v : BitVec 64) : (s.setRgn i v).panels = s.panels := rfl
@[simp] theorem State.setRgn_mps (i : Nat) (v : BitVec 64) : (s.setRgn i v).mps = s.mps := rfl
@[simp] theorem State.setRgn_rs (i : Nat) (v : BitVec 64) : (s.setRgn i v).rs = s.rs := rfl
@[simp] theorem State.setRgn_ep (i : Nat) (v : BitVec 64) : (s.setRgn i v).ep = s.ep := rfl
@[simp] theorem State.setRgn_tr (i : Nat) (v : BitVec 64) : (s.setRgn i v).tr = s.tr := rfl
@[simp] theorem State.setRgn_w4 (i : Nat) (v : BitVec 64) : (s.setRgn i v).w4 = s.w4 := rfl
@[simp] theorem State.setRgn_w6 (i : Nat) (v : BitVec 64) : (s.setRgn i v).w6 = s.w6 := rfl
@[simp] theorem State.setRgn_hwSet (i : Nat) (v : BitVec 64) : (s.setRgn i v).hwSet = s.hwSet := rfl
@[simp] theorem State.setRgn_bkNote (i : Nat) (v : BitVec 64) : (s.setRgn i v).bkNote = s.bkNote := rfl
@[simp] theorem State.setRgn_st4 (i : Nat) (v : BitVec 64) : (s.setRgn i v).st4 = s.st4 := rfl
@[simp] theorem State.setRgn_evOld (i : Nat) (v : BitVec 64) : (s.setRgn i v).evOld = s.evOld := rfl
@[simp] theorem State.setRgn_winLast (i : Nat) (v : BitVec 64) : (s.setRgn i v).winLast = s.winLast := rfl

/-! ### locPut -/

@[simp] theorem State.locPut_pending (i v : Nat) : (s.locPut i v).pending = s.pending := rfl
@[simp] theorem State.locPut_build (i v : Nat) : (s.locPut i v).build = s.build := rfl
@[simp] theorem State.locPut_nonce (i v : Nat) : (s.locPut i v).nonce = s.nonce := rfl
@[simp] theorem State.locPut_outs (i v : Nat) : (s.locPut i v).outs = s.outs := rfl
@[simp] theorem State.locPut_clk (i v : Nat) : (s.locPut i v).clk = s.clk := rfl
@[simp] theorem State.locPut_host (i v : Nat) : (s.locPut i v).host = s.host := rfl
@[simp] theorem State.locPut_rgn (i v : Nat) : (s.locPut i v).rgn = s.rgn := rfl
@[simp] theorem State.locPut_ports (i v : Nat) : (s.locPut i v).ports = s.ports := rfl
@[simp] theorem State.locPut_routers (i v : Nat) : (s.locPut i v).routers = s.routers := rfl
@[simp] theorem State.locPut_net (i v : Nat) : (s.locPut i v).net = s.net := rfl
@[simp] theorem State.locPut_panels (i v : Nat) : (s.locPut i v).panels = s.panels := rfl
@[simp] theorem State.locPut_mps (i v : Nat) : (s.locPut i v).mps = s.mps := rfl
@[simp] theorem State.locPut_rs (i v : Nat) : (s.locPut i v).rs = s.rs := rfl
@[simp] theorem State.locPut_ep (i v : Nat) : (s.locPut i v).ep = s.ep := rfl
@[simp] theorem State.locPut_tr (i v : Nat) : (s.locPut i v).tr = s.tr := rfl
@[simp] theorem State.locPut_w4 (i v : Nat) : (s.locPut i v).w4 = s.w4 := rfl
@[simp] theorem State.locPut_w6 (i v : Nat) : (s.locPut i v).w6 = s.w6 := rfl
@[simp] theorem State.locPut_hwSet (i v : Nat) : (s.locPut i v).hwSet = s.hwSet := rfl
@[simp] theorem State.locPut_bkNote (i v : Nat) : (s.locPut i v).bkNote = s.bkNote := rfl
@[simp] theorem State.locPut_st4 (i v : Nat) : (s.locPut i v).st4 = s.st4 := rfl
@[simp] theorem State.locPut_evOld (i v : Nat) : (s.locPut i v).evOld = s.evOld := rfl
@[simp] theorem State.locPut_winLast (i v : Nat) : (s.locPut i v).winLast = s.winLast := rfl
@[simp] theorem State.locPut_ez_ctx (i v : Nat) : (s.locPut i v).ez.ctx = s.ez.ctx := rfl
@[simp] theorem State.locPut_ez_events (i v : Nat) : (s.locPut i v).ez.events = s.ez.events := rfl
@[simp] theorem State.locPut_ez_ops (i v : Nat) : (s.locPut i v).ez.ops = s.ez.ops := rfl
@[simp] theorem State.locPut_ez_opSeq (i v : Nat) : (s.locPut i v).ez.opSeq = s.ez.opSeq := rfl
@[simp] theorem State.locPut_ez_memOut (i v : Nat) : (s.locPut i v).ez.memOut = s.ez.memOut := rfl
@[simp] theorem State.locPut_ez_everRegion (i v : Nat) : (s.locPut i v).ez.everRegion = s.ez.everRegion := rfl
@[simp] theorem State.locPut_ez_last (i v : Nat) : (s.locPut i v).ez.last = s.ez.last := rfl
@[simp] theorem State.locPut_ez_tswap (i v : Nat) : (s.locPut i v).ez.tswap = s.ez.tswap := rfl
@[simp] theorem State.locPut_ez_asks (i v : Nat) : (s.locPut i v).ez.asks = s.ez.asks := rfl

/-! ### ephPut -/

@[simp] theorem State.ephPut_pending (i v : Nat) : (s.ephPut i v).pending = s.pending := rfl
@[simp] theorem State.ephPut_build (i v : Nat) : (s.ephPut i v).build = s.build := rfl
@[simp] theorem State.ephPut_nonce (i v : Nat) : (s.ephPut i v).nonce = s.nonce := rfl
@[simp] theorem State.ephPut_outs (i v : Nat) : (s.ephPut i v).outs = s.outs := rfl
@[simp] theorem State.ephPut_clk (i v : Nat) : (s.ephPut i v).clk = s.clk := rfl
@[simp] theorem State.ephPut_host (i v : Nat) : (s.ephPut i v).host = s.host := rfl
@[simp] theorem State.ephPut_ez (i v : Nat) : (s.ephPut i v).ez = s.ez := rfl
@[simp] theorem State.ephPut_rgn (i v : Nat) : (s.ephPut i v).rgn = s.rgn := rfl
@[simp] theorem State.ephPut_ports (i v : Nat) : (s.ephPut i v).ports = s.ports := rfl
@[simp] theorem State.ephPut_routers (i v : Nat) : (s.ephPut i v).routers = s.routers := rfl
@[simp] theorem State.ephPut_net (i v : Nat) : (s.ephPut i v).net = s.net := rfl
@[simp] theorem State.ephPut_panels (i v : Nat) : (s.ephPut i v).panels = s.panels := rfl
@[simp] theorem State.ephPut_mps (i v : Nat) : (s.ephPut i v).mps = s.mps := rfl
@[simp] theorem State.ephPut_rs (i v : Nat) : (s.ephPut i v).rs = s.rs := rfl
@[simp] theorem State.ephPut_tr (i v : Nat) : (s.ephPut i v).tr = s.tr := rfl
@[simp] theorem State.ephPut_w4 (i v : Nat) : (s.ephPut i v).w4 = s.w4 := rfl
@[simp] theorem State.ephPut_w6 (i v : Nat) : (s.ephPut i v).w6 = s.w6 := rfl
@[simp] theorem State.ephPut_hwSet (i v : Nat) : (s.ephPut i v).hwSet = s.hwSet := rfl
@[simp] theorem State.ephPut_bkNote (i v : Nat) : (s.ephPut i v).bkNote = s.bkNote := rfl
@[simp] theorem State.ephPut_st4 (i v : Nat) : (s.ephPut i v).st4 = s.st4 := rfl
@[simp] theorem State.ephPut_evOld (i v : Nat) : (s.ephPut i v).evOld = s.evOld := rfl
@[simp] theorem State.ephPut_winLast (i v : Nat) : (s.ephPut i v).winLast = s.winLast := rfl
@[simp] theorem State.ephPut_ep_staging (i v : Nat) : (s.ephPut i v).ep.staging = s.ep.staging := rfl
@[simp] theorem State.ephPut_ep_cals (i v : Nat) : (s.ephPut i v).ep.cals = s.ep.cals := rfl
@[simp] theorem State.ephPut_ep_held (i v : Nat) : (s.ephPut i v).ep.held = s.ep.held := rfl
@[simp] theorem State.ephPut_ep_job (i v : Nat) : (s.ephPut i v).ep.job = s.ep.job := rfl
@[simp] theorem State.ephPut_ep_trigger (i v : Nat) : (s.ephPut i v).ep.trigger = s.ep.trigger := rfl
@[simp] theorem State.ephPut_ep_slots (i v : Nat) : (s.ephPut i v).ep.slots = s.ep.slots := rfl
@[simp] theorem State.ephPut_ep_memOut (i v : Nat) : (s.ephPut i v).ep.memOut = s.ep.memOut := rfl

/-! ### setG -/

@[simp] theorem State.setG_pending (r i : Nat) (v : BitVec 64) : (s.setG r i v).pending = s.pending := rfl
@[simp] theorem State.setG_build (r i : Nat) (v : BitVec 64) : (s.setG r i v).build = s.build := rfl
@[simp] theorem State.setG_nonce (r i : Nat) (v : BitVec 64) : (s.setG r i v).nonce = s.nonce := rfl
@[simp] theorem State.setG_outs (r i : Nat) (v : BitVec 64) : (s.setG r i v).outs = s.outs := rfl
@[simp] theorem State.setG_clk (r i : Nat) (v : BitVec 64) : (s.setG r i v).clk = s.clk := rfl
@[simp] theorem State.setG_host (r i : Nat) (v : BitVec 64) : (s.setG r i v).host = s.host := rfl
@[simp] theorem State.setG_rgn (r i : Nat) (v : BitVec 64) : (s.setG r i v).rgn = s.rgn := rfl
@[simp] theorem State.setG_ports (r i : Nat) (v : BitVec 64) : (s.setG r i v).ports = s.ports := rfl
@[simp] theorem State.setG_routers (r i : Nat) (v : BitVec 64) : (s.setG r i v).routers = s.routers := rfl
@[simp] theorem State.setG_net (r i : Nat) (v : BitVec 64) : (s.setG r i v).net = s.net := rfl
@[simp] theorem State.setG_panels (r i : Nat) (v : BitVec 64) : (s.setG r i v).panels = s.panels := rfl
@[simp] theorem State.setG_mps (r i : Nat) (v : BitVec 64) : (s.setG r i v).mps = s.mps := rfl
@[simp] theorem State.setG_rs (r i : Nat) (v : BitVec 64) : (s.setG r i v).rs = s.rs := rfl
@[simp] theorem State.setG_ep (r i : Nat) (v : BitVec 64) : (s.setG r i v).ep = s.ep := rfl
@[simp] theorem State.setG_tr (r i : Nat) (v : BitVec 64) : (s.setG r i v).tr = s.tr := rfl
@[simp] theorem State.setG_w4 (r i : Nat) (v : BitVec 64) : (s.setG r i v).w4 = s.w4 := rfl
@[simp] theorem State.setG_w6 (r i : Nat) (v : BitVec 64) : (s.setG r i v).w6 = s.w6 := rfl
@[simp] theorem State.setG_hwSet (r i : Nat) (v : BitVec 64) : (s.setG r i v).hwSet = s.hwSet := rfl
@[simp] theorem State.setG_bkNote (r i : Nat) (v : BitVec 64) : (s.setG r i v).bkNote = s.bkNote := rfl
@[simp] theorem State.setG_st4 (r i : Nat) (v : BitVec 64) : (s.setG r i v).st4 = s.st4 := rfl
@[simp] theorem State.setG_evOld (r i : Nat) (v : BitVec 64) : (s.setG r i v).evOld = s.evOld := rfl
@[simp] theorem State.setG_winLast (r i : Nat) (v : BitVec 64) : (s.setG r i v).winLast = s.winLast := rfl

/-! ### modOp -/

@[simp] theorem State.modOp_pending (r : Nat) (f : MOp → MOp) : (s.modOp r f).pending = s.pending := rfl
@[simp] theorem State.modOp_build (r : Nat) (f : MOp → MOp) : (s.modOp r f).build = s.build := rfl
@[simp] theorem State.modOp_nonce (r : Nat) (f : MOp → MOp) : (s.modOp r f).nonce = s.nonce := rfl
@[simp] theorem State.modOp_outs (r : Nat) (f : MOp → MOp) : (s.modOp r f).outs = s.outs := rfl
@[simp] theorem State.modOp_clk (r : Nat) (f : MOp → MOp) : (s.modOp r f).clk = s.clk := rfl
@[simp] theorem State.modOp_host (r : Nat) (f : MOp → MOp) : (s.modOp r f).host = s.host := rfl
@[simp] theorem State.modOp_rgn (r : Nat) (f : MOp → MOp) : (s.modOp r f).rgn = s.rgn := rfl
@[simp] theorem State.modOp_ports (r : Nat) (f : MOp → MOp) : (s.modOp r f).ports = s.ports := rfl
@[simp] theorem State.modOp_routers (r : Nat) (f : MOp → MOp) : (s.modOp r f).routers = s.routers := rfl
@[simp] theorem State.modOp_net (r : Nat) (f : MOp → MOp) : (s.modOp r f).net = s.net := rfl
@[simp] theorem State.modOp_panels (r : Nat) (f : MOp → MOp) : (s.modOp r f).panels = s.panels := rfl
@[simp] theorem State.modOp_mps (r : Nat) (f : MOp → MOp) : (s.modOp r f).mps = s.mps := rfl
@[simp] theorem State.modOp_rs (r : Nat) (f : MOp → MOp) : (s.modOp r f).rs = s.rs := rfl
@[simp] theorem State.modOp_ep (r : Nat) (f : MOp → MOp) : (s.modOp r f).ep = s.ep := rfl
@[simp] theorem State.modOp_tr (r : Nat) (f : MOp → MOp) : (s.modOp r f).tr = s.tr := rfl
@[simp] theorem State.modOp_w4 (r : Nat) (f : MOp → MOp) : (s.modOp r f).w4 = s.w4 := rfl
@[simp] theorem State.modOp_w6 (r : Nat) (f : MOp → MOp) : (s.modOp r f).w6 = s.w6 := rfl
@[simp] theorem State.modOp_hwSet (r : Nat) (f : MOp → MOp) : (s.modOp r f).hwSet = s.hwSet := rfl
@[simp] theorem State.modOp_bkNote (r : Nat) (f : MOp → MOp) : (s.modOp r f).bkNote = s.bkNote := rfl
@[simp] theorem State.modOp_st4 (r : Nat) (f : MOp → MOp) : (s.modOp r f).st4 = s.st4 := rfl
@[simp] theorem State.modOp_evOld (r : Nat) (f : MOp → MOp) : (s.modOp r f).evOld = s.evOld := rfl
@[simp] theorem State.modOp_winLast (r : Nat) (f : MOp → MOp) : (s.modOp r f).winLast = s.winLast := rfl
@[simp] theorem State.modOp_ez_ctx (r : Nat) (f : MOp → MOp) : (s.modOp r f).ez.ctx = s.ez.ctx := rfl
@[simp] theorem State.modOp_ez_events (r : Nat) (f : MOp → MOp) : (s.modOp r f).ez.events = s.ez.events := rfl
@[simp] theorem State.modOp_ez_loc (r : Nat) (f : MOp → MOp) : (s.modOp r f).ez.loc = s.ez.loc := rfl
@[simp] theorem State.modOp_ez_opSeq (r : Nat) (f : MOp → MOp) : (s.modOp r f).ez.opSeq = s.ez.opSeq := rfl
@[simp] theorem State.modOp_ez_memOut (r : Nat) (f : MOp → MOp) : (s.modOp r f).ez.memOut = s.ez.memOut := rfl
@[simp] theorem State.modOp_ez_everRegion (r : Nat) (f : MOp → MOp) : (s.modOp r f).ez.everRegion = s.ez.everRegion := rfl
@[simp] theorem State.modOp_ez_last (r : Nat) (f : MOp → MOp) : (s.modOp r f).ez.last = s.ez.last := rfl
@[simp] theorem State.modOp_ez_tswap (r : Nat) (f : MOp → MOp) : (s.modOp r f).ez.tswap = s.ez.tswap := rfl
@[simp] theorem State.modOp_ez_asks (r : Nat) (f : MOp → MOp) : (s.modOp r f).ez.asks = s.ez.asks := rfl

/-! ### opDone -/

@[simp] theorem State.opDone_pending (r st : Nat) : (s.opDone r st).pending = s.pending := rfl
@[simp] theorem State.opDone_build (r st : Nat) : (s.opDone r st).build = s.build := rfl
@[simp] theorem State.opDone_nonce (r st : Nat) : (s.opDone r st).nonce = s.nonce := rfl
@[simp] theorem State.opDone_outs (r st : Nat) : (s.opDone r st).outs = s.outs := rfl
@[simp] theorem State.opDone_clk (r st : Nat) : (s.opDone r st).clk = s.clk := rfl
@[simp] theorem State.opDone_host (r st : Nat) : (s.opDone r st).host = s.host := rfl
@[simp] theorem State.opDone_rgn (r st : Nat) : (s.opDone r st).rgn = s.rgn := rfl
@[simp] theorem State.opDone_ports (r st : Nat) : (s.opDone r st).ports = s.ports := rfl
@[simp] theorem State.opDone_routers (r st : Nat) : (s.opDone r st).routers = s.routers := rfl
@[simp] theorem State.opDone_net (r st : Nat) : (s.opDone r st).net = s.net := rfl
@[simp] theorem State.opDone_panels (r st : Nat) : (s.opDone r st).panels = s.panels := rfl
@[simp] theorem State.opDone_mps (r st : Nat) : (s.opDone r st).mps = s.mps := rfl
@[simp] theorem State.opDone_rs (r st : Nat) : (s.opDone r st).rs = s.rs := rfl
@[simp] theorem State.opDone_ep (r st : Nat) : (s.opDone r st).ep = s.ep := rfl
@[simp] theorem State.opDone_tr (r st : Nat) : (s.opDone r st).tr = s.tr := rfl
@[simp] theorem State.opDone_w4 (r st : Nat) : (s.opDone r st).w4 = s.w4 := rfl
@[simp] theorem State.opDone_w6 (r st : Nat) : (s.opDone r st).w6 = s.w6 := rfl
@[simp] theorem State.opDone_hwSet (r st : Nat) : (s.opDone r st).hwSet = s.hwSet := rfl
@[simp] theorem State.opDone_bkNote (r st : Nat) : (s.opDone r st).bkNote = s.bkNote := rfl
@[simp] theorem State.opDone_st4 (r st : Nat) : (s.opDone r st).st4 = s.st4 := rfl
@[simp] theorem State.opDone_evOld (r st : Nat) : (s.opDone r st).evOld = s.evOld := rfl
@[simp] theorem State.opDone_winLast (r st : Nat) : (s.opDone r st).winLast = s.winLast := rfl

/-! ### ezDone -/

@[simp] theorem State.ezDone_pending (r len : Nat) : (s.ezDone r len).pending = s.pending := rfl
@[simp] theorem State.ezDone_build (r len : Nat) : (s.ezDone r len).build = s.build := rfl
@[simp] theorem State.ezDone_nonce (r len : Nat) : (s.ezDone r len).nonce = s.nonce := rfl
@[simp] theorem State.ezDone_outs (r len : Nat) : (s.ezDone r len).outs = s.outs := rfl
@[simp] theorem State.ezDone_clk (r len : Nat) : (s.ezDone r len).clk = s.clk := rfl
@[simp] theorem State.ezDone_host (r len : Nat) : (s.ezDone r len).host = s.host := rfl
@[simp] theorem State.ezDone_rgn (r len : Nat) : (s.ezDone r len).rgn = s.rgn := rfl
@[simp] theorem State.ezDone_ports (r len : Nat) : (s.ezDone r len).ports = s.ports := rfl
@[simp] theorem State.ezDone_routers (r len : Nat) : (s.ezDone r len).routers = s.routers := rfl
@[simp] theorem State.ezDone_net (r len : Nat) : (s.ezDone r len).net = s.net := rfl
@[simp] theorem State.ezDone_panels (r len : Nat) : (s.ezDone r len).panels = s.panels := rfl
@[simp] theorem State.ezDone_mps (r len : Nat) : (s.ezDone r len).mps = s.mps := rfl
@[simp] theorem State.ezDone_rs (r len : Nat) : (s.ezDone r len).rs = s.rs := rfl
@[simp] theorem State.ezDone_ep (r len : Nat) : (s.ezDone r len).ep = s.ep := rfl
@[simp] theorem State.ezDone_tr (r len : Nat) : (s.ezDone r len).tr = s.tr := rfl
@[simp] theorem State.ezDone_w4 (r len : Nat) : (s.ezDone r len).w4 = s.w4 := rfl
@[simp] theorem State.ezDone_w6 (r len : Nat) : (s.ezDone r len).w6 = s.w6 := rfl
@[simp] theorem State.ezDone_hwSet (r len : Nat) : (s.ezDone r len).hwSet = s.hwSet := rfl
@[simp] theorem State.ezDone_bkNote (r len : Nat) : (s.ezDone r len).bkNote = s.bkNote := rfl
@[simp] theorem State.ezDone_st4 (r len : Nat) : (s.ezDone r len).st4 = s.st4 := rfl
@[simp] theorem State.ezDone_evOld (r len : Nat) : (s.ezDone r len).evOld = s.evOld := rfl
@[simp] theorem State.ezDone_winLast (r len : Nat) : (s.ezDone r len).winLast = s.winLast := rfl

/-! ### ezJump -/

@[simp] theorem State.ezJump_pending (r : Nat) (pc : BitVec 64) : (s.ezJump r pc).pending = s.pending := rfl
@[simp] theorem State.ezJump_build (r : Nat) (pc : BitVec 64) : (s.ezJump r pc).build = s.build := rfl
@[simp] theorem State.ezJump_nonce (r : Nat) (pc : BitVec 64) : (s.ezJump r pc).nonce = s.nonce := rfl
@[simp] theorem State.ezJump_outs (r : Nat) (pc : BitVec 64) : (s.ezJump r pc).outs = s.outs := rfl
@[simp] theorem State.ezJump_clk (r : Nat) (pc : BitVec 64) : (s.ezJump r pc).clk = s.clk := rfl
@[simp] theorem State.ezJump_host (r : Nat) (pc : BitVec 64) : (s.ezJump r pc).host = s.host := rfl
@[simp] theorem State.ezJump_rgn (r : Nat) (pc : BitVec 64) : (s.ezJump r pc).rgn = s.rgn := rfl
@[simp] theorem State.ezJump_ports (r : Nat) (pc : BitVec 64) : (s.ezJump r pc).ports = s.ports := rfl
@[simp] theorem State.ezJump_routers (r : Nat) (pc : BitVec 64) : (s.ezJump r pc).routers = s.routers := rfl
@[simp] theorem State.ezJump_net (r : Nat) (pc : BitVec 64) : (s.ezJump r pc).net = s.net := rfl
@[simp] theorem State.ezJump_panels (r : Nat) (pc : BitVec 64) : (s.ezJump r pc).panels = s.panels := rfl
@[simp] theorem State.ezJump_mps (r : Nat) (pc : BitVec 64) : (s.ezJump r pc).mps = s.mps := rfl
@[simp] theorem State.ezJump_rs (r : Nat) (pc : BitVec 64) : (s.ezJump r pc).rs = s.rs := rfl
@[simp] theorem State.ezJump_ep (r : Nat) (pc : BitVec 64) : (s.ezJump r pc).ep = s.ep := rfl
@[simp] theorem State.ezJump_tr (r : Nat) (pc : BitVec 64) : (s.ezJump r pc).tr = s.tr := rfl
@[simp] theorem State.ezJump_w4 (r : Nat) (pc : BitVec 64) : (s.ezJump r pc).w4 = s.w4 := rfl
@[simp] theorem State.ezJump_w6 (r : Nat) (pc : BitVec 64) : (s.ezJump r pc).w6 = s.w6 := rfl
@[simp] theorem State.ezJump_hwSet (r : Nat) (pc : BitVec 64) : (s.ezJump r pc).hwSet = s.hwSet := rfl
@[simp] theorem State.ezJump_bkNote (r : Nat) (pc : BitVec 64) : (s.ezJump r pc).bkNote = s.bkNote := rfl
@[simp] theorem State.ezJump_st4 (r : Nat) (pc : BitVec 64) : (s.ezJump r pc).st4 = s.st4 := rfl
@[simp] theorem State.ezJump_evOld (r : Nat) (pc : BitVec 64) : (s.ezJump r pc).evOld = s.evOld := rfl
@[simp] theorem State.ezJump_winLast (r : Nat) (pc : BitVec 64) : (s.ezJump r pc).winLast = s.winLast := rfl

/-! ### ezClaim -/

@[simp] theorem State.ezClaim_pending (r : Nat) : (s.ezClaim r).pending = s.pending := rfl
@[simp] theorem State.ezClaim_build (r : Nat) : (s.ezClaim r).build = s.build := rfl
@[simp] theorem State.ezClaim_nonce (r : Nat) : (s.ezClaim r).nonce = s.nonce := rfl
@[simp] theorem State.ezClaim_outs (r : Nat) : (s.ezClaim r).outs = s.outs := rfl
@[simp] theorem State.ezClaim_clk (r : Nat) : (s.ezClaim r).clk = s.clk := rfl
@[simp] theorem State.ezClaim_host (r : Nat) : (s.ezClaim r).host = s.host := rfl
@[simp] theorem State.ezClaim_rgn (r : Nat) : (s.ezClaim r).rgn = s.rgn := rfl
@[simp] theorem State.ezClaim_ports (r : Nat) : (s.ezClaim r).ports = s.ports := rfl
@[simp] theorem State.ezClaim_routers (r : Nat) : (s.ezClaim r).routers = s.routers := rfl
@[simp] theorem State.ezClaim_net (r : Nat) : (s.ezClaim r).net = s.net := rfl
@[simp] theorem State.ezClaim_panels (r : Nat) : (s.ezClaim r).panels = s.panels := rfl
@[simp] theorem State.ezClaim_mps (r : Nat) : (s.ezClaim r).mps = s.mps := rfl
@[simp] theorem State.ezClaim_rs (r : Nat) : (s.ezClaim r).rs = s.rs := rfl
@[simp] theorem State.ezClaim_ep (r : Nat) : (s.ezClaim r).ep = s.ep := rfl
@[simp] theorem State.ezClaim_tr (r : Nat) : (s.ezClaim r).tr = s.tr := rfl
@[simp] theorem State.ezClaim_w4 (r : Nat) : (s.ezClaim r).w4 = s.w4 := rfl
@[simp] theorem State.ezClaim_w6 (r : Nat) : (s.ezClaim r).w6 = s.w6 := rfl
@[simp] theorem State.ezClaim_hwSet (r : Nat) : (s.ezClaim r).hwSet = s.hwSet := rfl
@[simp] theorem State.ezClaim_bkNote (r : Nat) : (s.ezClaim r).bkNote = s.bkNote := rfl
@[simp] theorem State.ezClaim_st4 (r : Nat) : (s.ezClaim r).st4 = s.st4 := rfl
@[simp] theorem State.ezClaim_evOld (r : Nat) : (s.ezClaim r).evOld = s.evOld := rfl
@[simp] theorem State.ezClaim_winLast (r : Nat) : (s.ezClaim r).winLast = s.winLast := rfl
@[simp] theorem State.ezClaim_ez_events (r : Nat) : (s.ezClaim r).ez.events = s.ez.events := rfl
@[simp] theorem State.ezClaim_ez_loc (r : Nat) : (s.ezClaim r).ez.loc = s.ez.loc := rfl
@[simp] theorem State.ezClaim_ez_ops (r : Nat) : (s.ezClaim r).ez.ops = s.ez.ops := rfl
@[simp] theorem State.ezClaim_ez_opSeq (r : Nat) : (s.ezClaim r).ez.opSeq = s.ez.opSeq := rfl
@[simp] theorem State.ezClaim_ez_memOut (r : Nat) : (s.ezClaim r).ez.memOut = s.ez.memOut := rfl
@[simp] theorem State.ezClaim_ez_everRegion (r : Nat) : (s.ezClaim r).ez.everRegion = s.ez.everRegion := rfl
@[simp] theorem State.ezClaim_ez_tswap (r : Nat) : (s.ezClaim r).ez.tswap = s.ez.tswap := rfl
@[simp] theorem State.ezClaim_ez_asks (r : Nat) : (s.ezClaim r).ez.asks = s.ez.asks := rfl

/-! ### Reading back -/

@[simp] theorem State.port_setPort (n : Nat) (x : Port) : (s.setPort n x).port n = x := smGet_smSet_self ..

theorem State.port_setPort_ne {n k : Nat} (x : Port) (h : k ≠ n) : (s.setPort n x).port k = s.port k := smGet_smSet_ne _ _ _ h

@[simp] theorem State.port_modPort (n : Nat) (f : Port → Port) : (s.modPort n f).port n = f (s.port n) := smGet_smSet_self ..

theorem State.port_modPort_ne {n k : Nat} (f : Port → Port) (h : k ≠ n) : (s.modPort n f).port k = s.port k :=
  smGet_smSet_ne _ _ _ h

@[simp] theorem State.router_modRouter (r : Nat) (f : Router → Router) : (s.modRouter r f).router r = f (s.router r) :=
  smGet_smSet_self ..

theorem State.router_modRouter_ne {r k : Nat} (f : Router → Router) (h : k ≠ r) : (s.modRouter r f).router k = s.router k :=
  smGet_smSet_ne _ _ _ h

@[simp] theorem State.panel_modPanel (p : Nat) (f : Panel → Panel) : (s.modPanel p f).panel p = f (s.panel p) :=
  smGet_smSet_self ..

theorem State.panel_modPanel_ne {p k : Nat} (f : Panel → Panel) (h : k ≠ p) : (s.modPanel p f).panel k = s.panel k :=
  smGet_smSet_ne _ _ _ h

@[simp] theorem State.mp_modMp (m : Nat) (f : MemPort → MemPort) : (s.modMp m f).mp m = f (s.mp m) := smGet_smSet_self ..

theorem State.mp_modMp_ne {m k : Nat} (f : MemPort → MemPort) (h : k ≠ m) : (s.modMp m f).mp k = s.mp k :=
  smGet_smSet_ne _ _ _ h

@[simp] theorem State.ring_modRing (n : Nat) (f : Ring → Ring) : (s.modRing n f).ring n = f (s.ring n) := smGet_smPut_self ..

theorem State.ring_modRing_ne {n k : Nat} (f : Ring → Ring) (h : k ≠ n) : (s.modRing n f).ring k = s.ring k :=
  smGet_smPut_ne _ _ _ _ h

@[simp] theorem State.ctx_modCtx (n : Nat) (f : Ctx → Ctx) : (s.modCtx n f).ctx n = f (s.ctx n) := smGet_smSet_self ..

theorem State.ctx_modCtx_ne {n k : Nat} (f : Ctx → Ctx) (h : k ≠ n) : (s.modCtx n f).ctx k = s.ctx k :=
  smGet_smSet_ne _ _ _ h

@[simp] theorem State.br_modBr (b : Nat) (f : Br → Br) : (s.modBr b f).br b = f (s.br b) := smGet_smSet_self ..

theorem State.br_modBr_ne {b k : Nat} (f : Br → Br) (h : k ≠ b) : (s.modBr b f).br k = s.br k := smGet_smSet_ne _ _ _ h

@[simp] theorem State.w6g_w6s (off : Nat) (v : BitVec 64) : (s.w6s off v).w6g off = v := smGet_smPut_self ..

theorem State.w6g_w6s_ne {off k : Nat} (v : BitVec 64) (h : k ≠ off) : (s.w6s off v).w6g k = s.w6g k :=
  smGet_smPut_ne _ _ _ _ h

@[simp] theorem State.w4g_w4s (off : Nat) (v : BitVec 64) : (s.w4s off v).w4g off = v := smGet_smPut_self ..

theorem State.w4g_w4s_ne {off k : Nat} (v : BitVec 64) (h : k ≠ off) : (s.w4s off v).w4g k = s.w4g k :=
  smGet_smPut_ne _ _ _ _ h

@[simp] theorem State.rgnRaw_setRgn (i : Nat) (v : BitVec 64) : (s.setRgn i v).rgnRaw i = encW v := smGet_smPut_self ..

theorem State.rgnRaw_setRgn_ne {i k : Nat} (v : BitVec 64) (h : k ≠ i) : (s.setRgn i v).rgnRaw k = s.rgnRaw k :=
  smGet_smPut_ne _ _ _ _ h

@[simp] theorem State.locRaw_locPut (i v : Nat) : (s.locPut i v).locRaw i = BitVec.ofNat 72 (lightEnc (v % 2 ^ 64)) :=
  smGet_smSet_self ..

theorem State.locRaw_locPut_ne {i k : Nat} (v : Nat) (h : k ≠ i) : (s.locPut i v).locRaw k = s.locRaw k :=
  smGet_smSet_ne _ _ _ h

@[simp] theorem State.ephRaw_ephPut (i v : Nat) : (s.ephPut i v).ephRaw i = encW (BitVec.ofNat 64 v) := smGet_smSet_self ..

theorem State.ephRaw_ephPut_ne {i k : Nat} (v : Nat) (h : k ≠ i) : (s.ephPut i v).ephRaw k = s.ephRaw k :=
  smGet_smSet_ne _ _ _ h

@[simp] theorem State.q_setQ (l : Loc) (c : Nat) (x : List Packet) : (s.setQ l c x).q l c = x := smGet_smPut_self ..

theorem State.q_setQ_ne {l k : Loc} {c d : Nat} (x : List Packet) (h : locKey k d ≠ locKey l c) :
    (s.setQ l c x).q k d = s.q k d := smGet_smPut_ne _ _ _ _ h

@[simp] theorem State.q_push (l : Loc) (c : Nat) (x : Packet) :
    (s.push l c x).q l c = s.q l c ++ [{ x with capt := s.clk.cyc, skips := [] }] := smGet_smPut_self ..

theorem State.q_push_ne {l k : Loc} {c d : Nat} (x : Packet) (h : locKey k d ≠ locKey l c) :
    (s.push l c x).q k d = s.q k d := smGet_smPut_ne _ _ _ _ h

@[simp] theorem State.q_owe (l k : Loc) (c d : Nat) : (s.owe l c).q k d = s.q k d := rfl

@[simp] theorem State.owed_setQ (l k : Loc) (c d : Nat) (x : List Packet) : (s.setQ l c x).owed k d = s.owed k d := rfl

@[simp] theorem State.owed_owe (l : Loc) (c : Nat) : (s.owe l c).owed l c = s.owed l c + 1 := by
  simp [State.owe, State.owed]

theorem State.owed_owe_ne {l k : Loc} {c d : Nat} (h : locKey k d ≠ locKey l c) : (s.owe l c).owed k d = s.owed k d := by
  simp only [State.owe, State.owed]
  exact smGet_smPut_ne _ _ _ _ h

@[simp] theorem State.q_take (l : Loc) (c : Nat) : (s.take l c).q l c = (s.q l c).tail := smGet_smPut_self ..

theorem State.q_take_ne {l k : Loc} {c d : Nat} (h : locKey k d ≠ locKey l c) : (s.take l c).q k d = s.q k d :=
  smGet_smPut_ne _ _ _ _ h

@[simp] theorem State.owed_take (l : Loc) (c : Nat) : (s.take l c).owed l c = s.owed l c + 1 := State.owed_owe _ l c

/-! ### A general register -/

@[simp] theorem Ctx.gr_setGr (c : Ctx) (i : Nat) (v : BitVec 64) : (c.setGr i v).gr i = v := smGet_smSet_self ..

theorem Ctx.gr_setGr_ne (c : Ctx) {i k : Nat} (v : BitVec 64) (h : k ≠ i) : (c.setGr i v).gr k = c.gr k :=
  smGet_smSet_ne _ _ _ h

/-! ### The canonical form is kept -/

theorem State.w6s_sorted (off : Nat) (v : BitVec 64) (h : smSorted s.w6 = true) : smSorted (s.w6s off v).w6 = true :=
  smSorted_smPut _ _ _ _ h

theorem State.w4s_sorted (off : Nat) (v : BitVec 64) (h : smSorted s.w4 = true) : smSorted (s.w4s off v).w4 = true :=
  smSorted_smPut _ _ _ _ h

theorem State.setRgn_sorted (i : Nat) (v : BitVec 64) (h : smSorted s.rgn = true) : smSorted (s.setRgn i v).rgn = true :=
  smSorted_smPut _ _ _ _ h

theorem State.locPut_sorted (i v : Nat) (h : smSorted s.ez.loc = true) : smSorted (s.locPut i v).ez.loc = true :=
  smSorted_smSet _ _ _ h

theorem State.ephPut_sorted (i v : Nat) (h : smSorted s.ep.sram = true) : smSorted (s.ephPut i v).ep.sram = true :=
  smSorted_smSet _ _ _ h

end Sys2Proof.Machine
end

