-- ==== Sys2Proof/Laws/Easel.lean ====
section
/-! SUPPORT. What the Easel's engine does around the effect of an instruction: taking a ring, the fetch's marks and the
next fetch leave every register of every ring, and all that no Easel engine step reaches, as they were. -/

namespace Sys2Proof.Machine

/-- What the engine's own moves leave alone. -/
structure EzKept (s t : State) : Prop where
  frame : EaselFrame s t
  loc : LocSame s t
  regs : ∀ n, SameRegs (s.ctx n) (t.ctx n)

theorem SameRegs.refl (c : Ctx) : SameRegs c c := ⟨rfl, rfl, rfl, rfl, rfl, rfl, rfl, rfl⟩

theorem SameRegs.trans {a b c : Ctx} (h : SameRegs a b) (k : SameRegs b c) : SameRegs a c := by
  simp_all [SameRegs]

theorem EaselFrame.refl (s : State) : EaselFrame s s := by
  simp [EaselFrame, SameBase, SamePins, SameTree, SameHomes, SameObs]

theorem EaselFrame.trans {a b c : State} (h : EaselFrame a b) (k : EaselFrame b c) : EaselFrame a c := by
  simp only [EaselFrame, SameBase, SamePins, SameTree, SameHomes, SameObs] at *
  simp_all

theorem EzKept.refl (s : State) : EzKept s s := ⟨.refl s, fun _ _ h => h, fun _ => .refl _⟩

theorem EzKept.trans {a b c : State} (h : EzKept a b) (k : EzKept b c) : EzKept a c :=
  ⟨h.frame.trans k.frame, fun i d x => k.loc i d (h.loc i d x), fun n => (h.regs n).trans (k.regs n)⟩

/-- A step that keeps everything but the Easel's waits, messages and records of each context keeps the registers. -/
theorem EzKept.of_eq {s t : State} (hf : EaselFrame s t) (hl : t.ez.loc = s.ez.loc)
    (hr : ∀ n, SameRegs (s.ctx n) (t.ctx n)) : EzKept s t := by
  refine ⟨hf, fun i d h => ?_, hr⟩
  have hn : t.nonce = s.nonce := hf.1.2.2
  simpa only [State.locReads, State.locRaw, hl, hn] using h

/-- Changing a context outside its registers. -/
theorem EzKept.modCtx (s : State) (r : Nat) (f : Ctx → Ctx) (h : ∀ c, SameRegs c (f c)) : EzKept s (s.modCtx r f) := by
  refine .of_eq (by simp [EaselFrame, SameBase, SamePins, SameTree, SameHomes, SameObs]) (by simp) fun n => ?_
  by_cases e : n = r
  · subst e; simpa using h _
  · rw [State.ctx_modCtx_ne _ _ e]; exact .refl _

theorem EzKept.modRing (s : State) (r : Nat) (f : Ring → Ring) : EzKept s (s.modRing r f) :=
  .of_eq (by simp [EaselFrame, SameBase, SamePins, SameTree, SameHomes, SameObs]) rfl fun _ => .refl _

theorem EzKept.irqS (s : State) (n : Nat) : EzKept s (s.irqS n) :=
  .of_eq (by simp [EaselFrame, SameBase, SamePins, SameTree, SameHomes, SameObs]) rfl fun _ => .refl _

theorem EzKept.irqNs (s : State) (n : Nat) : EzKept s (s.irqNs n) :=
  .of_eq (by simp [EaselFrame, SameBase, SamePins, SameTree, SameHomes, SameObs]) rfl fun _ => .refl _

theorem EzKept.w6s (s : State) (o : Nat) (v : BitVec 64) : EzKept s (s.w6s o v) :=
  .of_eq (by simp [EaselFrame, SameBase, SamePins, SameTree, SameHomes, SameObs]) rfl fun _ => .refl _

theorem EzKept.stage (s : State) (o n : Nat) : EzKept s (s.stage o n) :=
  .of_eq (by simp [EaselFrame, SameBase, SamePins, SameTree, SameHomes, SameObs]) rfl fun _ => .refl _

theorem EzKept.ctr6 (s : State) (o n : Nat) : EzKept s (s.ctr6 o n) := .w6s _ _ _

theorem EzKept.bucketUe (s : State) (b : Nat) : EzKept s (s.bucketUe b) := (EzKept.ctr6 _ _ _).trans (.stage _ _ _)

/-- Notes of the sets and additions of a KCLK (R20, R415). -/
theorem EzKept.noteSet (s : State) (k : Nat) : EzKept s (s.noteSet k) :=
  .of_eq (by simp [EaselFrame, SameBase, SamePins, SameTree, SameHomes, SameObs]) rfl fun _ => .refl _

theorem EzKept.bkMark (s : State) (b v : Nat) : EzKept s (s.bkMark b v) :=
  .of_eq (by simp [EaselFrame, SameBase, SamePins, SameTree, SameHomes, SameObs]) rfl fun _ => .refl _

theorem EzKept.bucketCe (s : State) (b : Nat) : EzKept s (s.bucketCe b) := by
  have g (c : Prop) [Decidable c] : EzKept s (if c then s else s.bkMark b 2) := by
    split
    · exact .refl _
    · exact .bkMark _ _ _
  have h (u : State) (v : BitVec 64) : EzKept u (((u.w6s (b + 8) v).ctr6 (b + 0x10) 1).stage (0x100 + 0x10 * bkClass b) 1) :=
    ((EzKept.w6s _ _ _).trans (.ctr6 _ _ _)).trans (.stage _ _ _)
  unfold State.bucketCe
  simp only
  split
  · exact (((g _).trans (h _ _)).trans (.noteSet _ _)).trans (.irqS _ _)
  · exact (g _).trans (h _ _)

/-- A correctable error adds nothing to the local store. -/
@[simp] theorem State.bucketCe_loc (s : State) (b : Nat) : (s.bucketCe b).ez.loc = s.ez.loc := by
  unfold State.bucketCe; simp only; split <;> split <;> simp

/-- A violation changes its ring's VIOL, the counter, the last record and a source. -/
theorem EzKept.violate (s : State) (r k : Nat) : EzKept s (s.violate r k) := by
  have h := EzKept.modCtx s r (fun c => { c with viol := true }) fun _ => ⟨rfl, rfl, rfl, rfl, rfl, rfl, rfl, rfl⟩
  exact ((h.trans (.ctr6 _ _ _)).trans (.w6s _ _ _)).trans (.irqS _ _)

theorem EzKept.ezIssue (s : State) (r : Nat) (u : MemUse) (m pa w z : Nat) (d : BitVec 512) (n : Nat) :
    EzKept s (s.ezIssue r u m pa w z d n) := by
  unfold State.ezIssue
  split
  · exact .refl _
  · have g (x : SMap (List MemReq)) : EzKept s { s with ez := { s.ez with memOut := x } } :=
      .of_eq (by simp [EaselFrame, SameBase, SamePins, SameTree, SameHomes, SameObs]) rfl fun _ => .refl _
    exact (g _).trans (.modCtx _ r (fun c => { c with wait := .mem u }) fun _ => ⟨rfl, rfl, rfl, rfl, rfl, rfl, rfl, rfl⟩)

theorem EzKept.ringError (s : State) (n : Nat) : EzKept s (s.ringError n) := by
  unfold State.ringError
  split
  · exact (EzKept.modRing _ _ _).trans (.irqS _ _)
  · exact (EzKept.modRing _ _ _).trans (.irqNs _ _)

theorem EzKept.ezFinish (s : State) (n : Nat) (i b : Bool) : EzKept s (s.ezFinish n i b) := by
  have h (s : State) : EzKept s ((s.modRing n fun r => { r with head := r.head + 1 }).modCtx n fun c =>
      { c with running := false, wait := .idle }) :=
    (EzKept.modRing _ _ _).trans (.modCtx _ n (fun c => { c with running := false, wait := .idle }) fun _ => ⟨rfl, rfl, rfl, rfl, rfl, rfl, rfl, rfl⟩)
  have g : EzKept s (if b then s.ringError n else s) := by
    split
    · exact .ringError _ _
    · exact .refl _
  have e (u : State) : EzKept u (if i then (if n < 8 then u.irqS n else u.irqNs (n - 8)) else u) := by
    split
    · split
      · exact .irqS _ _
      · exact .irqNs _ _
    · exact .refl _
  exact (g.trans (h _)).trans (e _)

theorem EzKept.descWrite (s : State) (n st : Nat) (v : Option (BitVec 64)) (i : Bool) : EzKept s (s.descWrite n st v i) := by
  have h : EzKept s (s.modCtx n fun c => { c with ibuf := [], rep := none }) :=
    .modCtx _ n (fun c => { c with ibuf := [], rep := none }) fun _ => ⟨rfl, rfl, rfl, rfl, rfl, rfl, rfl, rfl⟩
  unfold State.descWrite
  simp only
  split
  · exact h.trans (.ezFinish _ _ _ _)
  · split
    · exact h.trans (.ezIssue ..)
    · exact h.trans (.ezIssue ..)

/-- The end of a program leaves every register of every ring but FAULT. -/
theorem EzKept.endProgram (s : State) (n f c : Nat) (v : BitVec 64) : EzKept s (s.endProgram n f c v) := by
  have h := EzKept.modCtx s n (fun x => { x with fault := BitVec.ofNat 8 f, lastOk := decide (f = 0) })
    fun _ => ⟨rfl, rfl, rfl, rfl, rfl, rfl, rfl, rfl⟩
  unfold State.endProgram
  simp only
  exact h.trans (EzKept.descWrite _ _ _ _ _)

theorem EzKept.ezFault (s : State) (n f : Nat) : EzKept s (s.ezFault n f) := .endProgram ..

/-- Taking the Easel changes no register. -/
theorem EzKept.ezClaim (s : State) (r : Nat) : EzKept s (s.ezClaim r) := by
  refine .of_eq (by simp [EaselFrame, SameBase, SamePins, SameTree, SameHomes, SameObs]) rfl fun n => ?_
  let g : Nat × Ctx → Ctx := fun e =>
    if e.1 ≠ r ∧ e.2.inrep ∧ e.2.wait = .idle ∧ (8 ≤ e.1 ∨ e.2.repw.getLsbD 21) then { e.2 with rep := none } else e.2
  have hg (e : Nat × Ctx) : SameRegs e.2 (g e) := by
    simp only [g]
    split
    · exact ⟨rfl, rfl, rfl, rfl, rfl, rfl, rfl, rfl⟩
    · exact .refl _
  have : ∀ l : SMap Ctx, SameRegs (smGet {} l n) (smGet {} (l.map fun e =>
      if e.1 ≠ r ∧ e.2.inrep ∧ e.2.wait = .idle ∧ (8 ≤ e.1 ∨ e.2.repw.getLsbD 21) then (e.1, { e.2 with rep := none }) else e) n) := by
    intro l
    induction l with
    | nil => exact .refl _
    | cons e l ih =>
      have he : (if e.1 ≠ r ∧ e.2.inrep ∧ e.2.wait = .idle ∧ (8 ≤ e.1 ∨ e.2.repw.getLsbD 21) then (e.1, { e.2 with rep := none })
          else e) = (e.1, g e) := by
        simp only [g]; split <;> rfl
      rw [List.map_cons, he]
      obtain ⟨i, c⟩ := e
      by_cases hi : i = n
      · simpa [smGet, smFind, hi] using hg (i, c)
      · simpa [smGet, smFind, hi] using ih
  exact this _

/-- The effects of a fetch on the words it read change no register and no word that read free of errors. -/
theorem EzKept.locTake (s : State) (i : Nat) : EzKept s (s.locTake i).1 := by
  unfold State.locTake
  cases h : lightDec (s.locRaw i).toNat with
  | ok d => exact .refl _
  | ue d => exact .bucketUe _ _
  | ce d =>
    refine (EzKept.bucketCe s _).trans ⟨by simp [EaselFrame, SameBase, SamePins, SameTree, SameHomes, SameObs], ?_, fun _ => .refl _⟩
    intro k e hk
    have hl : (s.bucketCe 0xA1040).locRaw i = s.locRaw i := by
      simp only [State.locRaw, (EzKept.bucketCe s 0xA1040).frame.1.2.2, State.bucketCe_loc]
    by_cases e' : k = i
    · subst e'; simp only [State.locReads, hl, h] at hk; simp at hk
    · simpa [State.locReads, State.locRaw, State.locPut, smGet_smSet_ne _ _ _ e'] using hk

theorem EzKept.ezTouch (s : State) (r : Nat) (i : Inst) : EzKept s (s.ezTouch r i) := by
  have h : ∀ (l : List Nat) (s : State), EzKept s (l.foldl (fun (s : State) k => (s.locTake k).1) s) := by
    intro l
    induction l with
    | nil => exact fun s => .refl s
    | cons k l ih => exact fun s => (EzKept.locTake s k).trans (ih _)
  unfold State.ezTouch
  simp only
  split
  · exact (h _ _).trans (.violate _ _ _)
  · exact h _ _

/-- Going on to the next fetch, or ending a program at a fault of one, changes no register. -/
theorem EzKept.ezBegin (s : State) : EzKept s s.ezBegin := by
  unfold State.ezBegin
  split
  · exact .refl _
  · split
    · exact .refl _
    · split
      · exact .refl _
      · refine EzKept.trans ?_ (.ezFault ..)
        split
        · exact (EzKept.ezClaim _ _).trans (.bucketUe ..)
        · exact .ezClaim _ _
      · exact (EzKept.ezClaim _ _).trans (.ezIssue ..)

/-! ### Running an instruction -/

theorem wOpc_fldWord (opc : Nat) (f : Fld) (h : opc < 64) : wOpc (fldWord opc f) = opc := by
  have : (fldWord opc f).extractLsb' 22 6 = BitVec.ofNat 6 opc := by
    ext i hi; simp [fldWord]; grind
  simp [wOpc, this]; omega

theorem wCond_fldWord (opc : Nat) (f : Fld) : wCond (fldWord opc f) = f.cond := by
  ext i hi; simp [wCond, fldWord]; grind

theorem wDisp_fldWord (opc : Nat) (f : Fld) : wDisp (fldWord opc f) = f.disp := by
  ext i hi; simp [wDisp, fldWord]; grind

/-- An instruction that runs: what precedes its effect and what follows it change no register, and the effect is the body's,
with DISP as the iteration has it. -/
theorem ezRun_runs {s : State} {r opc : Nat} {f : Fld} (h : s.runs r opc f) (ho : opc < 64)
    (body : State → Nat → Ctx → BitVec 14 → State) :
    ∃ u, EzKept s u ∧ s.ezRun opc f body = (body u r (u.ctx r) ((u.ctx r).dispOf (fldWord opc f))).ezBegin := by
  obtain ⟨hl, i, hn, hw, he, hc⟩ := h
  refine ⟨(s.ezClaim r).ezTouch r i, (EzKept.ezClaim s r).trans (.ezTouch _ _ _), ?_⟩
  have hk := ((EzKept.ezClaim s r).trans (.ezTouch _ r i)).regs r
  have hq : ¬ (i.word ≠ fldWord opc f ∨ (hasExt (wOpc (fldWord opc f)) ∧ i.ext ≠ f.ext)) := by
    rw [wOpc_fldWord _ _ ho]; simp only [not_or, not_and, Decidable.not_not]; exact ⟨hw, fun x => he x⟩
  unfold State.ezRun State.ezRunWord
  simp only [hn]
  rw [if_neg hq, wCond_fldWord, hk.2.1, hk.2.2.1, hc]
  simp [hw]

end Sys2Proof.Machine
end

