-- ==== Sys2Proof/Tests/Slice0.lean ====
section
/-! SUPPORT. Tests of single steps, a refused term for each check of WellFormed, and for every statement with premises a state
that meets them. -/

namespace Sys2Proof.Tests

open Sys2Proof Sys2Proof.Machine

set_option Elab.async false

/-- A small build: 4 panels of 16K sets, 1,024 Palette sets, 2 memory ports, one leaf of 8 ports, with trace. -/
def smallBuild : Build := { p := 2, setsK := 16, psets := 0, memPorts := 2, leaves := some (0, 8) :: List.replicate 31 none }

/-- An admitted caching agent 5 of partition 3 with every feature. -/
def port5 : Port :=
  { lstate := .admitted, agent := 5, part := 3, limit := 100, mode := { kind := 1, feats := 0x1F, beat := 1, version := 3 },
    rst := false, hsPend := false, dnCrd := [1, 0, 1, 1, 1, 1] }

/-- The block at work: agents 5 and 6 on ports 0 and 1, memory port 1 in service. -/
def atWork : State :=
  { build := smallBuild, clk := { cyc := 80000, initBusy := false, cpSvc := true, tpSvc := true, tsSvc := true }
    ports := [(0, port5), (1, { port5 with agent := 6 })]
    mps := [(1, { rst := false, svc := true, credits := 8 })] }

/-- A Normal coherent region from address 0, served by memory port 1. -/
def region0 : Attr :=
  { idx := 0, base := 0, size := 40, kind := 0, home := 0, ports := 2, gran := 0, code := false, nospec := false, world := 1 }

/-- The directory words of a set, its ways as listed and free beyond. -/
def setWords (set : Nat) (es : List Ent) : SMap (BitVec 72) :=
  (List.range 16).map fun w => (set * 16 + w, (es.getD w {}).enc)

/-- Panel 0 with a lookaside entry, one written set and HTCs. -/
def panelWith (set : Nat) (es : List Ent) (htcs : SMap Htc) : Panel := { dir := setWords set es, look := [region0], htcs := htcs, seq := 40 }

/-- The block with a message at the input of panel 0. -/
def withMsg (n : Panel) (cls : Nat) (k : Packet) : State :=
  { atWork with panels := [(0, n)], net := { qs := [(locKey (.panelIn 0) cls, [k])] } }

/-- A message of agent 5 about line 28, which lies in set 7. -/
def msg (cls opc : Nat) : Packet :=
  { hdr := { cls := cls, opc := opc, prio := 2, src := 5, tag := 9, addr := 28, part := 3, size := if opc = 6 then 3 else 6 }, data := 77#512 }

/-- A request for line 28, which no way of set 7 names. -/
def reqState (opc : Nat) : State := withMsg (panelWith 7 [] []) cREQ (msg cREQ opc)

/-- The state after a command. -/
def after (c : Instr) (s : State) : State := match exec c s with | .next t => t | _ => s


/-- A SnpAck of COUNT 2 for HTC 4 of panel 0. -/
def ackMsg (mgt : Bool) : Packet :=
  let k := msg (if mgt then cMGT else cRSP) (if mgt then 32 + oSnpAck else oSnpAck)
  { k with hdr := { k.hdr with tag := 2, htc := 4 } }


/-! ### Homes -/

/-- HTC `i` of panel 0. -/
def htcOf (s : State) (i : Nat) : Option Htc := smFind (s.panel 0).htcs i

/-- A request of line 28 that has entered D0 two HCLK ago. -/
def fresh (opc : Nat) : Htc := { job := .req, pool := 0, phase := .decide, seq := 3, acc := 9, start := 79998, pkt := msg cREQ opc, line := 28 }

/-- Panel 0 with that request at D2, and this entry in way 2 of its set. -/
def atD2State (opc : Nat) (e : Ent) : State := { atWork with panels := [(0, panelWith 7 [{}, {}, e] [(4, fresh opc)])] }

/-- The same with agents that have settled no owned state. -/
def noOwn (s : State) : State := { s with ports := s.ports.map fun e => (e.1, { e.2 with mode := { e.2.mode with feats := 0x1E } }) }

/-- The entries of that set. -/
def way2 (e : Ent) (w : Nat) : Ent := if w = 2 then e else {}

/-- Premises of RequestsAcceptedAndDecided: a request at the panel input, its line free or busy. -/
theorem wit_accept (opc : Nat) (ho : opc ∈ [oRdS, oRdU, oUpg, oRdO, oWrU, oAtP]) (busy : Bool) :
    let s := withMsg (panelWith 7 [] (if busy then [(4, { fresh opc with phase := .queued })] else [])) cREQ (msg cREQ opc)
    s.takes 0 ∧ (s.panel 0).calm ∧ (s.px 0 {}).reqTurn = some (cREQ, msg cREQ opc, 0, 0) ∧ (s.panel 0).dead.getLsbD 5 = false ∧
    (s.px 0 {}).lineBusy 28 = busy := by
  unfold State.takes State.acts Panel.calm
  fin_cases ho <;> cases busy <;> decide +kernel
/-- Its D2, its line named by no way. -/
theorem wit_untracked (opc : Nat) (ho : opc ∈ [oRdS, oRdU, oUpg, oRdO, oWrU, oAtP]) :
    let s := atD2State opc {}
    s.takes 0 ∧ s.decides 0 4 (fresh opc) (msg cREQ opc) region0 (fun _ => {}) ∧ s.untracked 0 4 (msg cREQ opc) (fun _ => {}) 0 ∧
    (smFree (s.panel 0).proxy 0 32).isSome = true := by
  unfold State.takes State.acts State.decides State.atD2 Panel.calm State.setReads State.untracked
  fin_cases ho <;> decide +kernel
/-- Its D2, another agent named as the line's one holder. -/
theorem wit_tracked (e : Nat × Nat) (ho : e ∈ ([(oRdS, 1), (oRdS, 2), (oRdU, 1), (oRdU, 2), (oRdU, 3), (oRdU, 4), (oRdU, 6),
      (oRdO, 1), (oRdO, 2), (oRdO, 3), (oRdO, 6), (oWrU, 1), (oWrU, 2), (oWrU, 3), (oWrU, 4), (oWrU, 6)] : List (Nat × Nat))) :
    let s := noOwn (atD2State e.1 { st := e.2, agent := 6 })
    s.takes 0 ∧ s.decides 0 4 (fresh e.1) (msg cREQ e.1) region0 (way2 { st := e.2, agent := 6 }) ∧
    s.tracked (msg cREQ e.1) (way2 { st := e.2, agent := 6 }) 2 ∧ s.own 5 = false ∧ s.own 6 = false := by
  unfold State.takes State.acts State.decides State.atD2 Panel.calm State.setReads State.tracked
  fin_cases ho <;> decide +kernel
/-- Its D2, the requester itself in S-solo. -/
theorem wit_tracked_own :
    let s := atD2State oUpg { st := 4, agent := 5 }
    s.takes 0 ∧ s.decides 0 4 (fresh oUpg) (msg cREQ oUpg) region0 (way2 { st := 4, agent := 5 }) ∧
    s.tracked (msg cREQ oUpg) (way2 { st := 4, agent := 5 }) 2 := by
  unfold State.takes State.acts State.decides State.atD2 Panel.calm State.setReads State.tracked; decide +kernel

/-- A request of the panel input, accepted by its command. -/
theorem test_accept (c : Nat × Instr) (hc : c ∈ [(oRdS, Instr.rds 0 {}), (oRdU, .rdu 0 {}), (oUpg, .upg 0 {}), (oRdO, .rdo 0 {}),
      (oWrU, .wru 0 {}), (oAtP, .atp 0 {})]) :
    (htcOf (after c.2 (reqState c.1)) 0).map (fun h => (h.phase, h.start, h.line)) = some (.decide, 80000, 28) := by
  fin_cases hc <;> decide +kernel

/-- The decision of a request. -/
def decided (opc : Nat) (e : Ent) : State := after (.htcStartQueued 0 4 {}) (atD2State opc e)

/-- R118: RdS of an untracked line is to be answered CompE. -/
theorem test_rds : (htcOf (decided oRdS {}) 4).map (·.plan.comp) = some oCompE := by decide +kernel
/-- R119: RdU reads memory. -/
theorem test_rdu : (smGet [] ((decided oRdU {}).panel 0).memOut 1).map (·.mopc) = [1] := by decide +kernel
/-- R119: RdU of a line in S-solo invalidates its holder. -/
theorem test_rdu_shared : ((decided oRdU { st := 4, agent := 6 }).panel 0).outq.map (fun k => (k.hdr.opc, k.hdr.dst)) = [(oSnpInv, 6)] := by
  decide +kernel
/-- R120: Upg of a line that the requester does not hold is served as RdU. -/
theorem test_upg : (htcOf (decided oUpg {}) 4).map (·.plan.comp) = some oCompU := by decide +kernel
/-- R121: RdO takes no way. -/
theorem test_rdo : (htcOf (decided oRdO {}) 4).map (·.way) = some none := by decide +kernel
/-- R122: WrU is written and answered WrAcc. -/
theorem test_wru : ((decided oWrU {}).panel 0).outq.map (·.hdr.opc) = [oWrAcc] := by decide +kernel
/-- R123: AtP takes a proxy slot. -/
theorem test_atp : ((decided oAtP {}).panel 0).proxy.map (·.2.line) = [28] := by decide +kernel

/-- Agent 6 alone may be told of agent 5's TIv. -/
def tivState (opc : Nat) (htcs : SMap Htc) : State := withMsg (panelWith 7 [] htcs) cREQ { (msg cREQ opc) with desc := 3#256 }

/-- The same with no other agent that takes translations. -/
def tivAlone : State := { tivState oTIv [] with ports := [(0, port5)] }

/-- A TIv of agent 5 that is not done. -/
def tivHtc : Htc := { job := .tiv, pool := 0, phase := .collect, seq := 1, acc := 0, pkt := msg cREQ oTIv, line := 0, expect := 1, tset := vbit 6 }

/-- Premises of TranslationServices. -/
theorem wit_tiv : (tivState oTIv []).takes 0 ∧
    ((tivState oTIv []).px 0 {}).reqTurn = some (cREQ, { msg cREQ oTIv with desc := 3#256 }, 0, 0) ∧
    ((tivState oTIv []).panel 0).dead.getLsbD 5 = false ∧ 0 < popc ((tivState oTIv []).caching (fun x => decide (x.part = 3) && x.mode.feats.testBit 4) &&& ~~~(vbit 5)) := by
  unfold State.takes State.acts; decide +kernel
theorem wit_tiv_alone : tivAlone.takes 0 ∧ (tivAlone.px 0 {}).reqTurn = some (cREQ, { msg cREQ oTIv with desc := 3#256 }, 0, 0) ∧
    popc (tivAlone.caching (fun x => decide (x.part = 3) && x.mode.feats.testBit 4) &&& ~~~(vbit 5)) = 0 ∧
    ¬ ∃ e ∈ (tivAlone.panel 0).htcs, e.2.job = .tsy ∧ e.2.pkt.hdr.src = 5 ∧ e.2.phase ≠ .close := by
  unfold State.takes State.acts; decide +kernel
theorem wit_tsy (h : SMap Htc) (hh : h ∈ [[], [(0, tivHtc)]]) : (tivState oTSy h).takes 0 ∧
    ((tivState oTSy h).px 0 {}).reqTurn = some (cREQ, { msg cREQ oTSy with desc := 3#256 }, 0, h.length) := by
  simp only [List.mem_cons, List.not_mem_nil, or_false] at hh
  unfold State.takes State.acts
  rcases hh with rfl | rfl <;> decide +kernel
theorem wit_tsy_waits : ∃ e ∈ ((tivState oTSy [(0, tivHtc)]).panel 0).htcs,
    e.2.job = .tiv ∧ e.2.pkt.hdr.src = 5 ∧ e.2.phase ≠ .close := by decide +kernel

/-- R251: one target gets the SnpTIv by its own name. -/
theorem test_tiv : ((after (.tiv 0) (tivState oTIv [])).panel 0).outq.map (fun k => (k.hdr.opc, k.hdr.dst)) = [(oSnpTIv, 6)] := by
  decide +kernel
theorem test_tiv_alone : ((after (.tiv 0) tivAlone).panel 0).outq.map (·.hdr.opc) = [oTIvDone] := by decide +kernel
/-- R253: TSy waits for the TIv before it. -/
theorem test_tsy_waits : ((after (.tsy 0) (tivState oTSy [(0, tivHtc)])).panel 0).outq = [] := by decide +kernel
theorem test_tsy : ((after (.tsy 0) (tivState oTSy [])).panel 0).outq.map (·.hdr.opc) = [oTSyDone] := by decide +kernel

/-- An eviction of line 28, whose set has this entry in way 3. -/
def evState (opc st agent : Nat) : State :=
  withMsg (panelWith 7 [{}, {}, {}, { tag := 0, st := st, agent := agent }] []) cWBK (msg cWBK opc)

/-- The entries of that set. -/
def evEnts (st agent : Nat) (w : Nat) : Ent := if w = 3 then { tag := 0, st := st, agent := agent } else {}

/-- Premises of EvictionsOfASoleHolder, each opcode with the states that it meets, and EvC of an untracked line. -/
theorem wit_evict (e : Nat × Nat) (ho : e ∈ ([(oEvC, 1), (oEvC, 2), (oEvC, 4), (oWbD, 1), (oWbD, 2), (oWbD, 3), (oWbO, 6), (oEvC, 0)] : List (Nat × Nat))) :
    let opc := e.1; let st := e.2; (evState opc st 5).takes 0 ∧ ((evState opc st 5).panel 0).quiet ∧
    (evState opc st 5).evicts 0 (msg cWBK opc) region0 (evEnts st 5) ∧ ((evState opc st 5).px 0 {}).freeHtc 1 = some 896 ∧
    (evEnts st 5 3).st = st := by
  unfold State.takes State.acts Panel.quiet Panel.calm State.evicts State.setReads
  fin_cases ho <;>
    decide +kernel

theorem test_evc : ((after (.evc 0 {}) (evState oEvC 2 5)).panel 0).outq.map (·.hdr.opc) = [oEvAck] := by decide +kernel
theorem test_evc_shared : (htcOf (after (.evc 0 {}) (evState oEvC 4 5)) 896).map (·.fin.st) = some 0 := by decide +kernel
theorem test_wbd : (smGet [] ((after (.wbd 0 {}) (evState oWbD 3 5)).panel 0).memOut 1).map (fun q => (q.mopc, q.data)) =
    [(2, 77#512)] := by decide +kernel
theorem test_wbo : (htcOf (after (.wbo 0 {}) (evState oWbO 6 5)) 896).map (fun h => (h.way, h.fin.st)) = some (some 3, 0) := by
  decide +kernel

/-- An HTC in CLOSE with an entry for way 3. -/
def closing (job : Job) : Htc :=
  { job := job, pool := if job = .wbk then 1 else 0, phase := .close, seq := 2, acc := 9, start := 10, pkt := msg cREQ oRdS, line := 28,
    way := some 3, fin := { st := 4, agent := 5 }, closeAt := 79000 }

/-- Premises of HtcEndWritesItsEntry. -/
theorem wit_htcEnd (job : Job) (hj : job ∈ [Job.req, Job.wbk]) :
    let s := { atWork with panels := [(0, panelWith 7 [] [(4, closing job)])] }
    s.acts 0 ∧ (s.panel 0).calm ∧ smFind (s.panel 0).htcs 4 = some (closing job) ∧ (closing job).expect ≤ (closing job).sum ∧
    (∀ e ∈ (s.panel 0).htcs, e.1 ≠ 4 → e.2.onLine 28 = false) ∧ (closing job).comet = false ∧
    (s.panel 0).dead.getLsbD (closing job).fin.agent = false ∧ (closing job).start + 8 ≤ s.clk.cyc := by
  simp only [List.mem_cons, List.not_mem_nil, or_false] at hj
  unfold State.acts Panel.calm
  rcases hj with rfl | rfl <;> decide +kernel

theorem test_htcFreed : ((after (.htcFreed 0 4 {}) { atWork with panels := [(0, panelWith 7 [] [(4, closing .req)])] }).wayOf 0 7 3).map
    (fun e => (e.st, e.agent)) = some (4, 5) := by decide +kernel
theorem test_wbkLineRelease :
    ((after (.wbkLineRelease 0 4 {}) { atWork with panels := [(0, panelWith 7 [] [(4, closing .wbk)])] }).panel 0).htcs = [] := by
  decide +kernel

/-- A DirtyHint for line 28, which agent 5 or agent 6 holds in U-clean. -/
def hintState (agent : Nat) : State := withMsg (panelWith 7 [{}, { st := 2, agent := agent }] []) cRSP (msg cRSP oDirtyHint)

/-- A request's HTC that counts acknowledgements. -/
def counts (phase : Phase) (expect : Nat) : Htc :=
  { job := .req, pool := 0, phase := phase, seq := 2, acc := 9, pkt := msg cREQ oRdU, line := 28, reg := some region0, tabled := true,
    way := some 3, expect := expect, sum := 1, fin := { st := 4, agent := 6 } }

/-- That SnpAck at panel 0, with this HTC. -/
def ackState (mgt : Bool) (h : Htc) : State := withMsg (panelWith 7 [] [(4, h)]) (if mgt then cMGT else cRSP) (ackMsg mgt)

/-- An RdS of an untracked line that waits for CompAck. -/
def granted : Htc :=
  { job := .req, pool := 0, phase := .grant, seq := 2, acc := 9, pkt := msg cREQ oRdS, line := 28, reg := some region0, tabled := true,
    way := some 3, plan := { comp := oCompE, dsrc := 0 }, sentComp := true, sentData := true }

def cackMsg (marks : Nat) : Packet :=
  let k := msg cRSP oCompAck
  { k with hdr := { k.hdr with htc := 4, marks := marks } }

/-- Premises of AcknowledgementsAtTheHome: DirtyHint, SnpAck, CompAck. -/
theorem wit_hint (agent : Nat) (ha : agent ∈ [5, 6]) :
    let s := hintState agent
    let es (w : Nat) : Ent := if w = 1 then { st := 2, agent := agent } else {}
    s.takes 0 ∧ (s.panel 0).calm ∧ (s.q (.panelIn 0) cRSP).head? = some (msg cRSP oDirtyHint) ∧
    (∀ e ∈ (s.panel 0).htcs, e.2.onLine 28 = false) ∧ s.setReads 0 7 es ∧ (s.hash 28).set = 7 ∧ (es 1).tag = (s.hash 28).tag ∧
    ∀ v, v < 16 → v ≠ 1 → (es v).st ≠ 2 := by
  simp only [List.mem_cons, List.not_mem_nil, or_false] at ha
  unfold State.takes State.acts Panel.calm State.setReads
  rcases ha with rfl | rfl <;> decide +kernel
theorem wit_snpack (mgt : Bool) (h : Htc) (hh : h ∈ [counts .collect 4, counts .close 3]) :
    let s := ackState mgt h
    s.takes 0 ∧ (s.panel 0).calm ∧ (s.q (.panelIn 0) (if mgt then cMGT else cRSP)).head? = some (ackMsg mgt) ∧
    (ackMsg mgt).hdr.opc = (if mgt then 32 + oSnpAck else oSnpAck) ∧ (ackMsg mgt).hdr.htc / 1024 = 0 ∧
    smFind (s.panel 0).htcs 4 = some h ∧ ¬ (h.ow = some 5 ∧ h.owAck = false) := by
  simp only [List.mem_cons, List.not_mem_nil, or_false] at hh
  unfold State.takes State.acts Panel.calm
  rcases hh with rfl | rfl <;> cases mgt <;> decide +kernel
theorem wit_snpack_sums : (counts .collect 4).sum + 2 < 4 ∧ (counts .close 3).sum + 2 = 3 := by decide
theorem wit_compack (m : Nat) (hm : m ∈ [1, 2, 3, 4]) :
    let s := withMsg (panelWith 7 [] [(4, granted)]) cRSP (cackMsg m)
    s.takes 0 ∧ (s.panel 0).calm ∧ (s.q (.panelIn 0) cRSP).head? = some (cackMsg m) ∧ (cackMsg m).hdr.htc = 0 * 1024 + 4 ∧
    smFind (s.panel 0).htcs 4 = some granted ∧ granted.pkt.hdr.src = (cackMsg m).hdr.src ∧ granted.cack = none ∧ granted.ow = none ∧
    granted.owAck = true ∧ granted.owNeed = false ∧ granted.owEvict = false ∧ granted.oldPal = none ∧ granted.hint = false ∧
    granted.deadRq = false ∧ granted.ent = {} ∧ granted.plan = { comp := oCompE, dsrc := 0 } := by
  unfold State.takes State.acts Panel.calm
  fin_cases hm <;> decide +kernel

/-- R130: the hint of the holder, and of another agent. -/
theorem test_dirtyhint :
    smFind ((after (.dirtyhint 0 {}) (hintState 5)).panel 0).dir 113 = some ({ st := 3, agent := 5 } : Ent).enc := by decide +kernel
theorem test_dirtyhint_other : ((after (.dirtyhint 0 {}) (hintState 6)).panel 0).dir = ((hintState 6).panel 0).dir := by decide +kernel
/-- R133: the sum, and the last acknowledgement of a narrowing. -/
theorem test_snpack : (htcOf (after (.snpack 0 false {}) (ackState false (counts .collect 4))) 4).map (·.sum) = some 3 := by
  decide +kernel
theorem test_snpack_mgt : (htcOf (after (.snpack 0 true {}) (ackState true (counts .close 3))) 4).map (·.closeAt) = some 80000 := by
  decide +kernel
/-- R116: S makes a sharer, E of an agent with dirty hints a holder in U-clean. -/
theorem test_compack_s :
    (htcOf (after (.compack 0 {}) (withMsg (panelWith 7 [] [(4, granted)]) cRSP (cackMsg 1))) 4).map (fun h => (h.phase, h.fin.st, h.fin.agent)) =
      some (.close, 4, 5) := by decide +kernel
theorem test_compack_e :
    (htcOf (after (.compack 0 {}) (withMsg (panelWith 7 [] [(4, granted)]) cRSP (cackMsg 2))) 4).map (·.fin.st) = some 2 := by
  decide +kernel

/-- A RdU whose owner, agent 5, was asked for its line with SnpU HOME; its SnpAck has come, and announced the line, or has not. -/
def owned (acked : Bool) : Htc := { counts .collect 4 with ow := some 5, owSnp := 5, owAck := acked, owNeed := acked, ent := { st := 3, agent := 5 }, vec := vbit 5 }

/-- A sweep of set 7 that waits. -/
def sweeping7 : Htc := { counts .collect 4 with job := .sweep, pool := 2, line := 7 }

def datMsg (opc : Nat) : Packet :=
  let k := msg cDAT opc
  { k with hdr := { k.hdr with htc := 4, marks := 8 } }

/-- Premises of DirtyDataAtTheHome. -/
theorem wit_dataFwd (a : Bool) :
    let s := withMsg (panelWith 7 [] [(4, owned a)]) cDAT (datMsg oDataFwd)
    s.takes 0 ∧ (s.panel 0).calm ∧ (s.q (.panelIn 0) cDAT).head? = some (datMsg oDataFwd) ∧ smFind (s.panel 0).htcs 4 = some (owned a) ∧
    (datMsg oDataFwd).hdr.poison = false ∧ (owned a).ow = some 5 ∧ (s.panel 0).dead.getLsbD 5 = false ∧ (owned a).sum < (owned a).expect ∧
    (owned a).tabled = true ∧ (owned a).reg = some region0 ∧ (owned a).buf = none ∧ (owned a).fwd = none := by
  unfold State.takes State.acts Panel.calm; cases a <;> decide +kernel
theorem wit_sweepData :
    let s := withMsg (panelWith 7 [] [(4, sweeping7)]) cDAT (datMsg oSweepData)
    s.takes 0 ∧ (s.panel 0).calm ∧ (s.q (.panelIn 0) cDAT).head? = some (datMsg oSweepData) ∧ smFind (s.panel 0).htcs 4 = some sweeping7 ∧
    (s.px 0 {}).regOf 28 = some region0 ∧ (s.px 0 {}).bufFree = true := by
  unfold State.takes State.acts Panel.calm; decide +kernel

/-- All data-buffer lines of the panel in use, by HTCs of other lines. -/
def fullBuffers : SMap Htc := (List.range 16).map fun j => (j + 8, { counts .collect 4 with line := 4096 + j, bufs := 16 })

theorem wit_sweepData_full (e : Ent) (he : e ∈ [({} : Ent), { st := 4, agent := 6 }]) :
    let s := withMsg (panelWith 7 [{}, {}, e] ((4, sweeping7) :: fullBuffers)) cDAT (datMsg oSweepData)
    s.takes 0 ∧ (s.panel 0).calm ∧ smFind (s.panel 0).htcs 4 = some sweeping7 ∧ (s.px 0 {}).bufFree = false ∧ s.setReads 0 7 (way2 e) ∧
    (s.hash 28).set = 7 ∧ (s.hash 28).tag = 0 := by
  simp only [List.mem_cons, List.not_mem_nil, or_false] at he
  unfold State.takes State.acts Panel.calm State.setReads
  rcases he with rfl | rfl <;> decide +kernel

theorem test_datafwdToHome :
    (smGet [] ((after (.datafwdToHome 0 {}) (withMsg (panelWith 7 [] [(4, owned true)]) cDAT (datMsg oDataFwd))).panel 0).memOut 1).map
      (fun q => (q.mopc, q.line, q.data)) = [(2, 28, 77#512)] := by decide +kernel
theorem test_datafwd_held :
    (htcOf (after (.datafwdToHome 0 {}) (withMsg (panelWith 7 [] [(4, owned false)]) cDAT (datMsg oDataFwd))) 4).map (·.fwd) =
      some (some { data := 77#512 }) := by decide +kernel
theorem test_sweepdata :
    ((after (.sweepdata 0 {}) (withMsg (panelWith 7 [] [(4, sweeping7)]) cDAT (datMsg oSweepData))).panel 0).outq.map (·.hdr.opc) = [oWbAck] := by
  decide +kernel

/-- A queued RdS of line 28. -/
def queued : Htc := { job := .req, pool := 0, phase := .queued, seq := 2, acc := 9, pkt := msg cREQ oRdS, line := 28 }

def queuedState (htcs : SMap Htc) : State := { atWork with panels := [(0, panelWith 7 [] htcs)] }

/-- Premises of QueuedReplayedAndBrokenHtcs. -/
theorem wit_queued :
    let s := queuedState [(4, queued)]
    s.takes 0 ∧ (s.panel 0).calm ∧ smFind (s.panel 0).htcs 4 = some queued ∧ (s.px 0 {}).mayStart 4 queued = true ∧
    queued.job ∈ [Job.req, .mRecall, .mInv] ∧ queued.phase = .queued := by unfold State.takes State.acts Panel.calm; decide +kernel
theorem wit_replay :
    let s := atD2State oRdS {}
    s.takes 0 ∧ (s.panel 0).calm ∧ smFind (s.panel 0).htcs 4 = some (fresh oRdS) ∧ (fresh oRdS).job ∈ [Job.req, .mRecall, .mInv] ∧
    (fresh oRdS).phase = .decide ∧ (fresh oRdS).hold ∈ [Hold.go, .way, .device] ∧
    ∀ e ∈ (s.panel 0).htcs, e.1 ≠ 4 → e.2.onLine 28 = true → e.2.phase = .queued := by
  unfold State.takes State.acts Panel.calm; decide +kernel
theorem wit_notYet :
    let s := queuedState [(3, counts .collect 4), (4, queued)]
    s.takes 0 ∧ (s.panel 0).calm ∧ smFind (s.panel 0).htcs 4 = some queued ∧ (s.px 0 {}).mayStart 4 queued = false ∧
    queued.phase ≠ .decide := by unfold State.takes State.acts Panel.calm; decide +kernel
theorem wit_broken : ({ rcd := .ue } : Upset).rcd = .ue ∧
    ((reqState oRdS).px 0 { rcd := .ue }).reqTurn = some (cREQ, msg cREQ oRdS, 0, 0) ∧
    ((evState oEvC 2 5).px 0 { rcd := .ue }).wbkTurn = some (msg cWBK oEvC) := by decide +kernel

theorem test_htcStartQueued :
    (htcOf (after (.htcStartQueued 0 4 {}) (queuedState [(4, queued)])) 4).map (fun h => (h.phase, h.start)) = some (.decide, 80000) := by
  decide +kernel
theorem test_htcStartQueued_waits :
    (htcOf (after (.htcStartQueued 0 4 {}) (queuedState [(3, counts .collect 4), (4, queued)])) 4).map (·.phase) = some .queued := by
  decide +kernel
/-- R437, R438. -/
theorem test_htcReplay : (after (.htcReplay 0 4 false {}) (queuedState [(4, queued)])).w6g 0x900F0 = 1 := by decide +kernel
theorem test_htcReplay_ue :
    (fun t : State => (t.clk.fatal, t.clk.fatalRows, t.clk.frozenPanels)) (after (.htcReplay 0 4 true {}) (queuedState [(4, queued)])) =
      (true, 4#7, 1#16) := by decide +kernel

/-- A death marker of agent 9. -/
def marker : Packet := { hdr := { cls := cWBK, opc := 63, src := 9 }, aux := 9 }

def markerState (sc : Option Scan) : State := withMsg { panelWith 7 [] [(4, queued)] with scan := sc } cWBK marker

/-- A slot with vector {5, 9}. -/
def slot59 : PSlot := { vec := vbit 5 ||| vbit 9, ref := 2, part := 3, valid := true }

/-- The words of Palette slot `k`. -/
def slotWords (k : Nat) (v : PSlot) : SMap (BitVec 80) :=
  (List.range 4).map (fun j => (k * 8 + j, encW (v.vec.extractLsb' (64 * j) 64))) ++ [(k * 8 + 4, encW v.word4)]

def palScan (pos : Nat) (v : PSlot) : State :=
  { atWork with panels := [(0, { pal := slotWords pos v, scan := some { agents := vbit 9, pos := pos } })] }

/-- Clean entries of agents 9 and 5 in the set under the scan. -/
def scanEnts (w : Nat) : Ent := if w = 0 then { tag := 1, st := 4, agent := 9 } else if w = 1 then { tag := 2, st := 2, agent := 5 } else {}

def dirScan (pos : Nat) (next : Vec) : State :=
  { atWork with panels := [(0, { panelWith pos [scanEnts 0, scanEnts 1] [] with scan := some { agents := vbit 9, pal := false, pos := pos }, scanNext := next })] }

/-- Premises of DeathMarkersAndScans. -/
theorem wit_marker (sc : Option Scan) (hs : sc ∈ [none, some { agents := vbit 8 }]) :
    let s := markerState sc
    s.takes 0 ∧ (s.px 0 {}).wbkTurn = some marker ∧ (s.panel 0).dead.getLsbD 9 = false ∧
    ∀ e ∈ (s.panel 0).htcs, e.2.pkt.hdr.src ≠ 9 ∧ ¬ ((e.2.owEvict = true ∨ e.2.owNeed = true ∨ marker.desc ≠ 0) ∧ e.2.ow = some 9) := by
  simp only [List.mem_cons, List.not_mem_nil, or_false] at hs
  unfold State.takes State.acts
  rcases hs with rfl | rfl <;> decide +kernel
theorem wit_palScan (pos : Nat) (hp : pos = 0 ∨ pos = 4095) : (palScan pos slot59).takes 0 ∧ (palScan pos slot59).slotReads 0 pos slot59 := by
  refine ⟨?_, fun cw => if cw = 4 then slot59.word4.toNat else (slot59.vec.extractLsb' (64 * cw) 64).toNat, ?_, ?_⟩
  · unfold State.takes State.acts; rcases hp with rfl | rfl <;> decide +kernel
  · rcases hp with rfl | rfl <;> decide +kernel
  · decide +kernel
theorem wit_dirScan (pos : Nat) (hp : pos = 0 ∨ pos = 16383) :
    let s := dirScan pos (vbit 3)
    s.takes 0 ∧ s.setReads 0 pos scanEnts ∧ pos ∉ (s.panel 0).sweeping ∧
    (∀ w, w < 16 → (scanEnts w).st ≠ 0 → (s.px 0 {}).lineBusy (s.unhash 0 pos (scanEnts w).tag) = false) ∧
    (∀ w, w < 16 → (scanEnts w).st ∈ [0, 2, 4, 8] ∨ (scanEnts w).st ∈ [1, 3, 6] ∧ (vbit 9).getLsbD (scanEnts w).agent = false) := by
  unfold State.takes State.acts State.setReads
  rcases hp with rfl | rfl <;> decide +kernel

theorem test_deathMarker : ((after (.deathMarker 0 {}) (markerState none)).panel 0).scan = some { agents := vbit 9 } := by decide +kernel
theorem test_deathMarker_next : ((after (.deathMarker 0 {}) (markerState (some { agents := vbit 8 }))).panel 0).scanNext = vbit 9 := by
  decide +kernel
theorem test_deadScanPaletteSlot :
    smFind ((after (.deadScanPaletteSlot 0 {}) (palScan 4095 slot59)).panel 0).pal (4095 * 8) = some (encW 32) := by decide +kernel
theorem test_deadScanDirectorySet :
    (fun t : State => (smFind (t.panel 0).dir 0, smFind (t.panel 0).dir 1)) (after (.deadScanDirectorySet 0 {}) (dirScan 0 0)) =
      (some ({} : Ent).enc, some (scanEnts 1).enc) := by decide +kernel
theorem test_deadScan_again :
    ((after (.deadScanDirectorySet 0 {}) (dirScan 16383 (vbit 3))).panel 0).scan = some { agents := vbit 3 } := by decide +kernel

/-- A panel whose Restorer is due. -/
def restorer (prof pos : Nat) : State :=
  { atWork with
    host := { prof := BitVec.ofNat 2 prof }
    panels := [(1, { panelWith pos [scanEnts 0, { scanEnts 1 with age := 3 }] [] with rpos := pos, pal := slotWords (pos - 16384) {} })] }

/-- Premises of RestorerStepsOfAPanel. -/
theorem wit_restDir (pos : Nat) (hp : pos = 0 ∨ pos = 16383) :
    let s := restorer 1 pos
    let es (w : Nat) : Ent := if w = 1 then { scanEnts 1 with age := 3 } else scanEnts w
    s.acts 1 ∧ (s.panel 1).calm ∧ (s.panel 1).recount = none ∧ s.stepDue 1 = true ∧ s.ep.cals = [] ∧
    (s.panel 1).rpos < s.build.sets ∧ s.sharer ≠ some 1 ∧ pos ∉ (s.panel 1).sweeping ∧ s.setReads 1 pos es ∧ (s.panel 1).merges = [] ∧
    (∀ w, w < 16 → (es w).st ≠ 0 → (s.px 1 {}).lineBusy (s.unhash 1 pos (es w).tag) = false) := by
  unfold State.acts Panel.calm State.setReads
  rcases hp with rfl | rfl <;> decide +kernel
theorem wit_restPal (pos : Nat) (hp : pos = 16384 ∨ pos = 20479) :
    let s := restorer 1 pos
    s.acts 1 ∧ s.stepDue 1 = true ∧ s.ep.cals = [] ∧ s.rs.dip = false ∧ s.build.sets ≤ (s.panel 1).rpos ∧ (s.panel 1).rpos < s.build.sets + 4 * s.build.palSets ∧
    s.slotReads 1 (pos - 16384) {} := by
  refine ⟨?_, ?_, ?_, ?_, ?_, ?_, fun _ => 0, ?_, ?_⟩
  · unfold State.acts; rcases hp with rfl | rfl <;> decide +kernel
  all_goals (rcases hp with rfl | rfl <;> decide +kernel)

/-- The same with panels whose pass has ended. -/
def passed (ps : List Nat) : State := { restorer 1 20479 with rs := { passed := ps } }

theorem wit_restPass : (∀ q, q < 4 → q = 1 ∨ q ∈ (passed [0, 2, 3]).rs.passed ∨ (passed [0, 2, 3]).panelFrozen q = true) ∧
    ¬ (0 = 1 ∨ 0 ∈ (passed [2]).rs.passed ∨ (passed [2]).panelFrozen 0 = true) ∧ (passed [2]).stepDue 1 = true := by decide +kernel
theorem wit_restNotDue : (restorer 0 0).restWaiting 1 = none ∧ (restorer 0 0).stepAsk 1 = false := by decide +kernel

/-- A panel whose Restorer's request waits at the root, or is to, since the panel has had its management request in this KCLK. -/
def restWaits (pos : Nat) (turn asked : Bool) : State :=
  let s := restorer 1 pos
  { s with panels := s.panels.map fun e => (e.1, { e.2 with mgmtAt := if turn then some 10000 else none })
           net := { rsMgt := if asked then [{ panel := 1, recnt := false, pos := pos, epoch := 0 }] else [] } }
theorem wit_restWaits (pos : Nat) (hp : pos = 0 ∨ pos = 16384) (turn : Bool) :
    (restWaits pos turn false).stepAsk 1 = true ∧ (restWaits pos turn false).mgmtOpen 1 = !turn ∧
    (restWaits pos turn true).restWaiting 1 = some { panel := 1, recnt := false, pos := pos, epoch := 0 } ∧
    (restWaits pos turn true).mgmtOpen 1 = !turn := by
  rcases hp with rfl | rfl <;> cases turn <;> decide +kernel
theorem test_restorer_waits : let t := after (.restorerDirectoryStep 1 {}) (restWaits 7 true false)
    t.net.rsMgt.map (·.pos) = [7] ∧ (t.panel 1).rpos = 7 := by decide +kernel
theorem test_restorer_crosses : let t := after (.packetHop (.rootToPanel 1) {}) (restWaits 7 false true)
    t.net.rsMgt = [] ∧ (t.panel 1).rpos = 8 := by decide +kernel
theorem smallBuild_ok : smallBuild.ok := by
  refine ⟨by decide, by decide, by decide, by decide, by decide, by decide, ⟨0, by decide, by decide⟩, rfl, fun x hx => ?_, ⟨0, by decide⟩,
    by unfold Build.hasLeaf; decide, by decide⟩
  have h : x = some (0, 8) ∨ x = none := by
    rcases List.mem_cons.1 hx with h | h
    · exact Or.inl h
    · exact Or.inr (List.eq_of_mem_replicate h)
  rcases h with rfl | rfl <;> decide

theorem test_restorerDirectoryStep :
    (fun t : State => (smFind (t.panel 1).dir 0, smFind (t.panel 1).dir 1))
      (after (.restorerDirectoryStep 1 {}) (restorer 1 0)) =
      (some ({ scanEnts 0 with age := 1 } : Ent).enc, some ({ scanEnts 1 with age := 3 } : Ent).enc) := by decide +kernel
theorem test_restorerPaletteStep : ((after (.restorerPaletteStep 1 {}) (restorer 1 16384)).panel 1).rpos = 16385 := by decide +kernel
theorem test_restorerPass : (after (.restorerPaletteStep 1 {}) (passed [0, 2, 3])).w6g 0xA1210 = 1 ∧
    (after (.restorerPaletteStep 1 {}) (passed [2])).rs.passed = [1, 2] := by decide +kernel
theorem test_restorerPaletteStep_last : ((after (.restorerPaletteStep 1 {}) (restorer 1 20479)).panel 1).rpos = 0 := by decide +kernel

/-- Set 7 of panel 0 waits for its sweep; way 0 is a hole, and agent 6, which supports sweeps, holds way 1. -/
def sweepState (htcs : SMap Htc) : State :=
  { atWork with panels := [(0, { panelWith 7 [{ st := 8, agent := 2 }, { tag := 1, st := 4, agent := 6 }] htcs with trigs := [(7, 0)] })] }

/-- The entries of that set. -/
def sweepEnts (w : Nat) : Ent := if w = 0 then { st := 8, agent := 2 } else if w = 1 then { tag := 1, st := 4, agent := 6 } else {}

/-- The same with a way that reads as untrusted. -/
def sweepBad : State :=
  { sweepState [] with panels := [(0, { (sweepState []).panel 0 with dir := smSet ((sweepState []).panel 0).dir (7 * 16 + 2) 0xF#72 })] }

/-- Premises of SetSweepStarts. -/
theorem wit_sweep :
    let s := sweepState []
    s.acts 0 ∧ (s.panel 0).calm ∧ 7 < s.build.sets ∧ (7, 0) ∈ (s.panel 0).trigs ∧ (s.px 0 {}).freeHtc 2 = some 992 ∧
    (s.px 0 {}).setClear 992 7 = true ∧ ((s.panel 0).htcs.map fun e => e.2.bufs).sum + 16 ≤ 256 ∧ s.setReads 0 7 sweepEnts ∧
    (∀ w, w < 16 → (sweepEnts w).st = 0 ∨ (sweepEnts w).st = 8 ∨ ((s.px 0 {}).holders (sweepEnts w).canon).2.vec = vbit 6 ∧
      isO ((s.px 0 {}).holders (sweepEnts w).canon).2.ent.st = false) ∧ s.feat 6 2 = true ∧
    (s.caching fun y => y.mode.feats.testBit 2) ≠ 0 ∧ (s.panel 0).htcs = [] := by
  unfold State.acts Panel.calm State.setReads; decide +kernel
theorem wit_sweep_bad :
    let s := sweepBad
    s.acts 0 ∧ (s.panel 0).calm ∧ (7, 0) ∈ (s.panel 0).trigs ∧ (s.px 0 {}).setClear 992 7 = true ∧
    (∀ w, w < 16 → w = 2 ∨ s.wayOf 0 7 w = some (sweepEnts w) ∧ (sweepEnts w).st ≤ 8) ∧
    ∀ e ∈ s.ports, ¬ (e.2.lstate = .admitted ∧ e.2.mode.kind = 1 ∧ e.2.mode.feats.testBit 2 = false) := by
  unfold State.acts Panel.calm; decide +kernel
/-- A word that is decoded as uncorrectable. -/
theorem dec_ue (x : Dec) (h : (match x with | .ue _ => true | _ => false) = true) : ∃ d, x = .ue d := by
  cases x with
  | ue d => exact ⟨d, rfl⟩
  | ok _ => exact Bool.noConfusion h
  | ce _ => exact Bool.noConfusion h
theorem wit_sweep_badWay : sweepBad.wayBad 0 7 2 := dec_ue _ (by decide +kernel)
theorem wit_sweep_waits (htcs : SMap Htc) (hh : htcs ∈ [[(4, counts .collect 4)], fullBuffers]) :
    let s := sweepState htcs
    s.acts 0 ∧ (s.panel 0).calm ∧ (s.px 0 {}).freeHtc 2 = some 992 ∧
    ((s.px 0 {}).setClear 992 7 = false ∨ ¬ ((s.panel 0).htcs.map fun e => e.2.bufs).sum + 16 ≤ 256) ∧
    (∀ e ∈ (s.panel 0).htcs, ¬ (e.2.job = .sweep ∧ e.2.line = 7) ∧
      ¬ (e.2.job = .req ∧ e.2.phase = .decide ∧ e.2.hold ≠ .go ∧ (s.px 0 {}).setOf e.2.line = 7)) := by
  simp only [List.mem_cons, List.not_mem_nil, or_false] at hh
  unfold State.acts Panel.calm
  rcases hh with rfl | rfl <;> decide +kernel
theorem wit_sweep_none : ∀ o, (8, o) ∉ ((sweepState []).panel 0).trigs := by
  have h : ((sweepState []).panel 0).trigs = [(7, 0)] := by decide +kernel
  intro o; rw [h]; simp

theorem test_setSweepStart :
    ((after (.setSweepStart 0 7 {}) (sweepState [])).panel 0).outq.map (fun k => (k.hdr.opc, k.vec)) = [(oSnpSweep, vbit 5 ||| vbit 6)] := by
  decide +kernel
theorem test_setSweepStart_bad : ((after (.setSweepStart 0 7 {}) sweepBad).panel 0).outq.map (·.hdr.opc) = [oSnpSweep] := by decide +kernel
theorem test_setSweepStart_waits :
    (htcOf (after (.setSweepStart 0 7 {}) (sweepState [(4, counts .collect 4)])) 992).map (·.phase) = some .decide := by decide +kernel

/-- A recall of line 28, which HTC 4 keeps busy or not, waits at the root for panel 0, or has its turn in this KCLK behind it. -/
def mgmtState (turn busy : Bool) : State :=
  { atWork with
    panels := [(0, { panelWith 7 [] (if busy then [(4, counts .collect 4)] else []) with mgmtAt := if turn then some 10000 else none })]
    net := { ezMgt := [{ panel := 0, req := .recall 28 3 false, epoch := 0 }, { panel := 0, req := .recall 29 3 false, epoch := 0 }] } }

/-- Premises of OneManagementRequestInAKclk. -/
theorem wit_mgmtRequest (turn busy : Bool) :
    let s := mgmtState turn busy
    s.takes 0 ∧ s.net.ezMgt.find? (fun q => q.panel = 0) = some { panel := 0, req := .recall 28 3 false, epoch := 0 } ∧ s.ez.asks = [] ∧
    ((s.panel 0).mgmtAt = some (s.clk.cyc / 8) ↔ turn = true) ∧ (s.px 0 {}).freeHtc 2 = some 992 ∧ (s.px 0 {}).acceptTime = true ∧
    smGet 0 s.net.dbl (outId (.rootToPanel 0)) ≤ s.clk.cyc ∧ s.restWaiting 0 = none ∧ s.routerFrozen 40 = false ∧
    (s.px 0 {}).lineBusy 28 = busy := by
  unfold State.takes State.acts; cases turn <;> cases busy <;> decide +kernel

/-- R152. -/
theorem test_mgmt_crosses : (htcOf (after (.packetHop (.rootToPanel 0) {}) (mgmtState false true)) 992).map (fun h => (h.job, h.phase, h.line)) =
    some (.mRecall, .queued, 28) := by decide +kernel
theorem test_mgmt_waits : (after (.packetHop (.rootToPanel 0) {}) (mgmtState true false)).net.ezMgt.length = 2 := by decide +kernel

/-! ### Machine, resets, ports -/

/-- What holds of every entry and of the default holds of every value of a table. -/
theorem smGet_all {α : Type} {P : α → Prop} {d : α} {m : SMap α} (hd : P d) (h : ∀ e ∈ m, P e.2) (i : Nat) : P (smGet d m i) := by
  induction m with
  | nil => exact hd
  | cons e m ih =>
    obtain ⟨j, a⟩ := e
    by_cases hj : j = i
    · have : smGet d ((j, a) :: m) i = a := by simp [smGet, smFind, hj]
      rw [this]; exact h _ List.mem_cons_self
    · have : smGet d ((j, a) :: m) i = smGet d m i := by simp [smGet, smFind, hj]
      rw [this]; exact ih fun x hx => h x (List.mem_cons_of_mem _ hx)

theorem test_step_front : step { atWork with pending := [.cpRstAssert, .tsRstAssert] } = exec .cpRstAssert { atWork with pending := [.tsRstAssert] } :=
  rfl
/-- Premises of EmptyQueueStepIsOneHclk. -/
theorem wit_idle : atWork.pending = [] ∧ atWork.clk.inReset = false ∧
    ({ atWork with clk := { inReset := true } } : State).clk.inReset = true := by decide
theorem test_idle_tick : (match step State.reset with | .next t => t.clk.cyc | _ => 0) = 1 := by decide +kernel

/-- Premises of LegalKeptByEveryStep and CanonicalFormKeptByEveryStep: a state with work that is legal and canonical. -/
theorem wit_legal : atWork.legal := by
  refine ⟨by decide, smGet_all (P := fun g : Ring => g.size.toNat ≤ 12) (by decide) (by decide),
    smGet_all (P := fun x : MemPort => x.credits ≤ 64) (by decide) (by decide),
    smGet_all (P := fun x : Port => 1 ≤ x.prio ∧ x.prio ≤ 3 ∧ ∀ v, x.prioPend = some v → 1 ≤ v ∧ v ≤ 3) ?_ ?_, by decide⟩
  all_goals simp [atWork, port5]
theorem wit_canonical : atWork.canonical := by unfold State.canonical; decide +kernel
theorem wit_step : ∃ t, step { atWork with pending := [.cpRstAssert] } = .next t := ⟨_, rfl⟩

/-- Premises of OnlyBlockResetClearsStickyState. -/
theorem wit_sticky_idle : ∃ t, step atWork = .next t := ⟨_, rfl⟩
theorem wit_sticky : Instr.wirUpdate 4 ≠ .blockRstAssert ∧ ∃ t, exec (.wirUpdate 4) atWork = .next t := by
  refine ⟨by decide, _, rfl⟩

/-- Premises of BlockResetAndRelease. -/
theorem wit_release : (after .blockRstAssert atWork).clk.inReset = true ∧ atWork.clk.inReset = false ∧
    (after .supplyWarnRise atWork).clk.warnPin = true := by decide +kernel
theorem test_blockRstAssert : (after .blockRstAssert { atWork with host := { prof := 2 } }).host.prof = 0 := by decide +kernel
theorem test_blockRstRelease : (after (.blockRstRelease true 2) (after .blockRstAssert atWork)).clk.wdog = true := by decide +kernel

/-- A block whose initialisation has lasted `c` HCLK, with one port out of reset. -/
def initAt (c : Nat) : State :=
  { build := smallBuild, clk := { cyc := c }, ports := [(0, { rst := false, hsPend := false })] }

/-- Premises of InitialisationEndsAndAttachesPorts. -/
theorem wit_init : (initAt 4096).live ∧ (initAt 4096).clk.initBusy = true ∧ 4096 ≤ (initAt 4096).clk.cyc ∧
    (∀ n, ((initAt 4096).port n).risePend = none) ∧ (∀ b, ((initAt 4096).br b).risePend = false) ∧
    (initAt 4096).slotBr 0 = 0 ∧ (initAt 4095).clk.cyc < 4096 :=
  ⟨⟨rfl, rfl⟩, rfl, by decide, smGet_all (P := fun x : Port => x.risePend = none) rfl (by decide),
    smGet_all (P := fun x : Br => x.risePend = false) rfl (by decide), by decide +kernel, by decide⟩
theorem test_initialisationComplete : ((after .initialisationComplete (initAt 4096)).port 0).lstate = .introduce := by decide +kernel
theorem test_initialisationComplete_early : (after .initialisationComplete (initAt 4095)).clk.initBusy = true := by decide +kernel

/-- Premises of SideResetsTimeAndTestWrapper, with records in the trace buffer. -/
def traced : State := { atWork with tr := { words := [(true, false, 1), (false, true, 2), (true, true, 3)] } }
theorem wit_sides : traced.live ∧ 0 < traced.build.slots ∧ 1 < traced.build.memPorts ∧ traced.clk.cpRst = false ∧ traced.clk.tpRst = false ∧
    traced.clk.tsRst = false ∧ (traced.tr.words.filter fun e => e.2.1) ≠ [] := by unfold State.live; decide +kernel
theorem test_cpRstAssert : (after .cpRstAssert atWork).clk.cpSvc = false := by decide +kernel
theorem test_tsRstAssert : (after (.timeValueTaken 7) (after .tsRstAssert atWork)).clk.time = 0 := by decide +kernel
theorem test_tpRstAssert : (after .tpRstAssert traced).w4g 0x6008 = 2 := by decide +kernel
theorem test_crossingResetRelease : (after (.crossingResetRelease .cp) (after .cpRstAssert atWork)).clk.cpRst = false := by decide +kernel
theorem test_timeValueTaken : (after (.timeValueTaken 7) atWork).clk.time = 7 := by decide +kernel
theorem test_debugEnableChange : (fun t : State => (t.clk.dbgS, t.clk.dbgNs)) (after (.debugEnableChange true false) atWork) = (true, false) := by
  decide +kernel
theorem test_wirUpdate : (after (.wirUpdate 4) { atWork with ez := { loc := [(0, 5)] } }).ez.loc = [] := by decide +kernel
theorem test_wirUpdate_other : (after (.wirUpdate 3) { atWork with ez := { loc := [(0, 5)] } }).ez.loc = [(0, 5)] := by decide +kernel
theorem test_wirUpdate_cells : (fun t : State => (t.clk.cellsOpen, t.clk.wpo)) (after (.wirUpdate 1) atWork) = (false, 0) := by decide +kernel
theorem test_wirUpdate_bypass : (after (.wirUpdate 0) { atWork with clk := { bypass := true } }).clk.wso = true := by decide +kernel
theorem test_twWrstnAssert : (after .twWrstnAssert (after (.wirUpdate 3) atWork)).clk.wir = 0 := by decide +kernel

/-- The block with one port as given. -/
def portIn (x : Port) : State := { build := smallBuild, clk := { cyc := 80000, initBusy := false }, ports := [(0, x)] }

/-- Premises of PortResetAndAttachment, in each link state. -/
theorem wit_portReset (l : LState) (r : Bool) :
    (portIn { port5 with lstate := l, reclaimed := r }).portActs 0 ∧ ((portIn { port5 with lstate := l, reclaimed := r }).port 0).lstate = l := by
  unfold State.portActs; cases l <;> cases r <;> decide +kernel
theorem wit_attach (l : LState) : let s := portIn { lstate := l, rst := false }
    s.portActs 0 ∧ (s.port 0).rst = false ∧ (s.port 0).hsPend = true ∧ s.clk.initBusy = false ∧ s.slotBr 0 = 0 := by
  unfold State.portActs; cases l <;> decide +kernel
theorem test_apRstAssert : ((after (.apRstAssert 0) (portIn port5)).port 0).lstate = .dead := by decide +kernel
theorem test_apRstAssert_eclipsed : ((after (.apRstAssert 0) (portIn { port5 with lstate := .eclipsed })).port 0).lstate = .eclipsed := by
  decide +kernel
theorem test_apRstRelease : ((after (.apRstRelease 0) (portIn {})).port 0).rst = false := by decide +kernel
theorem test_handshake_agent : ([true, false].map fun dead =>
    ((after (.handshakeComplete (.agent 0)) (portIn { lstate := if dead then .dead else .down, rst := false })).port 0).upHeld) =
    [[0, 0, 0, 0, 0, 0], [8, 4, 0, 16, 4, 2]] := by decide +kernel

/-- The words of a sound INTRO of a caching agent; `kind` 0 spoils it. -/
def introWord (kind : Nat) (i : Nat) : BitVec 32 :=
  let w : Nat → BitVec 32 := fun i => [0x0200000C#32, BitVec.ofNat 32 kind, 1000, 64, 4, 31, 10, 1000, 0x88888].getD i 0
  if i = 15 then crc32 ((List.range 15).map w) else w i

/-- A port in INTRODUCE. -/
def introducing : State := portIn { lstate := .introduce, rst := false, hsPend := false }

/-- An INTRO of the words given, at port 0. -/
def introOf (ws : List LinkWord) : Instr := .intro 0 (ws.headD {}) ((ws.drop 1).take 14) (ws.drop 15).head?

/-- Its words on the link, word `bad` with its parity broken. -/
def introLink (kind bad : Nat) : List LinkWord :=
  (List.range 16).map fun i => { word := introWord kind i, par := linkPar (introWord kind i) ^^^ (if i = bad then 1 else 0) }

/-- Premises of IntroSettlesOrFails. -/
theorem wit_intro : introducing.portActs 0 ∧ (introducing.port 0).lstate = .introduce ∧ (introWord 1 0).extractLsb' 24 8 = 2 ∧
    (introLink 1 16).map LinkWord.word = (List.range 16).map (introWord 1) ∧ (introLink 1 16).all LinkWord.ok = true ∧
    ((introLink 1 0).getD 0 {}).ok = false ∧ introSound (introWord 1) ∧ ¬ introSound (introWord 0) ∧
    crc32 ((List.range 15).map (introWord 0)) = introWord 0 15 := by
  unfold State.portActs introSound; decide +kernel
/-- INTRO records that fail one check each, from the second to the last of R287, and the CAUSE of each. -/
def introBad : List (Nat × BitVec 32 × BitVec 32) :=
  [(0, 0x02000002, 1), (1, 3, 3), (2, 0, 4), (3, 4097, 5), (4, 8, 2), (7, 0, 6), (8, 0x08888, 7)]
def introSpoilt (e : Nat × BitVec 32 × BitVec 32) (i : Nat) : BitVec 32 :=
  let w (i : Nat) : BitVec 32 := if i = e.1 then e.2.1 else introWord 1 i
  if i = 15 then crc32 ((List.range 15).map w) else w i
theorem wit_intro_cause : ∀ e ∈ introBad, introCause (introSpoilt e) = e.2.2 ∧ ¬ introSound (introSpoilt e) := by
  unfold introSound; decide +kernel
theorem test_intro_cause : introBad.all (fun e => (after (introOf ((List.range 16).map fun i =>
      { word := introSpoilt e i, par := linkPar (introSpoilt e i) })) introducing).outs.any fun o => match o with
    | .link _ ws => decide ((ws.getD 4 {}).word = e.2.2) | _ => false) = true := by decide +kernel
theorem test_intro : (fun x : Port => (x.lstate, x.mode.version, x.dnCrd))
    ((after (introOf (introLink 1 16)) introducing).port 0) = (.ready, 3, [8, 0, 8, 8, 8, 8]) := by
  decide +kernel
theorem test_intro_fails : ((after (introOf (introLink 0 16)) introducing).port 0).introErr = true := by
  decide +kernel
/-- R555: WS_EXTEST isolates the block, and what would leave it under WS_CLAMP does not. -/
theorem test_extest : (fun t : State => ((t.port 0).lstate, t.outs.length))
    (after (introOf (introLink 1 16)) (after (.wirUpdate 1) introducing)) = (.introduce, 0) := by decide +kernel
theorem test_clamp : (fun t : State => ((t.port 0).lstate, t.outs.length))
    (after (introOf (introLink 1 16)) (after (.wirUpdate 2) introducing)) = (.ready, 0) := by decide +kernel
/-- R285: a parity error in word 0 discards the record, one in a later word spoils it. -/
theorem test_intro_parity : ([0, 3].map fun b => ((after (introOf (introLink 1 b)) introducing).port 0).introErr) = [false, true] := by
  decide +kernel

/-- A port whose heartbeats have ended and which owes a snoop. -/
def late : State :=
  let s := portIn { port5 with hbWin := 100, psnp := [{ htc := 3, mgt := false, owner := false }] }
  { s with clk := { s.clk with cyc := 80007 } }

/-- A link word with good parity. -/
def linkWord (w : BitVec 32) : LinkWord := { word := w, par := linkPar w }

/-- Premises of HeartbeatAndDeathOfAPort. -/
theorem wit_heartbeat : late.portActs 0 ∧ (late.port 0).lstate = .admitted ∧
    late.clk.cyc % 8 = 7 ∧ (late.port 0).hbOld = none ∧
    (late.port 0).hbStart + max 1 (late.port 0).hbWin.toNat ≤ late.clk.cyc / 8 ∧ (late.port 0).psnp ≠ [] ∧
    (late.port 0).dlStart + max 8192 (late.router (late.build.leafOf 0)).snpdl.toNat ≤ late.clk.cyc := by
  unfold State.portActs; decide +kernel
theorem wit_heartbeat_not : (portIn port5).portActs 0 ∧ ((portIn port5).port 0).psnp = [] ∧
    ¬ ((portIn port5).port 0).hbStart + max 1 ((portIn port5).port 0).hbWin.toNat ≤ (portIn port5).clk.cyc / 8 := by
  unfold State.portActs; decide +kernel
theorem test_heartbeat : ((after (.heartbeat 0 (linkWord 0x01000000)) (portIn port5)).port 0).hbStart = 10000 := by decide +kernel
theorem test_heartbeat_parity : ((after (.heartbeat 0 { linkWord 0x01000000 with par := 0 }) (portIn port5)).port 0).hbStart = 0 := by
  decide +kernel
theorem test_heartbeatLapse : ((after (.heartbeatLapse 0) late).port 0).cause = 1 := by decide +kernel
theorem test_heartbeatLapse_early : ((after (.heartbeatLapse 0) (portIn port5)).port 0).lstate = .admitted := by decide +kernel
theorem test_snoopDeadlineExpiry : ((after (.snoopDeadlineExpiry 0) late).port 0).cause = 5 := by decide +kernel
theorem test_linkWordDiscarded : ((after (.linkWordDiscarded 0) (portIn port5)).port 0).lstate = .admitted := by decide +kernel

/-- Premises of EclipseOfAPort. -/
theorem wit_eclipse (l : LState) (h : Bool) : let s := portIn { port5 with lstate := l, shold := h }
    s.portActs 0 ∧ s.clk.initBusy = false ∧ (s.port 0).eclReq = false ∧ (s.port 0).shold = h := by
  unfold State.portActs; cases l <;> cases h <;> decide +kernel
theorem wit_fence : let s := portIn { port5 with fencing := true, eclReq := true, eclAcc := true }
    s.portActs 0 ∧ (s.port 0).lstate = .admitted ∧ (s.port 0).fencing = true ∧ s.inflight 0 = 0 ∧
    (∀ p, p < s.build.panels → s.present p (s.port 0).agent = false) ∧ s.eclTivOwed 0 = false := by
  unfold State.portActs; decide +kernel
theorem test_apEclReqRise : ((after (.apEclReqRise 0 false) (portIn port5)).port 0).fencing = true := by decide +kernel
theorem test_apEclReqRise_held : ((after (.apEclReqRise 0 true) (portIn { port5 with shold := true })).port 0).fencing = false := by
  decide +kernel
theorem test_apEclReqFall : ((after (.apEclReqFall 0) (portIn { port5 with fencing := true, eclReq := true })).port 0).fencing = false := by
  decide +kernel
theorem test_portFenceCloses_op : let s := portIn { port5 with fencing := true, eclOp := true }
    (after (.portFenceCloses 0) { s with ez := { ops := [{ ring := 0, opc := 0x2D, d := 1, words := [0, 100], started := true }] } }).ez.ops.map
      (·.status) = [some 1] := by decide +kernel
theorem test_portFenceCloses : (fun x : Port => (x.lstate, x.eclAck))
    ((after (.portFenceCloses 0) (portIn { port5 with fencing := true, eclReq := true, eclAcc := true })).port 0) = (.eclipsed, true) := by
  decide +kernel

/-- A dead port whose agent is gone from every panel. -/
def reclaimable (x : Port) : State :=
  { portIn { x with lstate := .dead } with panels := (List.range 4).map fun p => (p, { dead := vbit 5 }) }

/-- Premises of ReclamationOfADeadPort. -/
theorem wit_reclaim (r : Bool) : let s := reclaimable { port5 with rstSince := r }
    s.portActs 0 ∧ (s.port 0).lstate = .dead ∧ (s.port 0).reclaimed = false ∧ s.inflight 0 = 0 ∧
    (∀ e ∈ s.net.ebars, e.slot ≠ 0) ∧ (∀ p, p < s.build.panels → s.panelClear p (s.port 0).agent = true) ∧ s.slotBr 0 = 0 := by
  unfold State.portActs; cases r <;> decide +kernel
theorem test_reclamationComplete : ((after (.reclamationComplete 0) (reclaimable port5)).port 0).reclaimed = true := by decide +kernel
theorem test_reclamationComplete_reset :
    ((after (.reclamationComplete 0) (reclaimable { port5 with rstSince := true })).port 0).lstate = .introduce := by decide +kernel

/-- The flits of an upward packet with a good parity. -/
def upFlits (h : Hdr) : UpFlits :=
  { chan := h.cls, flits := ({ hdr := h } : Packet).flits 16 }

/-- Its header with a parity error. -/
def badFlits (h : Hdr) : UpFlits :=
  { chan := h.cls, flits := (({ hdr := h } : Packet).flits 16).map fun f => { f with par := 0 } }

/-- A RdS of agent 5. -/
def rdsHdr (src : Nat) : Hdr := { cls := cREQ, opc := oRdS, src := src, tag := 9, addr := 28, part := 3, size := 6, world := 1 }

/-- A port that may send. -/
def sender (l : LState) : State := portIn { port5 with lstate := l, upHeld := [8, 4, 0, 16, 4, 2] }

/-- Premises of UpwardPacketCheckedAtTheLeaf: a sound packet, a faulty one, another agent's, and states that are not admitted. -/
theorem wit_arrives (l : LState) (hl : l ∈ [LState.admitted, .introduce, .ready, .eclipsed]) (f : UpFlits)
    (hf : f ∈ [upFlits (rdsHdr 5), upFlits (rdsHdr 6), badFlits (rdsHdr 5)]) : (sender l).arrives 0 f := by
  unfold State.arrives State.portActs
  fin_cases hl <;> fin_cases hf <;> decide +kernel
theorem wit_upward (l : LState) (hl : l ∈ [LState.admitted, .introduce, .ready, .eclipsed]) :
    ((sender l).port 0).width = 16 ∧ (upFlits (rdsHdr 5)).psnp = .ok ∧ (sender l).hasCredit (.leafUp 0) cREQ = true ∧ upFaulty 16 (upFlits (rdsHdr 5)) = false ∧
    upFaulty 16 (upFlits (rdsHdr 6)) = false ∧ upFaulty 16 (badFlits (rdsHdr 5)) = true ∧
    (Hdr.ofFlit (upFlits (rdsHdr 5)).hdr).src = 5 ∧ (Hdr.ofFlit (upFlits (rdsHdr 6)).hdr).src = 6 ∧
    (Hdr.ofFlit (upFlits (rdsHdr 5)).hdr).part = 3 ∧ rowFive port5 (Hdr.ofFlit (upFlits (rdsHdr 5)).hdr) = false ∧
    ((sender l).router 0).epoch < 2 ∧ ((sender l).port 0).pebk.extractLsb' 16 8 = 0 := by
  fin_cases hl <;> decide +kernel
theorem test_upwardPacketCheck : ((after (.upwardPacketCheck 0 (upFlits (rdsHdr 5))) (sender .admitted)).q (.leafUp 0) cREQ).map (·.hdr.addr) =
    [28] := by decide +kernel
theorem test_upwardPacketCheck_src : ((after (.upwardPacketCheck 0 (upFlits (rdsHdr 6))) (sender .admitted)).port 0).protoErr = 1 := by
  decide +kernel

theorem wit_upward_full :
    let s := { sender .admitted with net := { qs := [(locKey (.leafUp 0) cREQ, List.replicate 16 (msg cREQ oRdS))] } }
    s.arrives 0 (upFlits (rdsHdr 5)) ∧ s.upRoom 0 (rdsHdr 5) = false := by
  unfold State.arrives State.portActs; decide +kernel

/-- A port with credits to give and to take. -/
def credits (dn : Nat) (qs : SMap (List Packet)) : State :=
  { portIn { port5 with dnCrd := List.replicate 6 dn, dnMax := [1, 0, 1, 1, 1, 1], upFreed := [1, 1, 1, 1, 1, 1] } with net := { qs := qs } }

/-- Premises of PortCredits. -/
theorem wit_credits (c : Nat) (hc : c ∈ [cREQ, cSNP, cRSP, cDAT, cMGT]) (dn : Nat) (hd : dn = 0 ∨ dn = 1) : let s := credits dn []
    s.portActs 0 ∧ (s.port 0).rst = false ∧ (s.port 0).hsPend = false ∧ (s.port 0).lstate = .admitted ∧ c < (s.port 0).dnCrd.length ∧
    (s.port 0).dnCrd.getD c 0 = dn ∧ (s.port 0).dnMax.getD c 0 = 1 ∧ s.q (.portDown 0) c = [] ∧ 0 < (s.port 0).upFreed.getD c 0 ∧
    s.withheld 0 = false := by
  unfold State.portActs
  rcases hd with rfl | rfl <;> fin_cases hc <;> decide +kernel
theorem wit_credits_waiting : (credits 0 [(locKey (.portDown 0) cRSP, [msg cRSP oCompE])]).q (.portDown 0) cRSP = [msg cRSP oCompE] ∧
    (portIn { port5 with prioPend := some 1 }).withheld 0 = true := by decide +kernel
theorem test_downwardCredit : ((after (.downwardCredit 0 { cls := cRSP }) (credits 0 [])).port 0).dnCrd.getD cRSP 0 = 1 := by decide +kernel
theorem test_downwardCredit_over : ((after (.downwardCredit 0 { cls := cRSP }) (credits 1 [])).port 0).cause = 3 := by decide +kernel
theorem test_upwardCreditReturn : (after (.upwardCreditReturn 0 cDAT) (credits 0 [])).outs = [.credit 0 cDAT] := by decide +kernel

/-- Branch 0 as given. -/
def branchIn (x : Br) : State := { portIn { port5 with lstate := .introduce } with net := { brs := [(0, x)] } }

/-- Premises of BranchEclipseAndLiveness. -/
theorem wit_branch (st : Nat) (hs : st ∈ [0, 1, 2]) (h : Bool) : let s := branchIn { bstate := st, shold := h }
    s.live ∧ s.build.hasBranch 0 = true ∧ s.clk.initBusy = false ∧ (s.br 0).eclReq = false ∧ (s.br 0).shold = h ∧ s.clk.frozenRoot = false ∧
    (s.br 0).bstate = st := by
  unfold State.live
  fin_cases hs <;> cases h <;> decide +kernel
theorem wit_branchReady : ({ branchIn { bstate := 1 } with ports := [] } : State).branchReady 0 = true ∧
    (branchIn {}).branchReady 0 = false := by decide +kernel
theorem test_brEclReqRise : (fun t : State => ((t.br 0).bstate, (t.port 0).lstate)) (after (.brEclReqRise 0 false) (branchIn {})) = (1, .down) := by
  decide +kernel
theorem test_brEclReqFall : ((after (.brEclReqFall 0) (branchIn { bstate := 1, eclReq := true })).br 0).bstate = 0 := by decide +kernel
theorem test_branchFenceCloses : ((after (.branchFenceCloses 0) { branchIn { bstate := 1, eclReq := true, eclAcc := true } with ports := [] }).br 0).eclAck = true := by
  decide +kernel
theorem test_branchLivenessLoss : (after (.branchLivenessLoss 0 1024) (branchIn {})).clk.frozenRoot = true := by decide +kernel
theorem test_branchLivenessLoss_early : (after (.branchLivenessLoss 0 1023) (branchIn {})).clk.fatal = false := by decide +kernel

/-! ### The tree -/

/-- The block with packets in the tree. -/
def treeIn (qs : List (Loc × Nat × List Packet)) : State :=
  { atWork with net := { qs := qs.foldl (fun (m : SMap (List Packet)) e => smSet m (locKey e.1 e.2.1) e.2.2) [] } }

/-- Two heads at port 0, a SnpAck and a RdS. -/
def hopState : State := treeIn [(.leafUp 0, cREQ, [msg cREQ oRdS]), (.leafUp 0, cRSP, [ackMsg false])]

/-- Premises of LeafForwardsTheArbitrationWinner: the winner of two, and a REQ alone. -/
theorem wit_hop : hopState.live ∧ 0 < hopState.build.leafN ∧ hopState.routerFrozen 0 = false ∧
    hopState.cands (.leafToBranch 0) = [⟨.leafUp 0, cREQ, msg cREQ oRdS⟩, ⟨.leafUp 0, cRSP, ackMsg false⟩] ∧
    Beats (.leafToBranch 0) ⟨.leafUp 0, cRSP, ackMsg false⟩ ⟨.leafUp 0, cREQ, msg cREQ oRdS⟩ ∧ (hopState.port 0).lstate ≠ .dead := by
  unfold State.live Beats; decide +kernel
theorem wit_hop_req : (treeIn [(.leafUp 0, cREQ, [msg cREQ oRdS])]).cands (.leafToBranch 0) = [⟨.leafUp 0, cREQ, msg cREQ oRdS⟩] := by
  decide +kernel
theorem test_packetHop : (fun t : State => ((t.q (.branchUp 0) cRSP).length, (t.q (.leafUp 0) cREQ).map (·.skips)))
    (after (.packetHop (.leafToBranch 0) {}) hopState) = (1, [[(.leafToBranch 0, 1)]]) := by decide +kernel

/-- A released write at port 0, with or without a write before it. -/
def rlsState (reqs : List POut) : State :=
  { treeIn [(.leafUp 0, cREQ, [{ msg cREQ oWrU with hdr := { (msg cREQ oWrU).hdr with marks := 4 } }])] with
    ports := [(0, { port5 with reqs := reqs })] }

/-- Premises of ReleaseHoldsForEarlierWrites. -/
theorem wit_rls : let s := rlsState []
    s.live ∧ 0 < s.build.slots ∧ (s.q (.leafUp 0) cREQ).map (fun k => (k.hdr.opc, k.hdr.marks.testBit 2, k.hdr.src, k.home, k.la.length)) =
      [(oWrU, true, 5, 0, 0)] ∧
    s.hasCredit (.branchUp (s.build.leafOf 0)) cREQ = true ∧ s.routerFrozen (s.build.leafOf 0) = false ∧ (s.port 0).reqs = [] ∧
    (s.cands (.leafToBranch 0)).map (fun c => (c.l, c.key, c.k.hdr.prio)) = [(.leafUp 0, cREQ, 2)] ∧
    ((rlsState [{ tag := 3, opc := oWrU }]).port 0).reqs = [{ tag := 3, opc := oWrU }] := by unfold State.live; decide +kernel
/-- An acknowledgement of another port goes before it. -/
def rlsBehind : State := let s := rlsState []; s.setQ (.leafUp 1) cRSP [ackMsg false]
theorem wit_rls_behind : let s := rlsBehind; let c : Cand := { l := .leafUp 1, key := cRSP, k := ackMsg false }
    c ∈ s.cands (.leafToBranch 0) ∧ isRls c.k = false ∧ (∀ d ∈ s.cands (.leafToBranch 0), d.k.hdr.prio ≤ 3) ∧
    ∀ d ∈ s.cands (.leafToBranch 0), d ≠ c → Beats (.leafToBranch 0) c d := by unfold Beats; decide +kernel
theorem test_rls_behind : (match exec (.rlsHoldReleased 0) rlsBehind with | .next t => decide (t = rlsBehind) | _ => false) = true := by
  decide +kernel
theorem test_rlsHoldReleased : ((after (.rlsHoldReleased 0) (rlsState [])).q (.branchUp 0) cREQ).length = 1 := by decide +kernel
theorem test_rlsHoldReleased_waits : ((after (.rlsHoldReleased 0) (rlsState [{ tag := 3, opc := oAtP }])).q (.branchUp 0) cREQ).length = 0 := by
  decide +kernel

/-- An entry of HTC 4 that expects `expect`. -/
def entry (expect sum : Nat) (mgt : Bool) : Comb :=
  { htc := 4, mgt := mgt, expect := expect, sum := sum, born := 79000, world := 1, part := 3, prio := 2, epoch := 0 }

/-- A SnpAck of COUNT 2 at branch 0, which holds this entry. -/
def combState (mgt : Bool) (e : Comb) : State :=
  { treeIn [(.branchUp 0, if mgt then cMGT else cRSP, [ackMsg mgt])] with routers := [(32, { comb := [e] })] }

/-- Premises of AcknowledgementsCombine, short of EXPECT and at it. -/
theorem wit_combine (mgt : Bool) (x : Nat) (hx : x = 2 ∨ x = 3) : let s := combState mgt (entry x 0 mgt)
    s.live ∧ 0 < s.build.leafN ∧ (s.q (.branchUp 0) (if mgt then cMGT else cRSP)).head? = some (ackMsg mgt) ∧ isAck (ackMsg mgt) = true ∧
    s.combHas 32 (entry x 0 mgt) ∧ (entry x 0 mgt).flaw = .ok ∧ (entry x 0 mgt).ready = false ∧ (ackMsg mgt).hdr.htc = 4 ∧ (ackMsg mgt).hdr.tag % 512 = 2 ∧ (ackMsg mgt).aux = 0 ∧ s.build.branchOf 0 = 0 ∧
    s.routerFrozen 32 = false ∧ s.hasCredit (.rootUp 0) (if mgt then cMGT else cRSP) = true := by
  unfold State.live State.combHas
  rcases hx with rfl | rfl <;> cases mgt <;> decide +kernel
theorem test_combineAck : (((after (.combineAck (.branchUp 0) false .ok) (combState false (entry 3 0 false))).router 32).comb.map (·.sum),
    ((after (.combineAck (.branchUp 0) true .ok) (combState true (entry 2 0 true))).q (.rootUp 0) cMGT).map (·.hdr.tag)) = ([2], [2]) := by
  decide +kernel
theorem test_combineAck_owner : let s := combState false (entry 3 0 false)
    let s := s.setQ (.branchUp 0) cRSP [{ ackMsg false with aux := 1 }]
    (match exec (.combineAck (.branchUp 0) false .ok) s with | .next t => decide (t = s) | _ => false) = true := by decide +kernel

/-- Routers with entries of different ages and a flip, and a credit owed at the root. -/
def flushState (sum born flip : Nat) : State :=
  { atWork with
    routers := [(32, { comb := [{ entry 5 sum false with born := born }], flipAt := some flip }), (40, { epoch := 1, flipped := true })]
    net := { owed := [(locKey (.panelIn 0) cREQ, 1)] } }

/-- Premises of CreditsFlushesAndEpochs, before and at each time. -/
theorem wit_flush (e : Nat × Nat × Nat) (h : e ∈ ([(0, 79744, 80000), (2, 79744, 80001), (2, 79745, 80000)] : List (Nat × Nat × Nat))) :
    let sum := e.1; let born := e.2.1; let flip := e.2.2; let s := flushState sum born flip
    s.live ∧ s.hasLoc (.panelIn 0) = true ∧ s.owed (.panelIn 0) cREQ = 1 ∧ s.owed (.panelIn 0) cSNP = 0 ∧ s.build.hasRouter 32 = true ∧
    s.combHas 32 { entry 5 sum false with born := born } ∧ (s.clk.cyc < born + max 16 (s.router 32).flushWait.toNat ↔ born = 79745) ∧
    s.routerFrozen 32 = false ∧ s.hasCredit (.rootUp 0) cRSP = true ∧ (s.router 32).flipAt = some flip ∧ (s.clk.cyc < flip ↔ flip = 80001) ∧
    ∀ l ∈ s.combLocs 32, ∀ c ∈ List.range 32, s.q l c = [] := by
  unfold State.live State.combHas
  fin_cases h <;> decide +kernel
theorem test_creditReturned : (after (.creditReturned (.panelIn 0) cREQ) (flushState 0 0 0)).owed (.panelIn 0) cREQ = 0 := by decide +kernel
theorem test_combineFlush : ((after (.combineFlush 32 4) (flushState 2 79744 0)).q (.rootUp 0) cRSP).map (fun k => (k.hdr.opc, k.hdr.tag)) =
    [(oSnpAck, 2)] := by decide +kernel
theorem test_combineFlush_early : ((after (.combineFlush 32 4) (flushState 2 79745 0)).router 32).comb.length = 1 := by decide +kernel
theorem test_epochCaptured : ((after (.epochCaptured 32) (flushState 0 0 80000)).router 32).epoch = 1 := by decide +kernel
theorem test_epochCaptured_early : ((after (.epochCaptured 32) (flushState 0 0 80001)).router 32).epoch = 0 := by decide +kernel

/-- An EBar entry of agent 5 that has `got` completions. -/
def ebarEnt (got : Nat) : EbarEnt := { agent := 5, slot := 0, tag := 9, got := got, hdr := (msg cREQ oEBar).hdr }

/-- An EBar of agent 5 at the head of branch 0's input to the root, with `held` entries. -/
def ebarState (held : Nat) (qs : List (Loc × Nat × List Packet)) : State :=
  let s := treeIn ((.rootUp 0, cREQ, [msg cREQ oEBar]) :: qs)
  { s with net := { s.net with ebars := List.replicate held (ebarEnt 0) }
           routers := [(40, { routes := [(5, 0x80)] })] }

/-- Premises of BarriersAtTheRoot: EBar. -/
theorem wit_ebar (held : Nat) (hh : held ∈ [0, 3, 4]) : let s := ebarState held []
    s.live ∧ s.build.hasBranch 0 = true ∧ s.routerFrozen 40 = false ∧ s.ebarHead 0 = some (msg cREQ oEBar) ∧ s.slotOfAgent 5 = some 0 ∧
    (s.net.ebars.filter fun e => e.slot = 0).length = held ∧ (s.port 0).pebk.extractLsb' 16 8 = 0 ∧
    s.child 40 (s.router 40).epoch 5 = some (.rootToBranch 0) ∧ (s.br 0).bstate < 2 := by
  unfold State.live
  fin_cases hh <;> decide +kernel

/-- An EBar whose copies still go to these panels, at the head of branch 0's input to the root. -/
def ebarCopies (ps : List Nat) : Packet := { msg cREQ oEBar with la := ps.map fun p => (.rootToPanel p, 0) }
def copyState (ps : List Nat) (qs : List (Loc × Nat × List Packet)) : State := treeIn ((.rootUp 0, cREQ, [ebarCopies ps]) :: qs)

/-- A copy that crosses, another left or none, and one that a REQ of its agent in the bounded lane of panel 2 holds back. -/
theorem wit_ebar_copy (ps : List Nat) (hp : ps ∈ [[2], [2, 3]]) : let s := copyState ps []
    s.live ∧ s.build.hasBranch 0 = true ∧ 2 < s.build.panels ∧ (s.q (.rootUp 0) cREQ).head? = some (ebarCopies ps) ∧
    isEbar (ebarCopies ps) = true ∧ (ebarCopies ps).whole = false ∧
    (ebarCopies ps).la.find? (fun e => e.1 = .rootToPanel 2) = some (.rootToPanel 2, 0) ∧ s.bounded = false ∧ s.linkFree 2 = true ∧
    s.restDue 2 = none ∧ s.mgmtDue 2 = none ∧ s.cands (.rootToPanel 2) = [{ l := .rootUp 0, key := cREQ, k := ebarCopies ps }] := by
  unfold State.live
  fin_cases hp <;> decide +kernel
theorem wit_ebar_ahead : ∃ y ∈ (copyState [2] [(.rootUp 0, 10, [msg cREQ oRdS])]).q (.rootUp 0) (8 + 2), y.hdr.src = 5 := by decide +kernel

/-- A copy at the input of panel 0, which has an AtP of its agent in work or not. -/
def copyIn (htcs : SMap Htc) : State := withMsg (panelWith 7 [] htcs) cREQ (msg cREQ oEBar)
theorem wit_ebar_accept (busy : Bool) : let s := copyIn (if busy then [(4, fresh oAtP)] else [])
    s.takes 0 ∧ (s.panel 0).calm ∧ s.build.hasBranch 0 = true ∧ s.ebarHead 0 = none ∧
    (s.px 0 {}).reqTurn = some (cREQ, msg cREQ oEBar, 0, 0) ∧ (s.panel 0).proxy = [] ∧ (s.panel 0).wrs = [] ∧
    ((∃ e ∈ (s.panel 0).htcs, e.2.job = .req ∧ e.2.pkt.hdr.src = 5 ∧ e.2.pkt.hdr.opc ∈ [oWrU, oAtP] ∧ e.2.seq < (s.panel 0).seq ∧
      e.2.phase ≠ .close) ↔ busy = true) := by
  unfold State.takes State.acts Panel.calm; cases busy <;> decide +kernel

theorem test_ebar : ((after (.ebar 0 0 {}) (ebarState 0 [])).net.ebars.map (fun e => (e.agent, e.tag))) = [(5, 9)] := by decide +kernel
theorem test_ebar_fifth : ((after (.ebar 0 0 {}) (ebarState 4 [])).q (.synth 40) cRSP).map (·.hdr.opc) = [oDecodeErr] := by decide +kernel
theorem test_ebar_crosses : (fun t : State => ((t.q (.panelIn 2) cREQ).map (·.hdr.opc), (t.q (.rootUp 0) cREQ).map (·.la.length)))
    (after (.packetHop (.rootToPanel 2) {}) (copyState [2, 3] [])) = ([oEBar], [1]) := by decide +kernel
theorem test_ebar_covered : ((after (.ebar 0 0 {}) (copyIn [(4, fresh oAtP)])).panel 0).outq = [] ∧
    ((after (.ebar 0 0 {}) (copyIn [])).panel 0).outq.map (·.hdr.opc) = [oEBarDone] := by decide +kernel

/-- Panel 0 keeps line 28 in state H in its proxy slot 0, written by agent 5, whose EBar stands at its input. -/
def proxyState : State :=
  let s := copyIn []
  { s with panels := [(0, { panelWith 7 [{ tag := (s.hash 28).tag, st := 8 }] [] with
      proxy := [(0, { line := 28, data := 1, who := [(5, 0)] })], seq := 1 })] }

/-- R244: a barrier copy writes out the proxy line that its agent wrote. R330, R433: a slot found uncorrectable is written as MPoison,
and its line leaves H. -/
theorem test_ebar_flushes : ((after (.ebar 0 0 {}) proxyState).panel 0).memOut.map (fun e => e.2.map (·.mopc)) = [[2]] ∧
    (((after (.ebar 0 0 {}) proxyState).px 0 {}).findWay noHtc 28 none).2.isSome = true := by decide +kernel
theorem test_ebar_flushes_poison : let t := after (.ebar 0 0 { prx := [(0, .ue)] }) proxyState
    (t.panel 0).memOut.map (fun e => e.2.map (·.mopc)) = [[3]] ∧ (t.panel 0).proxy = [] ∧ ((t.px 0 {}).findWay noHtc 28 none).2.isNone = true := by
  decide +kernel

/-- A panel's completion at the root. -/
def ebarDone (err : Nat) : Packet :=
  { hdr := { cls := cRSP, opc := oEBarDone, dst := nRoot, tag := 9, htc := 1, err := err, src := 256, prio := 2 }, aux := 5 }

def doneState (got err : Nat) : State :=
  let s := treeIn [(.rootPanel 3, cRSP, [ebarDone err])]
  { s with net := { s.net with ebars := [ebarEnt got] }, routers := [(40, { routes := [(5, 0x80)] })] }

/-- Premises of BarriersAtTheRoot: completions. -/
theorem wit_ebarDone (got err : Nat) (hg : got = 2 ∨ got = 3) (he : err = 0 ∨ err = 1) : let s := doneState got err
    s.live ∧ 3 < s.build.panels ∧ s.routerFrozen 40 = false ∧ s.q (.rootPanel 3) cRSP = [ebarDone err] ∧ s.net.ebars = [ebarEnt got] ∧
    (s.build.panels ≤ got + 1 ↔ got = 3) ∧ s.child 40 (s.router 40).epoch 5 = some (.rootToBranch 0) := by
  unfold State.live
  rcases hg with rfl | rfl <;> rcases he with rfl | rfl <;> decide +kernel
theorem test_ebarPanelCompletion : (after (.ebarPanelCompletion 3) (doneState 2 1)).net.ebars.map (fun e => (e.got, e.err)) = [(3, true)] := by
  decide +kernel
theorem test_ebarPanelCompletion_last : ((after (.ebarPanelCompletion 3) (doneState 3 0)).q (.synth 40) cRSP).map (fun k => (k.hdr.opc, k.hdr.htc)) =
    [(oEBarDone, 4)] := by decide +kernel

/-! ### Memory ports -/

/-- A read of line 28 for HTC 40 of panel 0. -/
def rdReq (own : MOwner) : MemReq := { mopc := 1, line := 28, world := 1, part := 3, code := false, size := 6, off := 0, own := own }

/-- Memory port 1 as given, with messages of panel 0 and of the Easel. -/
def mpIn (x : MemPort) (pn ez : List MemReq) : State :=
  { atWork with mps := [(1, x)], panels := [(0, { memOut := [(1, pn)] })], ez := { memOut := [(1, ez)] } }

/-- A port in service. -/
def mp1 : MemPort := { rst := false, svc := true, credits := 8 }

/-- Premises of MemoryPortGrantsCreditsAndResets: a panel's read, the Easel's read, no credit; credits below 64 and at 64; a reset with
and without an MTAG; a port whose handshake is to come. -/
theorem wit_grant : let s := mpIn mp1 [rdReq (.htc 0 40)] []
    let e := mpIn mp1 [] [rdReq (.easel 0)]
    s.mpActs 1 ∧ (s.mp 1).busyUntil ≤ s.clk.cyc ∧ smFree (s.mp 1).tags 0 64 = some 0 ∧ s.raised 1 = [(0, rdReq (.htc 0 40))] ∧
    s.host.prof ≠ 1 ∧ s.clk.cyc % 64 ≠ 63 ∧ e.mpActs 1 ∧ e.raised 1 = [(17, rdReq (.easel 0))] := by
  unfold State.mpActs; decide +kernel
theorem wit_mpStates (x : MemPort) (hx : x ∈ [{ mp1 with credits := 0 }, { mp1 with credits := 64 }, { mp1 with tags := [(0, rdReq (.easel 0))] },
    { mp1 with svc := false }, { mp1 with svc := false, rst := true }]) : (mpIn x [] []).mpActs 1 ∧ (mpIn x [] []).mp 1 = x := by
  unfold State.mpActs
  fin_cases hx <;> decide +kernel
theorem test_memportGrant : (after (.memportGrant 1 .ok {}) (mpIn mp1 [rdReq (.htc 0 40)] [])).outs =
    [.mem 1 0 (rdReq (.htc 0 40)) [{ flitOf 64 (1 <<< 125 ||| 28 <<< 73 ||| 1 <<< 72 ||| 3 <<< 66 ||| 6 <<< 62) with bep := 0xFF }]] := by
  decide +kernel
theorem test_memportGrant_none : (after (.memportGrant 1 .ok {}) (mpIn { mp1 with credits := 0 } [rdReq (.htc 0 40)] [])).outs = [] := by
  decide +kernel
theorem test_mpReqCrd : ((after (.mpReqCrd 1) (mpIn mp1 [] [])).mp 1).credits = 9 := by decide +kernel
theorem test_mpReqCrd_over : ((after (.mpReqCrd 1) (mpIn { mp1 with credits := 64 } [] [])).mp 1).cause = 3 := by decide +kernel
theorem test_mpRstAssert : ((after (.mpRstAssert 1) (mpIn mp1 [] [])).mp 1).credits = 0 := by decide +kernel
theorem test_mpRstAssert_tag : ((after (.mpRstAssert 1) (mpIn { mp1 with tags := [(0, rdReq (.easel 0))] } [] [])).mp 1).cause = 4 := by
  decide +kernel
theorem test_mpRstRelease : ((after (.mpRstRelease 1) (mpIn { mp1 with rst := true } [] [])).mp 1).rst = false := by decide +kernel
theorem test_handshake_mem : ((after (.handshakeComplete (.mem 1)) (mpIn { mp1 with svc := false } [] [])).mp 1).svc = true := by decide +kernel

/-- A RdS that waits for memory alone. -/
def memWait : Htc :=
  { job := .req, pool := 0, phase := .collect, seq := 40, acc := 9, pkt := msg cREQ oRdS, line := 28, reg := some region0, tabled := true,
    way := some 3, rd := true, plan := { comp := oCompE, dsrc := 0 } }

/-- A DvW that waits for its device. -/
def devHtc : Htc := { memWait with seq := 41, rd := false, pkt := msg cREQ oWrU }

/-- Panel 0 with work in progress at memory port 1, whose MTAG 3 holds `q`. -/
def answerState (q : MemReq) : State :=
  { atWork with
    mps := [(1, { mp1 with tags := [(3, q)] })]
    panels := [(0, { panelWith 7 [] [(4, memWait), (5, devHtc)] with
      wrs := [(7, { line := 28, who := [(5, 0)] }), (8, { line := 28, dev := some 41 })] })] }

/-- A memory answer under MTAG 3, its header by R318; with `odd`, one parity bit of its data flit is wrong. -/
def memAns (mopc err : Nat) (poison : Bool) (data : Nat) (odd : Bool) : MemResp :=
  let d := flitOf 64 data
  { flits := flitOf 64 (mopc <<< 125 ||| 3 <<< 119 ||| poison.toNat <<< 55 ||| err <<< 53) ::
      if mopc = 4 then [if odd then { d with par := d.par ^^^ 1 } else d] else [] }

/-- Premises of MemoryAnswersAPanel: MData, and MWrCmp of a line and of a Device write. -/
theorem wit_answers (e : MemResp × MemReq) (h : e ∈ ([(memAns 4 0 false 0 false, rdReq (.htc 0 40)),
      (memAns 4 0 false 7 true, rdReq (.htc 0 40)), (memAns 5 0 false 0 false, { rdReq (.wr 0 7) with mopc := 2 }),
      (memAns 5 1 false 0 false, { rdReq (.wr 0 8) with mopc := 2 })] : List (MemResp × MemReq))) :
    let r := e.1; let q := e.2; (answerState q).awaits 1 r q ∧ r.dat = .ok ∧ (r.mopc = 4 ∨ r.mopc = 5) ∧ (answerState q).acts 0 ∧
    ((answerState q).panel 0).calm ∧
    (((answerState q).panel 0).htcs.find? fun (e : Nat × Htc) => decide (e.2.seq = 40) && e.2.rd) = some (4, memWait) ∧
    memWait.expect ≤ memWait.sum ∧ memWait.ow = none ∧ memWait.owAck = true ∧ memWait.md = none ∧ memWait.buf = none ∧
    smFind ((answerState q).panel 0).wrs 7 = some { line := 28, who := [(5, 0)] } ∧
    smFind ((answerState q).panel 0).wrs 8 = some { line := 28, dev := some 41 } ∧
    (((answerState q).panel 0).htcs.find? fun (e : Nat × Htc) =>
      decide (e.2.seq = 41) && decide (e.2.job = .req) && decide (e.2.phase = .collect)) = some (5, devHtc) := by
  unfold State.awaits State.mpActs State.acts Panel.calm
  fin_cases h <;> decide +kernel
theorem test_mdata : ((after (.mdata 1 (memAns 4 0 false 7 false) {}) (answerState (rdReq (.htc 0 40)))).panel 0).outq.map
    (fun k => (k.hdr.opc, k.data)) = [(oCompE, 0), (oDataMem, 7)] := by decide +kernel
theorem test_mwrcmp : ((after (.mwrcmp 1 (memAns 5 1 false 0 false)) (answerState { rdReq (.wr 0 7) with mopc := 2 })).panel 0).errs =
    vbit 5 := by decide +kernel
theorem test_mwrcmp_device : ((after (.mwrcmp 1 (memAns 5 0 false 0 false)) (answerState { rdReq (.wr 0 8) with mopc := 2 })).panel 0).outq.map
    (·.hdr.opc) = [oWrAcc] := by decide +kernel

/-- Ring 2 waits for a load of 4 bytes, and a restore for two lines. -/
def ezAnswer (q : MemReq) : State :=
  { atWork with
    mps := [(1, { mp1 with tags := [(3, q), (4, rdReq (.eph (2 ^ 80 + 1)))] })]
    ez := { ctx := [(2, { running := true, wait := .mem (.load 3 4 8), g := [(3, 9)] })] }
    ep := { job := .restore [] [] [] [2 ^ 80, 2 ^ 80 + 1] } }

/-- Premises of MemoryAnswersEaselAndEphemeris. -/
theorem wit_ezAnswer (own : MOwner) (ho : own ∈ [MOwner.easel 2, .eph (2 ^ 80)]) : let s := ezAnswer (rdReq own)
    s.awaits 1 (memAns 4 0 false 7 false) (rdReq own) ∧ (memAns 4 0 false 7 false).dat = .ok ∧ (memAns 4 0 false 7 false).mopc = 4 ∧
    (memAns 4 0 false 7 false).poison = false ∧ (memAns 4 0 false 7 false).dataPerr = false ∧ (s.ctx 2).wait = .mem (.load 3 4 8) ∧
    s.ep.job = .restore [] [] [] [2 ^ 80, 2 ^ 80 + 1] ∧ [2 ^ 80, 2 ^ 80 + 1].erase (2 ^ 80) ≠ [] ∧
    [2 ^ 80, 2 ^ 80 + 1].Nodup ∧ smSorted (s.mp 1).tags = true ∧ s.ephLost ([2 ^ 80, 2 ^ 80 + 1].erase (2 ^ 80)) = [] := by
  simp only [List.mem_cons, List.not_mem_nil, or_false] at ho
  unfold State.awaits State.mpActs
  rcases ho with rfl | rfl <;> decide +kernel
theorem test_easelMemoryResponse :
    ((after (.easelMemoryResponse 1 (memAns 4 0 false (0x1122334455667788 <<< 64) false)) (ezAnswer (rdReq (.easel 2)))).ctx 2).gr 3 =
      0x55667788#64 := by decide +kernel
theorem test_ephemerisWriterMdata :
    (after (.ephemerisWriterMdata 1 (memAns 4 0 true 7 false)) (ezAnswer (rdReq (.eph (2 ^ 80))))).ep.job =
      .restore [] [(0, { data := 7, poison := true })] [0] [2 ^ 80 + 1] := by decide +kernel

/-! ### Supply warning, Ephemeris, observation -/

/-- An episode that waits for its after-dip sweep, WARN_HOLD 100. -/
def dipWait (low : Nat) : State :=
  { atWork with clk := { atWork.clk with cyc := 80000, warnLow := low }, host := { prof := 2 }, rs := { owedDip := true },
                w6 := [(0xA1208, 100)], panels := [(0, { rpos := 77 })] }

/-- The after-dip sweep of every panel is over. -/
def dipOver : State := { atWork with rs := { dip := true, dipDone := [0, 1, 2, 3] }, panels := [(0, { rpos := 77, rprev := 5 })] }

/-- Premises of SupplyWarningAndCheckpoints: the warning and its end. -/
theorem wit_warn : atWork.live ∧ atWork.clk.warnPin = false ∧ atWork.rs.dip = false ∧ atWork.rs.owedDip = false ∧
    (after .supplyWarnRise atWork).clk.warnPin = true ∧ (dipWait 9900).rs.owedDip = true ∧ (dipWait 9900).host.prof ≠ 0 ∧
    (dipWait 9900).clk.warnLow + ((dipWait 9900).w6g 0xA1208).toNat % 2 ^ 16 = (dipWait 9900).clk.cyc / 8 ∧
    (dipWait 9901).clk.cyc / 8 < (dipWait 9901).clk.warnLow + ((dipWait 9901).w6g 0xA1208).toNat % 2 ^ 16 ∧
    dipOver.dipEnded = true ∧ atWork.dipEnded = false := by unfold State.live; decide +kernel
theorem test_supplyWarnRise : (fun t : State => (t.ez.events, t.host.warnSeen)) (after .supplyWarnRise atWork) = (4, true) := by decide +kernel
theorem test_supplyWarnCleared : ((after .supplyWarnCleared (dipWait 9900)).panel 0).rpos = 0 := by decide +kernel
theorem test_supplyWarnCleared_early : (after .supplyWarnCleared (dipWait 9901)).rs.owedDip = true := by decide +kernel
theorem test_afterDipSweepEnd : ((after .afterDipSweepEnd dipOver).panel 0).rpos = 5 := by decide +kernel

/-- A block whose PERIOD of 1 has passed, or is to pass in one HCLK. -/
def periodAt (c : Nat) (slots : Option (Nat × Nat)) : State :=
  { atWork with clk := { atWork.clk with cyc := c }, host := { prof := 2 }, w6 := [(0xA1300, 1)], ep := { slots := slots } }

/-- Two staged counts, and the Ephemeris words that take them, one of them full but for one. -/
def flushing : State :=
  { atWork with
    ep := { held := false, lifeFrom := 79990, staging := [(10, 3)], sram := [(5, encW 5), (10, encW 0xFFFFFFFFFFFFFFFE#64)] } }

/-- Premises of SupplyWarningAndCheckpoints: checkpoints and the flush. -/
theorem wit_period : let s := periodAt (2 ^ 36) none
    s.live ∧ s.host.prof ≠ 0 ∧ (s.w6g 0xA1300).toNat % 2 ^ 16 = 1 ∧ s.ep.lastPeriod + 1 * 2 ^ 36 ≤ s.clk.cyc ∧ s.ep.trigger = none ∧
    s.ep.job = .none ∧ (periodAt (2 ^ 36) (some (0, 4096))).ep.slots.isSome = true ∧ (periodAt (2 ^ 36 - 1) none).clk.cyc < 2 ^ 36 := by
  unfold State.live; decide +kernel
theorem wit_flushing : flushing.live ∧ flushing.ephHeld = false ∧ atWork.ephHeld = true ∧ flushing.ep.cals = [] ∧
    smSorted flushing.ep.staging = true ∧ flushing.ephLife.ep.staging = [(5, 10), (10, 3)] ∧
    decW (flushing.ephRaw 5) = .ok 5 ∧ decW (flushing.ephRaw 10) = .ok 0xFFFFFFFFFFFFFFFE := by unfold State.live; decide +kernel
theorem test_checkpointPeriod : (after .checkpointPeriod (periodAt (2 ^ 36) none)).ep.lastPeriod = 2 ^ 36 := by decide +kernel
theorem test_checkpointPeriod_early : (after .checkpointPeriod (periodAt (2 ^ 36 - 1) none)).ep.lastPeriod = 0 := by decide +kernel
theorem test_ephemerisStagingFlush : (after (.ephemerisStagingFlush []) flushing).ep.sram = [(5, encW 15), (10, encW 0xFFFFFFFFFFFFFFFF#64)] := by
  decide +kernel

/-- The bucket of panel 0 at level 3, in KCLK `k`. -/
def bucketAt (k : Nat) : State := { atWork with clk := { atWork.clk with cyc := 8 * k }, w6 := [(0x90040, 10), (0x90048, 3)] }

/-- Premises of BucketsLeakAndTwinsMatch. -/
theorem wit_leak : (bucketAt 1024).live ∧ (bucketAt 1024).rs.leakK ≠ some ((bucketAt 1024).clk.cyc / 8) ∧ (bucketAt 1024).canonical ∧
    smSorted (bucketAt 1024).ports = true ∧ (bucketAt 1024).slotBr 0 < 2 ∧ isBkCtl 0x90040 = true ∧ isBkCtl 0x90050 = false ∧
    (bucketAt 1024).mirroredBucket 0x90040 = false ∧
    (bucketAt 1024).clk.cyc / 8 % 2 ^ max 10 (min 40 (((bucketAt 1024).w6g 0x90040).toNat % 64)) = 0 ∧
    ({ bucketAt 1024 with rs := { leakK := some 1024 } } : State).rs.leakK = some ((bucketAt 1024).clk.cyc / 8) ∧
    smallBuild.twin = false ∧ ({ smallBuild with twin := true } : Build).panels = 4 := by
  unfold State.live State.canonical; decide +kernel
theorem test_bucketLeak : (after .bucketLeak (bucketAt 1024)).w6g 0x90048 = 2 := by decide +kernel
theorem test_bucketLeak_between : (after .bucketLeak (bucketAt 1025)).w6g 0x90048 = 3 := by decide +kernel
/-- R415: an addition in the same KCLK cancels the leak. -/
theorem test_bucketLeak_cancelled : (after .bucketLeak { bucketAt 1024 with bkNote := [(0x90040, (1025, 2))] }).w6g 0x90048 = 3 := by
  decide +kernel
theorem test_bucketLeak_port : ((after .bucketLeak { bucketAt 1024 with ports := [(0, { port5 with peLevel := 3, pebk := 10 })] }).port 0).peLevel
    = 2 := by decide +kernel
theorem test_twinMismatch : (after (.twinMismatch (some 2)) { atWork with build := { smallBuild with twin := true } }).clk.frozenPanels = 4 := by
  decide +kernel
theorem test_twinMismatch_none : (after (.twinMismatch none) atWork).clk.fatal = false := by decide +kernel

/-- An HTC of group 0 accepted at 79000, under a limit and a profile, with log entries used. -/
def missState (lim prof used : Nat) (missed : Bool) : State :=
  { atWork with
    host := { prof := BitVec.ofNat 2 prof }
    panels := [(0, { htcs := [(4, { memWait with acc := 79000, missed := missed })] })]
    w6 := (0x90800, BitVec.ofNat 64 lim) :: (List.range used).map fun j => (0x90880 + 16 * j, 0x8000000000000000#64) }

/-- Premises of DeadlineMissIsLoggedOnce: due with an empty, a part-filled and a full log, and not due. -/
theorem wit_miss (e : Nat × Nat × Nat × Bool) (h : e ∈ ([(1000, 1, 0, false), (1000, 1, 15, false), (1000, 1, 16, false),
    (1000, 2, 0, false), (1001, 1, 0, false), (1000, 1, 0, true),
    (0, 1, 0, false)] : List (Nat × Nat × Nat × Bool))) : let lim := e.1; let prof := e.2.1; let used := e.2.2.1; let m := e.2.2.2;
    let s := missState lim prof used m
    let x : Htc := { memWait with acc := 79000, missed := m }
    s.acts 0 ∧ smFind (s.panel 0).htcs 4 = some x ∧ x.group = 0 ∧ x.accepted = 79000 ∧ (s.w6g (0x90800 + 8 * x.group)).toNat % 2 ^ 20 = lim ∧
    (∀ l, l < used → (s.w6g (0x90880 + 16 * l)).getLsbD 63 = true) ∧ (used < 16 → (s.w6g (0x90880 + 16 * used)).getLsbD 63 = false) := by
  unfold State.acts
  fin_cases h <;> decide +kernel
theorem test_deadlineMiss : (fun t : State => (t.w4g 0x18, t.ez.events)) (after (.deadlineMiss 0 4) (missState 1000 1 0 false)) = (1, 8) := by
  decide +kernel
theorem test_deadlineMiss_full : (after (.deadlineMiss 0 4) (missState 1000 1 16 false)).w6g 0x90840 = 1 := by decide +kernel

/-- The last HCLK of a window of 1,024. -/
def windowAt (c : Nat) : State :=
  { atWork with clk := { atWork.clk with cyc := c }, ports := [(0, { port5 with winUp := 900, winDn := 2 ^ 50 })],
                mps := [(1, { mp1 with winUp := 7 })], w4 := [(0x1000, 10), (0x1018, 1000), (0x5040, 10), (0x6000, 12)] }

/-- Premises of WindowsAndTrace. -/
theorem wit_window : let s := windowAt 2047
    s.live ∧ s.hasWin (.port 0) = true ∧ s.hasWin (.mem 1) = true ∧ s.clk.cyc % 2 ^ max 10 (min 36 ((s.w4g 0x1000).toNat % 64)) = 1023 ∧
    s.isNew 0x1000 = true ∧ (windowAt 2048).clk.cyc % 1024 ≠ 1023 := by unfold State.live; decide +kernel
theorem wit_sync : let s := windowAt 8192
    s.live ∧ (s.w4g 0x6000).toNat % 64 = 12 ∧ s.clk.cyc % 2 ^ 12 = 0 ∧ s.isNew 0x6000 = true ∧ s.build.trace = true ∧ s.clk.tpSvc = true ∧
    traced.tr.words = (true, false, 1) :: [(false, true, 2), (true, true, 3)] ∧ traced.clk.tpSvc = true := by unfold State.live; decide +kernel
theorem test_byteWindowEnd : (fun t : State => (t.w4g 0x1008, t.w4g 0x1010, t.w4g 0x1018)) (after (.byteWindowEnd (.port 0)) (windowAt 2047)) =
    (900, 0xFFFFFFFFFFFF, 1000) := by decide +kernel
theorem test_byteWindowEnd_mem : ((after (.byteWindowEnd (.mem 1)) (windowAt 2047)).mp 1).winUp = 0 := by decide +kernel
/-- A record of two words that waits for the end of its HCLK, with `n` words in the trace buffer. -/
def traceEnd (n : Nat) (svc : Bool) : State :=
  { atWork with clk := { atWork.clk with tpSvc := svc }, tr := { now := [(0, [1, 2])], words := List.replicate n (false, true, 3) } }

theorem calm_of {s : State} (hp : s.panels = []) (hc : s.ez.ctx = []) (hr : s.host.rings = []) : s.calm := by
  refine ⟨fun p e he => ?_, fun r sp off u => ?_, fun r => ?_⟩
  · exact absurd he (by simp [State.panel, hp, smGet, smFind])
  · simp [State.ctx, hc, smGet, smFind]
  · simp [State.ring, hr, smGet, smFind]
/-- The end of the HCLK has nothing else to do at work. -/
theorem wit_calm : atWork.calm := calm_of rfl rfl rfl
theorem wit_traceEnd (n : Nat) (svc : Bool) : (traceEnd n svc).calm ∧ (traceEnd n svc).tr.now = [(0, [1, 2])] ∧ (traceEnd n svc).tr.owed = 0 ∧
    (traceEnd n svc).clk.tpSvc = svc ∧ (traceEnd n svc).tr.words.length = n :=
  ⟨calm_of rfl rfl rfl, rfl, rfl, rfl, by simp [traceEnd]⟩
theorem test_traceEnd : (traceEnd 0 true).hclkEnd.tr.words = [(true, false, 1), (false, true, 2)] ∧ (traceEnd 127 true).hclkEnd.tr.owed = 1 ∧
    (traceEnd 0 false).hclkEnd.tr.owed = 1 := by decide +kernel
theorem test_traceSync : (after .traceSync (windowAt 8192)).tr.now = [(0, [0x3000000000002000#64, 0])] := by decide +kernel
theorem test_traceWordSent : (fun t : State => (t.outs, t.tr.words.length)) (after .traceWordSent traced) = ([.trace true 1 0xFE], 2) := by
  decide +kernel

/-! ### The Easel's instructions -/

/-- A ring that runs with its window 0 on the local store (SIZE 16, X, W, LS, V) and these local-store words. -/
def ezState (r : Nat) (c : Ctx) (loc : List (BitVec 64)) : State :=
  { atWork with
    host := { bootEn := true }
    ez := { ctx := [(r, { c with running := true, w := [(0, 0xF000000000000010#64)] })]
            loc := loc.zipIdx.map fun e => (e.2, BitVec.ofNat 72 (lightEnc e.1.toNat)) } }

/-- A context whose next instruction is latched. -/
def latch (opc : Nat) (f : Fld) (g : SMap (BitVec 64)) : Ctx := { g := g, rep := some (fldWord opc f, f.ext) }

/-- `State.runs`, as a test that can be evaluated. -/
def runsB (s : State) (r opc : Nat) (f : Fld) : Bool :=
  !s.clk.inReset && s.clk.cellsOpen && decide (s.ezNext = some (r, { word := fldWord opc f, ext := f.ext })) && condHolds f.cond (s.ctx r).flags (s.ctx r).rc

theorem runs_of {s : State} {r opc : Nat} {f : Fld} (h : runsB s r opc f = true) : s.runs r opc f := by
  simp only [runsB, Bool.and_eq_true, Bool.not_eq_true', decide_eq_true_eq] at h
  exact ⟨h.1.1, _, h.1.2, rfl, fun _ => rfl, h.2⟩

/-- Operands G1 to write, G2, and G3 or an immediate. -/
def fX : Fld := { d := 1, b := 2, disp := 3 }
def fI (v : BitVec 14) : Fld := { d := 1, b := 2, disp := v }

/-- Premises of EaselArithmeticResultAndFlags: every member. -/
theorem wit_twoOperand (e : Nat × Instr) (h : e ∈ twoOperand fX) : (ezState 0 (latch e.1 fX [(2, 5), (3, 7)]) []).runs 0 e.1 fX := by
  have all : (twoOperand fX).all (fun e => runsB (ezState 0 (latch e.1 fX [(2, 5), (3, 7)]) []) 0 e.1 fX) = true := by decide +kernel
  exact runs_of (List.all_eq_true.1 all e h)
theorem wit_twoOperand_values : (fX.disp.toNat < 16) ∧ ((latch 0x10 fX [(2, 5), (3, 7)]).gr 3 = 7) ∧ fX.disp.signExtend 64 = 3 := by decide +kernel
theorem wit_count (opc : Nat) (h : opc = 0x24 ∨ opc = 0x25) (v : BitVec 64) (hv : v = 0 ∨ v = 8) :
    (ezState 9 (latch opc fX [(2, v)]) []).runs 9 opc fX := by
  apply runs_of; rcases h with rfl | rfl <;> rcases hv with rfl | rfl <;> decide +kernel

/-- G1 and FLAGS after an instruction of ring 0. -/
def alu (i : Fld → Instr) (opc : Nat) (f : Fld) (a b : BitVec 64) : BitVec 64 × BitVec 4 :=
  let c := (after (i f) (ezState 0 (latch opc f [(2, a), (3, b)]) [])).ctx 0
  (c.gr 1, c.flags)

theorem test_ezAdd : alu .ezAdd 0x10 fX 0xFFFFFFFFFFFFFFFF#64 1 = (0, 10) := by decide +kernel
theorem test_ezAddi : alu .ezAddi 0x11 (fI 1) 0x7FFFFFFFFFFFFFFF#64 0 = (0x8000000000000000#64, 5) := by decide +kernel
theorem test_ezSub : alu .ezSub 0x12 fX 5 7 = (0xFFFFFFFFFFFFFFFE#64, 4) := by decide +kernel
theorem test_ezSubi : alu .ezSubi 0x13 (fI 5) 5 0 = (0, 10) := by decide +kernel
theorem test_ezAnd : alu .ezAnd 0x14 fX 0xF0 0x3C = (0x30, 0) := by decide +kernel
theorem test_ezAndi : alu .ezAndi 0x15 (fI 0x3FF0) 0xFF 0 = (0xF0, 0) := by decide +kernel
theorem test_ezOr : alu .ezOr 0x16 fX 0x8000000000000000#64 1 = (0x8000000000000001#64, 4) := by decide +kernel
theorem test_ezOri : alu .ezOri 0x17 (fI 6) 1 0 = (7, 0) := by decide +kernel
theorem test_ezXor : alu .ezXor 0x18 fX 5 5 = (0, 8) := by decide +kernel
theorem test_ezXori : alu .ezXori 0x19 (fI 0x3FFF) 5 0 = (0xFFFFFFFFFFFFFFFA#64, 4) := by decide +kernel
theorem test_ezShl : alu .ezShl 0x1a fX 0x8000000000000001#64 1 = (2, 2) := by decide +kernel
theorem test_ezShli : alu .ezShli 0x1b (fI 64) 1 0 = (1, 0) := by decide +kernel
theorem test_ezShr : alu .ezShr 0x1c fX 3 1 = (1, 2) := by decide +kernel
theorem test_ezShri : alu .ezShri 0x1d (fI 1) 2 0 = (1, 0) := by decide +kernel
theorem test_ezSar : alu .ezSar 0x1e fX 0x8000000000000000#64 63 = (0xFFFFFFFFFFFFFFFF#64, 4) := by decide +kernel
theorem test_ezSari : alu .ezSari 0x1f (fI 1) 3 0 = (1, 2) := by decide +kernel
theorem test_ezCmp : alu .ezCmp 0x20 fX 5 5 = (0, 10) := by decide +kernel
theorem test_ezCmpi : alu .ezCmpi 0x21 (fI 5) 4 0 = (0, 4) := by decide +kernel
theorem test_ezTst : alu .ezTst 0x22 fX 4 3 = (0, 8) := by decide +kernel
theorem test_ezTsti : alu .ezTsti 0x23 (fI 4) 4 0 = (0, 0) := by decide +kernel
theorem test_ezPopc : alu .ezPopc 0x24 fX 0xFF00000000000001#64 0 = (9, 0) := by decide +kernel
theorem test_ezFfs : alu .ezFfs 0x25 fX 8 0 = (3, 0) := by decide +kernel

/-- Premises of EaselAddressAndImmediateResult. -/
theorem wit_lea (opc : Nat) (h : opc ∈ [0x09, 0x0B, 0x0C]) : (ezState 12 (latch opc { fX with ext := 0x80000001 } [(1, 6)]) []).runs 12 opc
    { fX with ext := 0x80000001 } := by
  apply runs_of; fin_cases h <;> decide +kernel
theorem test_ezLea : alu .ezLea 0x09 (fI 0x3FFF) 5 0 = (4, 0) := by decide +kernel
theorem test_ezLim : alu .ezLim 0x0B { fX with ext := 0x80000001 } 0 0 = (0xFFFFFFFF80000001#64, 0) := by decide +kernel
theorem test_ezLimh :
    ((after (.ezLimh { fX with ext := 0x12345678 }) (ezState 0 (latch 0x0C { fX with ext := 0x12345678 } [(1, 0xAAAAAAAA9ABCDEF0)]) [])).ctx 0).gr 1 =
      0x123456789ABCDEF0#64 := by decide +kernel

/-- Premises of EaselSpecialRegisters, for special register `n`. -/
theorem wit_special (n : BitVec 14) (h : n ∈ [0, 1, 3, 4, 7, 8, 15, 16, 17, 18]) (r : Nat) (hr : r = 7 ∨ r = 8) (opc : Nat) (ho : opc = 0x26 ∨ opc = 0x27) :
    (ezState r (latch opc (fI n) [(2, 0x8000000000000020#64)]) []).runs r opc (fI n) := by
  apply runs_of
  rcases hr with rfl | rfl <;> rcases ho with rfl | rfl <;>
    fin_cases h <;> decide +kernel
theorem test_ezMts : ((after (.ezMts (fI 0)) (ezState 0 (latch 0x26 (fI 0) [(2, 0x12345)]) [])).ctx 0).rc = 0x2345 := by decide +kernel
theorem test_ezMts_ns : ((after (.ezMts (fI 8)) (ezState 8 (latch 0x26 (fI 8) [(2, 0x20)]) [])).ctx 8).viol = true := by decide +kernel
theorem test_ezMfs : alu .ezMfs 0x27 (fI 0x10) 0 0 = (0, 0) := by decide +kernel
theorem test_ezMfs_pc : ((after (.ezMfs (fI 2)) (ezState 0 { latch 0x27 (fI 2) [] with pc := 0x40 } [])).ctx 0).gr 1 = 0x40 := by decide +kernel

/-- Premises of EaselLoadsAndStores: from and to the local store, and through window 1 on memory (SIZE 20, W, V). -/
def memCtx (opc : Nat) (f : Fld) (ea : BitVec 64) : State :=
  let s := ezState 0 (latch opc f [(1, 0xFFEEDDCCBBAA9988#64), (2, ea)]) [0x1122334455667788#64]
  s.modCtx 0 fun c => { c with w := c.w ++ [(1, 0xA000000000000014#64)] }
theorem wit_loadStore (e : Nat × Nat × Instr) (h : e ∈ loadInstr (fI 0) ++ storeInstr (fI 0)) :
    let k := if e.1 < 5 then AccKind.load else .store
    let s := memCtx e.1 (fI 0) 0
    let m := memCtx e.1 (fI 0) 0x0200000000000048#64
    s.runs 0 e.1 (fI 0) ∧ m.runs 0 e.1 (fI 0) ∧ s.access 0 (iterEa (s.ctx 0) (fI 0) e.2.1) e.2.1 k = .loc 0 ∧
    s.locReads 0 0x1122334455667788 ∧ m.access 0 (iterEa (m.ctx 0) (fI 0) e.2.1) e.2.1 k = .mem 0x48 0 ∧
    m.mgmtDecode true 0x48 = some (0, false) := by
  have all : (loadInstr (fI 0) ++ storeInstr (fI 0)).all (fun e =>
      let k := if e.1 < 5 then AccKind.load else .store
      let s := memCtx e.1 (fI 0) 0
      let m := memCtx e.1 (fI 0) 0x0200000000000048#64
      runsB s 0 e.1 (fI 0) && runsB m 0 e.1 (fI 0) && decide (s.access 0 (iterEa (s.ctx 0) (fI 0) e.2.1) e.2.1 k = .loc 0) &&
      decide (lightDec (s.locRaw 0).toNat = .ok 0x1122334455667788) &&
      decide (m.access 0 (iterEa (m.ctx 0) (fI 0) e.2.1) e.2.1 k = .mem 0x48 0) && decide (m.mgmtDecode true 0x48 = some (0, false))) = true := by
    decide +kernel
  have x := List.all_eq_true.1 all e h
  simp only [Bool.and_eq_true, decide_eq_true_eq] at x
  exact ⟨runs_of x.1.1.1.1.1, runs_of x.1.1.1.1.2, x.1.1.1.2, x.1.1.2, x.1.2, x.2⟩
theorem test_ezLd : ((after (.ezLd (fI 0)) (memCtx 1 (fI 0) 0)).ctx 0).gr 1 = 0x1122334455667788#64 := by decide +kernel
theorem test_ezLdw : ((after (.ezLdw (fI 1)) (memCtx 2 (fI 1) 0)).ctx 0).gr 1 = 0x11223344 := by decide +kernel
theorem test_ezLdh : ((after (.ezLdh (fI 1)) (memCtx 3 (fI 1) 0)).ctx 0).gr 1 = 0x5566 := by decide +kernel
theorem test_ezLdb : ((after (.ezLdb (fI 1)) (memCtx 4 (fI 1) 0)).ctx 0).gr 1 = 0x77 := by decide +kernel
theorem test_ezSt : (after (.ezSt (fI 0)) (memCtx 5 (fI 0) 0)).ez.loc = [(0, BitVec.ofNat 72 (lightEnc 0xFFEEDDCCBBAA9988))] := by
  decide +kernel
theorem test_ezStw : (after (.ezStw (fI 1)) (memCtx 6 (fI 1) 0)).ez.loc = [(0, BitVec.ofNat 72 (lightEnc 0xBBAA998855667788))] := by
  decide +kernel
theorem test_ezSth : (after (.ezSth (fI 1)) (memCtx 7 (fI 1) 0)).ez.loc = [(0, BitVec.ofNat 72 (lightEnc 0x1122334499887788))] := by
  decide +kernel
theorem test_ezStb : (after (.ezStb (fI 1)) (memCtx 8 (fI 1) 0)).ez.loc = [(0, BitVec.ofNat 72 (lightEnc 0x1122334455668888))] := by
  decide +kernel
theorem test_ezSth_mem : (smGet [] (after (.ezSth (fI 0)) (memCtx 7 (fI 0) 0x0200000000000048#64)).ez.memOut 0).map (fun q => (q.mopc, q.off, q.be)) =
    [(2, 8, 0x300)] := by decide +kernel

/-- Ring `r` before an LD or ST at `off` of a register space, and a Palette word, a lost line and HTC 4 of panel 1. -/
def spcState (opc r sp off : Nat) : State :=
  { ezState r (latch opc (fI 0) [(1, 5), (2, BitVec.ofNat 64 (sp * 2 ^ 60 + off))]) [] with
    panels := [(1, { pal := slotWords 3 slot59, llt := [(2, 28)], htcs := [(4, memWait)], dir := [(0, (scanEnts 1).enc)] })] }

/-- Premises of EaselLoadsAndStores: the register spaces, at both ends of what they hold, a panel that the build lacks, rings 0 and 9. -/
theorem wit_spaces (e : Nat × Nat × Nat × Nat) (h : e ∈ ([(1, 0, 1, 2 ^ 22), (1, 0, 1, 3 * 2 ^ 22 + 16383 * 2 ^ 7 + 15 * 8), (1, 0, 2, 2 ^ 20 + 3 * 2 ^ 6 + 4 * 8),
      (1, 0, 3, 0), (1, 0, 3, 16 * 15 + 8), (1, 0, 5, 8 * 511), (1, 0, 7, 2 ^ 16 + 2 ^ 15 + 8 * 2), (1, 0, 7, 2 ^ 16 + 16 * 4), (1, 0, 7, 3 * 2 ^ 16),
      (1, 0, 1, 4 * 2 ^ 22), (1, 0, 2, 15 * 2 ^ 20), (1, 9, 1, 0), (1, 9, 2, 0), (1, 9, 5, 0), (1, 9, 7, 0)] ++
      [(1, 0, 4, 0), (1, 9, 6, 0xA1000), (5, 0, 6, 0xA0028), (5, 0, 1, 2 ^ 22)] : List (Nat × Nat × Nat × Nat))) :
    let opc := e.1; let r := e.2.1; let sp := e.2.2.1; let off := e.2.2.2; let s := spcState opc r sp off
    s.runs r opc (fI 0) ∧ s.access r (iterEa (s.ctx r) (fI 0) 8) 8 (if opc = 1 then .load else .store) = .spc sp off := by
  refine ⟨runs_of ?_, ?_⟩ <;> fin_cases h <;> decide +kernel
theorem wit_spaces_store : let s := spcState 5 0 1 (2 ^ 22)
    let t : State := { s with panels := [(1, { mgmtAt := some 10000 })] }
    s.storeWaits 0 1 (2 ^ 22) = false ∧ t.storeWaits 0 1 (2 ^ 22) = true ∧ t.clk.cyc / 8 = 10000 ∧
    s.ezNext = some (0, { word := fldWord 5 (fI 0) }) := by decide +kernel
theorem test_ezLd_spaces : [(1, 2 ^ 22), (2, 2 ^ 20 + 3 * 2 ^ 6), (7, 2 ^ 16 + 2 ^ 15 + 16), (7, 3 * 2 ^ 16)].map (fun (e : Nat × Nat) =>
      ((after (.ezLd (fI 0)) (spcState 1 0 e.1 e.2)).ctx 0).gr 1) =
    [BitVec.ofNat 64 (scanEnts 1).pay, 0x220, 0x8000000000000700#64, 0] := by decide +kernel
theorem test_ezLd_violation : (fun c : Ctx => (c.gr 1, c.viol)) ((after (.ezLd (fI 0)) (spcState 1 9 1 0)).ctx 9) = (0, true) := by decide +kernel

/-- Ring 0 waits for the end of its KCLK, with a load of `off` of space `sp`. -/
def sampling (sp off : Nat) : State :=
  let s := ezState 0 { latch 1 (fI 0) [] with wait := .sample sp off (.load 1 8 0) } []
  { s with clk := { s.clk with cyc := 80007 } }
theorem wit_sampling (e : Nat × Nat) (h : e ∈ [(4, 0), (4, 0x380), (6, 0xA1000), (6, 0xA01F8), (6, 0x730)]) : let s := sampling e.1 e.2
    s.live ∧ s.clk.cyc % 8 = 7 ∧ (s.ctx 0).wait = .sample e.1 e.2 (.load 1 8 0) ∧ s.ez.ctx.map (·.1) = [0] ∧ s.build.p ≤ 4 ∧
    s.build.panels = 4 ∧ s.build.slots = 8 := by
  unfold State.live; fin_cases h <;> decide +kernel
theorem test_sampling : [(4, 0), (6, 0xA0000)].map (fun (e : Nat × Nat) => ((sampling e.1 e.2).kclkEnd.ctx 0).gr 1) = [80007, 0x100] := by
  decide +kernel

/-- Premises of EaselBranches. -/
theorem wit_branches (opc : Nat) (h : opc ∈ [0x38, 0x39, 0x3A, 0x3B, 0x3C]) (rc : BitVec 16) (hr : rc = 1 ∨ rc = 2) :
    let s := ezState 3 { latch opc (fI 0x3FFF) [(2, 0x100)] with pc := 0x40, rc := rc } []
    s.runs 3 opc (fI 0x3FFF) ∧ (s.ctx 3).inrep = false := by
  refine ⟨runs_of ?_, ?_⟩ <;> rcases hr with rfl | rfl <;> fin_cases h <;> decide +kernel

/-- PC, G1 and RC after a branch by -1 word at 0x40. -/
def jump (i : Fld → Instr) (opc : Nat) (rc : BitVec 16) : BitVec 64 × BitVec 64 × BitVec 16 :=
  let c := (after (i (fI 0x3FFF)) (ezState 3 { latch opc (fI 0x3FFF) [(2, 0x100)] with pc := 0x40, rc := rc } [])).ctx 3
  (c.pc, c.gr 1, c.rc)
theorem test_ezBr : jump .ezBr 0x38 0 = (0x3C, 0, 0) := by decide +kernel
theorem test_ezBrl : jump .ezBrl 0x39 0 = (0x3C, 0x44, 0) := by decide +kernel
theorem test_ezJmp : jump .ezJmp 0x3A 0 = (0xFC, 0, 0) := by decide +kernel
theorem test_ezJmpl : jump .ezJmpl 0x3B 0 = (0xFC, 0x44, 0) := by decide +kernel
theorem test_ezLoop : jump .ezLoop 0x3C 2 = (0x3C, 0, 1) := by decide +kernel
theorem test_ezLoop_end : jump .ezLoop 0x3C 1 = (0x44, 0, 0) := by decide +kernel

/-- Rings with work and no program: ring 2 with one descriptor, ring 9 with more than its 2^0 slots. -/
def ringWork (n : Nat) (k : BitVec 4) (tail head : BitVec 16) : State :=
  { atWork with host := { bootEn := true, rings := [(n, { base := 0x4000, size := k, tail := tail, head := head })] } }

/-- Premises of EaselProgramsStartAndEnd. -/
theorem wit_ring : let s := ringWork 2 2 7 5
    let o := ringWork 9 0 3 1
    s.live ∧ s.ezPick = some 2 ∧ (s.ctx 2).running = false ∧ s.mgmtDecode true 0x4040 = some (0, false) ∧
    ((s.ring 2).tail - (s.ring 2).head).toNat ≤ 2 ^ (s.ring 2).size.toNat ∧ o.ezPick = some 9 ∧
    2 ^ (o.ring 9).size.toNat < ((o.ring 9).tail - (o.ring 9).head).toNat := by unfold State.live; decide +kernel
/-- More work than slots at the end of a KCLK. -/
theorem wit_ringOver : let s : State := { ringWork 9 0 3 1 with clk := { atWork.clk with cyc := 80007 } }
    s.clk.cyc % 8 = 7 ∧ s.host.bootEn = true ∧ s.clk.initBusy = false ∧ s.ez.ctx = [] ∧ (s.ring 9).tailK = none ∧ (s.ring 9).err = false ∧
    2 ^ (s.ring 9).size.toNat < ((s.ring 9).tail - (s.ring 9).head).toNat ∧ (s.kclkEnd.ring 9).err = true := by decide +kernel
theorem wit_end : (ezState 0 (latch 0x0D fX []) []).runs 0 0x0D fX ∧
    (ezState 0 (latch 0x0D fX []) []).mgmtDecode true ((ezState 0 (latch 0x0D fX []) []).descAddr 0 + 0x30) = some (0, false) ∧
    (ezState 0 (latch 0x0D fX []) []).descAddr 0 % 64 = 0 := ⟨runs_of (by decide +kernel), by decide +kernel, by decide +kernel⟩
theorem wit_end_noRegion : let s := ezState 0 (latch 0x0D fX []) []
    let t : State := { s with ez := { s.ez with everRegion := true } }
    t.runs 0 0x0D fX ∧ t.mgmtDecode true (t.descAddr 0 + 0x30) = none := ⟨runs_of (by decide +kernel), by decide +kernel⟩
theorem test_ringDescriptorStart : (smGet [] (after .ringDescriptorStart (ringWork 2 2 7 5)).ez.memOut 0).map (fun q => (q.mopc, q.line)) =
    [(1, 0x101)] := by decide +kernel
theorem test_ringDescriptorStart_over : ((after .ringDescriptorStart (ringWork 9 0 3 1)).ring 9).err = true := by decide +kernel
theorem test_ezEnd : (smGet [] (after (.ezEnd fX) (ezState 0 (latch 0x0D fX []) [])).ez.memOut 0).map (fun q => (q.mopc, q.off, q.be)) =
    [(2, 0x30, 0xFFFF000000000000)] := by decide +kernel

/-- A ring that asks for, or waits for, events of a mask. -/
def eventState (r : Nat) (ev : BitVec 16) (c : Ctx) : State := let s := ezState r c []; { s with ez := { s.ez with events := ev } }

/-- Premises of EaselWaitAndSignal: an event that is set, none, and neither mask nor time. -/
theorem wit_wait (r : Nat) (hr : r = 7 ∨ r = 8) (ev : BitVec 16) (he : ev = 0 ∨ ev = 0x120) (g : BitVec 64) (hg : g = 0 ∨ g = 0x120) (opc : Nat)
    (ho : opc = 0x0E ∨ opc = 0x0F) : let s := eventState r ev (latch opc (fI 0) [(1, g)])
    s.runs r opc (fI 0) ∧ ∀ e ∈ s.ez.ctx, ¬ e.1 < r := by
  refine ⟨runs_of ?_, ?_⟩ <;> rcases hr with rfl | rfl <;> rcases he with rfl | rfl <;> rcases hg with rfl | rfl <;> rcases ho with rfl | rfl <;>
    decide +kernel
theorem wit_waiting (ev : BitVec 16) (he : ev = 0 ∨ ev = 0x120) : let s := eventState 9 ev { wait := .event 0x100 (some 9999) 3 }
    s.live ∧ (s.ctx 9).wait = .event 0x100 (some 9999) 3 ∧ (∀ e ∈ s.ez.ctx, ¬ e.1 < 9) ∧ 9999 ≤ s.clk.cyc / 8 ∧
    (s.ez.events &&& 0x100 = 0 ↔ ev = 0) := by
  unfold State.live; rcases he with rfl | rfl <;> decide +kernel
/-- A ring below that waits for one of the events has it first. -/
theorem wit_lower : let s := eventState 9 0x300 { wait := .event 0x300 (some 9999) 3 }
    let t : State := { s with ez := { s.ez with ctx := (2, { running := true, wait := .event 0x100 none 1 }) :: s.ez.ctx } }
    ∀ i, i < 16 → ((0x100#16).getLsbD i = true ↔
      ∃ e ∈ t.ez.ctx, e.1 < 9 ∧ (match e.2.wait with | .event m _ _ => m.getLsbD i | _ => false) = true) := by decide +kernel
theorem test_ezWait : (fun t : State => (t.ez.events, (t.ctx 0).gr 1)) (after (.ezWait (fI 0)) (eventState 0 0x120 (latch 0x0E (fI 0) [(1, 0x101)]))) =
    (0x20, 0x100) := by decide +kernel
theorem test_ezWait_waits : ((after (.ezWait (fI 5)) (eventState 0 0 (latch 0x0E (fI 5) [(1, 0x101)]))).ctx 0).wait = .event 0x101 (some 10005) 1 := by
  decide +kernel
theorem test_ezSignal : (fun t : State => (t.ez.events, t.host.irqStatS)) (after (.ezSignal (fI 1)) (eventState 3 0 (latch 0x0F (fI 1) [(1, 0x13F)]))) =
    (0x120, 0x800) := by decide +kernel
theorem test_ezSignal_ns : (fun t : State => (t.ez.events, (t.ctx 9).viol)) (after (.ezSignal (fI 0)) (eventState 9 0 (latch 0x0F (fI 0) [(1, 0x120)]))) =
    (0x100, true) := by decide +kernel
theorem test_waitEventTaken : (fun c : Ctx => (c.gr 3, c.wait)) ((after (.waitEventTaken 9) (eventState 9 0x120
    { rep := some (0, 0), wait := .event 0x100 (some 9999) 3 })).ctx 9) = (0x100, .idle) := by decide +kernel
theorem test_waitTimeout : (fun c : Ctx => (c.gr 3, c.wait)) ((after (.waitTimeout 9) (eventState 9 0x20
    { g := [(3, 5)], rep := some (0, 0), wait := .event 0x100 (some 9999) 3 })).ctx 9) = (0, .idle) := by decide +kernel

/-- A REP of ADD, or of BR, at local-store byte 0. -/
def repState (f : RepFld) (succ : BitVec 32) (c : Ctx) : State := ezState 0 c [succ ++ repWord f, 0, 0]
def repFour : RepFld := { i := true, count := 4, stride := 1 }

/-- Premises of EaselRepeatPrefix. -/
theorem wit_rep (f : RepFld) (hf : f ∈ [repFour, { repFour with count := 0 }, { repFour with csrc := true }, { repFour with cond := 1 }])
    (x : BitVec 32) (hx : x = fldWord 0x10 fX ∨ x = fldWord 0x38 fX) : let s := repState f x { rc := 3 }
    s.live ∧ s.ezNext = some (0, { word := repWord f, succ := some (x, 0), locs := [0, 0] }) := by
  unfold State.live
  rcases hx with rfl | rfl <;> fin_cases hf <;> decide +kernel
theorem wit_rep_again : let s := repState repFour (fldWord 0x10 fX) { inrep := true, rem := 2, idx := 2, repw := repWord repFour }
    s.ezNext = some (0, { word := repWord repFour, succ := some (fldWord 0x10 fX, 0), locs := [0, 0] }) := by decide +kernel
theorem test_ezRep : (fun c : Ctx => (c.inrep, c.rem, c.pc)) ((after (.ezRep repFour) (repState repFour (fldWord 0x10 fX) {})).ctx 0) = (true, 4, 0) := by
  decide +kernel
theorem test_ezRep_single : (fun c : Ctx => (c.malf, c.pc)) ((after (.ezRep repFour) (repState repFour (fldWord 0x38 fX) {})).ctx 0) = (true, 4) := by
  decide +kernel

/-- Premises of EaselFaultsAndFailedConditions: a reserved word; DISP 16 beside X; accesses that fault; an uncorrectable word; a condition
that fails. -/
theorem wit_reserved (opc : Nat) (h : opc ∈ [0x00, 0x0A, 0x37, 0x3E, 0x3F]) : let s := ezState 0 (latch opc fX []) []
    s.live ∧ s.ezNext = some (0, { word := fldWord opc fX }) ∧ wOpc (fldWord opc fX) = opc ∧
    condHolds (wCond (fldWord opc fX)) (s.ctx 0).flags (s.ctx 0).rc = true := by
  unfold State.live
  fin_cases h <;> decide +kernel
theorem wit_dispHigh (e : Nat × Instr) (h : e ∈ twoOperand (fI 16)) : (ezState 0 (latch e.1 (fI 16) []) []).runs 0 e.1 (fI 16) := by
  have all : (twoOperand (fI 16)).all (fun e => runsB (ezState 0 (latch e.1 (fI 16) []) []) 0 e.1 (fI 16)) = true := by decide +kernel
  exact runs_of (List.all_eq_true.1 all e h)
theorem wit_accessFault (e : BitVec 64 × Nat) (h : e ∈ ([(0x8000000000000000#64, 7), (1#64, 6), (0x0400000000000000#64, 2)] : List (BitVec 64 × Nat))) :
    let ea := e.1; let c := e.2; (memCtx 3 (fI 0) ea).runs 0 3 (fI 0) ∧
    (memCtx 3 (fI 0) ea).access 0 (iterEa ((memCtx 3 (fI 0) ea).ctx 0) (fI 0) 2) 2 .load = .fault c := by
  refine ⟨runs_of ?_, ?_⟩ <;> fin_cases h <;> decide +kernel
theorem wit_localUe : let s := memCtx 1 (fI 0) 0
    let t : State := { s with ez := { s.ez with loc := [(0, 3)] } }
    t.runs 0 1 (fI 0) ∧ t.access 0 (iterEa (t.ctx 0) (fI 0) 8) 8 .load = .loc 0 ∧ lightDec (t.locRaw 0).toNat = .ue 3 :=
  ⟨runs_of (by decide +kernel), by decide +kernel, by decide +kernel⟩
theorem wit_condFails (e : Nat × Instr) (h : e ∈ plainInstr { fX with cond := 1 }) : let f : Fld := { fX with cond := 1 }
    let s := ezState 0 (latch e.1 f []) []
    s.ezNext = some (0, { word := fldWord e.1 f, ext := f.ext }) ∧ condHolds f.cond (s.ctx 0).flags (s.ctx 0).rc = false := by
  have all : (plainInstr { fX with cond := 1 }).all (fun e =>
      decide ((ezState 0 (latch e.1 { fX with cond := 1 } []) []).ezNext = some (0, { word := fldWord e.1 { fX with cond := 1 } })) &&
      !condHolds 1 ((ezState 0 (latch e.1 { fX with cond := 1 } []) []).ctx 0).flags ((ezState 0 (latch e.1 { fX with cond := 1 } []) []).ctx 0).rc) =
        true := by decide +kernel
  have x := List.all_eq_true.1 all e h
  simp only [Bool.and_eq_true, decide_eq_true_eq, Bool.not_eq_true'] at x
  exact x
theorem test_ezReserved : ((after (.ezReserved 0) (ezState 0 (latch 0 {} []) [])).ctx 0).fault = 1 := by decide +kernel
theorem test_cond : ((after (.ezAdd { fX with cond := 1 }) (ezState 0 (latch 0x10 { fX with cond := 1 } [(2, 5)]) [])).ctx 0).gr 1 = 0 := by
  decide +kernel

/-! ### Management operations -/

/-- Ring 0 at a management operation whose operand words stand from local-store byte 0 on. -/
def opState (opc : Nat) (ws : List (BitVec 64)) : State := ezState 0 (latch opc (fI 0) []) ws

/-- The operand words `ws` stand from local-store byte 0 on. -/
def operandsB (s : State) (ws : List (BitVec 64)) : Bool :=
  (List.range ws.length).all fun k =>
    decide (s.access 0 (iterEa (s.ctx 0) (fI 0) 8 + BitVec.ofNat 64 (8 * k)) 8 .load = .loc (8 * k)) &&
    decide (lightDec (s.locRaw k).toNat = .ok (ws.getD k 0).toNat)

theorem operands_of {s : State} {ws : List (BitVec 64)} (h : operandsB s ws = true) : s.operands 0 (iterEa (s.ctx 0) (fI 0) 8) ws := by
  intro k hk
  have x := List.all_eq_true.1 h k (List.mem_range.2 hk)
  simp only [Bool.and_eq_true, decide_eq_true_eq] at x
  refine ⟨8 * k, x.1, ?_⟩
  have : 8 * k / 8 = k := by omega
  unfold State.locReads
  rw [this]; exact x.2

/-- Operand words for each row of `mgmtInstr`, in its order. -/
def opWords : List (List (BitVec 64)) :=
  [[0x20000000500#64, 0], [0], [0, 1], [0], [0], [0, 0], [0x100, 0], [0], [0x100], []] ++
  [[0], [], [0, 0, 0], [0], [1], [2, 0, 4096], [3, 5], [2], [0], [5, 0, 0, 0, 0]]

/-- Premises of EaselManagementOperationBegins: every row. -/
theorem wit_mgmt (e : (Nat × (Nat → Bool) × Instr) × List (BitVec 64)) (h : e ∈ (mgmtInstr (fI 0)).zip opWords) :
    let s := opState e.1.1 e.2
    s.runs 0 e.1.1 (fI 0) ∧ s.ez.ops = [] ∧ e.2.length = opTotal e.1.1 e.2 ∧ s.operands 0 (iterEa (s.ctx 0) (fI 0) 8) e.2 ∧
    e.1.2.1 (e.2.getD 0 0).toNat = true ∧ (s.br 0).bstate ≠ 3 := by
  have all : ((mgmtInstr (fI 0)).zip opWords).all (fun e =>
      runsB (opState e.1.1 e.2) 0 e.1.1 (fI 0) && decide ((opState e.1.1 e.2).ez.ops = []) && decide (e.2.length = opTotal e.1.1 e.2) &&
      operandsB (opState e.1.1 e.2) e.2 && e.1.2.1 (e.2.getD 0 0).toNat && decide (((opState e.1.1 e.2).br 0).bstate ≠ 3)) = true := by
    decide +kernel
  have x := List.all_eq_true.1 all e h
  simp only [Bool.and_eq_true, decide_eq_true_eq] at x
  exact ⟨runs_of x.1.1.1.1.1, x.1.1.1.1.2, x.1.1.1.2, operands_of x.1.1.2, x.1.2, x.2⟩
theorem wit_mgmt_rows : ((mgmtInstr (fI 0)).zip opWords).length = 20 := by decide +kernel

/-- LOCK and PROFILE in a block whose profile is `prof`. -/
def profState (opc prof : Nat) (ws : List (BitVec 64)) : State :=
  let s := opState opc ws
  { s with host := { s.host with prof := BitVec.ofNat 2 prof } }

/-- Premises of EaselLockProfileAndAdmit: every profile word at its boundaries. -/
theorem wit_profile (opc prof : Nat) (w : BitVec 64) (ho : opc = 0x34 ∨ opc = 0x35) (hp : prof = 0 ∨ prof = 1)
    (hw : w ∈ [0x03800001#64, 0x03810001#64, 2, 3, 0x3F]) :
    (profState opc prof [w]).runs 0 opc (fI 0) ∧ (profState opc prof [w]).ez.ops = [] ∧
    (profState opc prof [w]).operands 0 (iterEa ((profState opc prof [w]).ctx 0) (fI 0) 8) [w] := by
  refine ⟨runs_of ?_, ?_, operands_of ?_⟩ <;> rcases ho with rfl | rfl <;> rcases hp with rfl | rfl <;>
    fin_cases hw <;> decide +kernel

/-- Premises of OnlyBlockResetClearsStickyState: a later PROFILE. -/
theorem wit_laterProfile : (profState 0x34 1 [2]).runs 0 0x34 (fI 0) ∧ (profState 0x34 1 [2]).ez.ops = [] ∧
    (profState 0x34 1 [2]).operands 0 (iterEa ((profState 0x34 1 [2]).ctx 0) (fI 0) 8) [2] ∧ (profState 0x34 1 [2]).host.prof ≠ 0 :=
  ⟨runs_of (by decide +kernel), by decide +kernel, operands_of (by decide +kernel), by decide +kernel⟩

/-- The status of the operation that has begun. -/
def status (s : State) : Option Nat := (s.ez.ops.head?).bind (·.status)

theorem test_ezLock : (after (.ezLock (fI 0)) (profState 0x35 0 [0x21])).host.locks = 0x21 := by decide +kernel
theorem test_ezProfile : (fun t : State => (t.host.prof, (t.panel 3).bhtc, status t)) (after (.ezProfile (fI 0)) (profState 0x34 0 [0x03800001#64])) =
    (1, 896, some 1) := by decide +kernel
theorem test_ezProfile_over : status (after (.ezProfile (fI 0)) (profState 0x34 0 [0x03810001#64])) = some 4 := by decide +kernel

/-- ADMIT of port 2 as agent 9, with its LIMIT and SIT_CYC. -/
def admitWords (limit sit : Nat) : List (BitVec 64) := [BitVec.ofNat 64 (2 + 9 * 2 ^ 8 + limit * 2 ^ 32), BitVec.ofNat 64 sit]

/-- Port 2 in READY, or as given, MAX_SIT 10. -/
def admitState (limit sit : Nat) (l : LState) (tracked : Nat) : State :=
  { profState 0x28 2 (admitWords limit sit) with
    ports := [(0, port5), (2, { lstate := l, maxSit := 10, rst := false, hsPend := false, mode := { kind := 1, tracked := tracked } })] }

/-- Premises of EaselLockProfileAndAdmit: each check of ADMIT at its boundary. -/
theorem wit_admit (e : Nat × Nat × LState × Nat) (h : e ∈ ([(8, 10, .ready, 1), (4096, 10, .ready, 1),
    (7, 10, .ready, 1), (4097, 10, .ready, 1), (8, 9, .ready, 1), (8, 10, .ready, 2 ^ 20 + 1), (8, 10, .introduce, 1)] : List (Nat × Nat × LState × Nat))) :
    let limit := e.1; let sit := e.2.1; let l := e.2.2.1; let tracked := e.2.2.2; let s := admitState limit sit l tracked
    s.runs 0 0x28 (fI 0) ∧ s.ez.ops = [] ∧ s.operands 0 (iterEa (s.ctx 0) (fI 0) 8) (admitWords limit sit) ∧ (s.port 2).lstate = l ∧
    (s.port 2).maxSit = 10 ∧ (s.capacityOk 2 = true ↔ tracked ≤ 2 ^ 20) ∧ (∀ e ∈ s.ports, e.2.agent ≠ 9) ∧
    (((admitWords limit sit).getD 0 0).extractLsb' 32 13).toNat = limit ∧ (((admitWords limit sit).getD 1 0).extractLsb' 0 32).toNat = sit := by
  refine ⟨runs_of ?_, ?_, operands_of ?_, ?_⟩ <;>
    fin_cases h <;> decide +kernel
theorem test_ezAdmit : (fun t : State => ((t.port 2).lstate, (t.port 2).agent, (t.port 2).limit)) (after (.ezAdmit (fI 0)) (admitState 4096 10 .ready 1)) =
    (.admitted, 9, 4096) := by decide +kernel
theorem test_ezAdmit_limit : status (after (.ezAdmit (fI 0)) (admitState 7 10 .ready 1)) = some 7 := by decide +kernel

/-- Premises of EaselManagementFailures, by opcode and words. -/
def failWords : List (Nat × List (BitVec 64)) :=
  [(0x29, [3]), (0x2A, [0, 0]), (0x2A, [0, 0x100000001#64]), (0x2A, [0xFFFFFFFFFFFC0#64, 2]), (0x2B, [4]), (0x2B, [0x40000000#64]),
   (0x2C, [4]), (0x2D, [3, 0]), (0x2E, [3]), (0x2E, [0x100])] ++
  [(0x30, [0x10]), (0x30, [0x40000]), (0x32, [4, 0, 0]), (0x32, [0x40, 0, 0]), (0x33, [0]), (0x33, [2, 1, 0]), (0x36, [7, 0, 0, 0, 0])]
theorem wit_fails (e : Nat × List (BitVec 64)) (h : e ∈ failWords) : let s := opState e.1 e.2
    s.runs 0 e.1 (fI 0) ∧ s.ez.ops = [] ∧ s.operands 0 (iterEa (s.ctx 0) (fI 0) 8) e.2 := by
  have all : failWords.all (fun e => runsB (opState e.1 e.2) 0 e.1 (fI 0) && decide ((opState e.1 e.2).ez.ops = []) &&
      operandsB (opState e.1 e.2) e.2) = true := by decide +kernel
  have x := List.all_eq_true.1 all e h
  simp only [Bool.and_eq_true, decide_eq_true_eq] at x
  exact ⟨runs_of x.1.1, x.1.2, operands_of x.2⟩
theorem wit_fails_state : let s := opState 0x29 [3]
    (s.port 3).lstate = .down ∧ (s.br 0).bstate ≠ 2 ∧ s.host.locks = 0 ∧ s.ep.slots = none ∧ s.build.panels = 4 ∧ s.build.sets = 16384 ∧
    s.build.memPorts = 2 ∧ (profState 0x31 2 []).host.prof ≠ 0 ∧ (profState 0x33 2 [1]).host.prof ≠ 0 ∧
    ∀ e ∈ s.ports, e.2.agent ≠ 7 := by decide +kernel
theorem wit_fails_profiled : (profState 0x31 2 []).runs 0 0x31 (fI 0) ∧ (profState 0x33 2 [1]).runs 0 0x33 (fI 0) :=
  ⟨runs_of (by decide +kernel), runs_of (by decide +kernel)⟩
theorem test_ezExpel : status (after (.ezExpel (fI 0)) (opState 0x29 [3])) = some 2 := by decide +kernel
theorem test_ezExpel_starts : ((after (.ezExpel (fI 0)) (opState 0x29 [0])).port 0).lstate = .dead := by decide +kernel
theorem test_ezRecall : status (after (.ezRecall (fI 0)) (opState 0x2A [0xFFFFFFFFFFFC0#64, 2])) = some 2 := by decide +kernel
theorem test_ezSweep : status (after (.ezSweep (fI 0)) (opState 0x2B [4])) = some 2 := by decide +kernel
theorem test_ezSweep_starts : ((after (.ezSweep (fI 0)) { opState 0x2B [0x70001] with panels := [(1, panelWith 7 [] [])] }).net.ezMgt.map
    fun e => (e.panel, e.req)) = [(1, .sweep 7 3)] := by decide +kernel
theorem test_ezRetire : status (after (.ezRetire (fI 0)) (opState 0x2C [0x40000000#64])) = some 2 := by decide +kernel
theorem test_ezEclipse : ((after (.ezEclipse (fI 0)) (opState 0x2D [0, 0])).port 0).fencing = true := by decide +kernel
theorem test_ezEclipseBranch : status (after (.ezEclipseBranch (fI 0)) (opState 0x2D [0x100, 0])) = some 2 := by decide +kernel
theorem test_ezDawn : status (after (.ezDawn (fI 0)) (opState 0x2E [3])) = some 2 := by decide +kernel
theorem test_ezDawnBranch : status (after (.ezDawnBranch (fI 0)) (opState 0x2E [0x100])) = some 2 := by decide +kernel
theorem test_ezRsync : ((after (.ezRsync (fI 0)) (opState 0x2F [0])).ez.ops.map (·.opc)) = [0x2F] := by decide +kernel
theorem test_ezTswap : status (after (.ezTswap (fI 0)) (opState 0x30 [0x10])) = some 2 := by decide +kernel
theorem test_ezTswap_waits : status (after (.ezTswap (fI 0)) (opState 0x30 [0x8])) = none := by decide +kernel
theorem test_ezBist : status (after (.ezBist (fI 0)) (profState 0x31 2 [0])) = some 3 := by decide +kernel
theorem test_ezScrubq : status (after (.ezScrubq (fI 0)) (opState 0x32 [4, 0, 0])) = some 2 := by decide +kernel
theorem test_ezLedgerFunc0 : status (after (.ezLedgerFunc0 (fI 0)) (opState 0x33 [0])) = some 4 := by decide +kernel
theorem test_ezLedgerFunc1 : status (after (.ezLedgerFunc1 (fI 0)) (profState 0x33 2 [1])) = some 3 := by decide +kernel
/-- No region decodes the slots. -/
theorem test_ezLedgerFunc2 : status (after (.ezLedgerFunc2 (fI 0)) (opState 0x33 [2, 0, 4096])) = some 3 := by decide +kernel
/-- R520: the entry of FUNC 3 waits for the end of its KCLK, and before the first FUNC 1 the operation waits with it. -/
theorem test_ezLedgerFunc3 (held : Bool) : (fun t : State => (status t, smFind t.ep.sram 193, t.ep.cals.length))
    (after (.ezLedgerFunc3 (fI 0)) { opState 0x33 [3, 5] with ep := { held := held, sram := [(256, encW 0)] } }) =
      (if held then none else some 1, none, 1) := by cases held <;> decide +kernel
theorem test_ezTinv : status (after (.ezTinv (fI 0)) (opState 0x36 [7, 0, 0, 0, 0])) = some 2 := by decide +kernel
theorem test_ezTinv_starts : status (after (.ezTinv (fI 0)) (opState 0x36 [5, 0, 0, 0, 0])) = none := by decide +kernel

/-- An operation in progress, its ring at the latched word. -/
def opIn (o : MOp) : State :=
  let s := ezState 0 (latch o.opc (fI 0) []) []
  { s with ez := { s.ez with ctx := s.ez.ctx.map fun e => (e.1, { e.2 with wait := .op }), ops := [o] } }
def bistOp : MOp := { ring := 0, opc := 0x31, d := 1, words := [], started := true }
def eclOp : MOp := { ring := 0, opc := 0x2D, d := 1, words := [0, 100], started := true, startK := 9900 }

/-- Premises of ManagementOperationsEnd. -/
theorem wit_opEnds (o : MOp) (h : o ∈ [bistOp, eclOp, { bistOp with status := some 3 }]) : (opIn o).live ∧ (opIn o).ez.ops = [o] ∧ o.ring = 0 ∧
    o.started = true ∧ (o.opc = 0x2D → (o.word 0).testBit 8 = false ∧ o.word 1 ≠ 0 ∧ o.startK + o.word 1 = (opIn o).clk.cyc / 8) := by
  unfold State.live
  fin_cases h <;> decide +kernel
theorem test_managementOpComplete : (fun t : State => ((t.ctx 0).gr 1, t.ez.ops)) (after (.managementOpComplete 0 {}) (opIn { bistOp with status := some 3 })) =
    (3, []) := by decide +kernel
/-- R413, R542: the strong decoder of panel 0 takes a one-bit error for an uncorrectable one; that of panel 1 is right about it. -/
theorem test_managementOpComplete_bist : (fun t : State => ((t.ctx 0).gr 1, t.host.bist))
    (after (.managementOpComplete 0 { bist := [{ cls := 1, unit := 0, mask := 1, ecc := .ue }, { cls := 1, unit := 1, mask := 1, ecc := .ce }] })
      (opIn bistOp)) = (2, 0x80011000) := by decide +kernel
theorem test_eclipseTimeout_ends (e : LState × Nat) (h : e ∈ [(.eclipsed, 1), (.dead, 5), (.admitted, 4)]) :
    status (after (.eclipseTimeout 0) { opIn eclOp with ports := [(0, { port5 with lstate := e.1 })] }) = some e.2 := by
  fin_cases h <;> decide +kernel
theorem test_eclipseTimeout : status (after (.eclipseTimeout 0) (opIn eclOp)) = some 4 := by decide +kernel
theorem test_eclipseTimeout_early : status (after (.eclipseTimeout 0) (opIn { eclOp with startK := 9901 })) = none := by decide +kernel

/-- A TSWAP of panel 1 and memory port 0 that waits for its boundary. -/
def swapOp : MOp := { ring := 0, opc := 0x30, d := 1, words := [0x10002#64], started := true }
def swapAt (c : Nat) : State := { opIn swapOp with clk := { atWork.clk with cyc := c }, w6 := [(0x80200, 7), (0x91200, 5), (0x92200, 6)] }

/-- Premises of FrameBoundarySwapsTables. -/
theorem wit_swap : (swapAt 6400).live ∧ (swapAt 6400).ez.tswap = [] ∧ swapOp ∈ (swapAt 6400).ez.ops ∧ swapOp.opc = 0x30 ∧ swapOp.started = true ∧
    swapOp.status = none ∧ (∀ q ∈ (swapAt 6400).ez.ops, q.opc = 0x30 → q = swapOp) ∧ (swapAt 6400).clk.cyc % 64 = 0 ∧
    (swapAt 6401).clk.cyc % 64 ≠ 0 := by unfold State.live; decide +kernel
theorem test_slotFrameBoundary : (fun t : State => (t.w6g 0x80400, t.w6g 0x91400, t.w6g 0x92400)) (after .slotFrameBoundary (swapAt 6400)) =
    (7, 5, w6Reset 0x92400) := by decide +kernel
theorem test_slotFrameBoundary_between : status (after .slotFrameBoundary (swapAt 6401)) = none := by decide +kernel

/-! ### Registers that rings store -/

/-- The block with locks and a profile, port 0 held for the secure world. -/
def regState (prof locks : Nat) : State :=
  { portIn { port5 with shold := true, crdOvf := true } with host := { prof := BitVec.ofNat 2 prof, locks := BitVec.ofNat 6 locks } }

/-- Premises of StoreBeyondPrivilegeIsAViolation and EaselRegisterStoreTakesEffect. -/
theorem wit_stores : (regState 1 3).live ∧ (regState 1 3).host.prof ≠ 0 ∧ (regState 1 3).host.locks.getLsbD 0 = true ∧
    (regState 1 3).host.locks.getLsbD 1 = true ∧ (0 < (regState 1 3).build.slots) ∧ ((regState 1 3).port 0).shold = true ∧
    (regState 0 0).host.locks.getLsbD 1 = false ∧ ¬ 8 ∣ 0xA0004 := by unfold State.live; decide +kernel
theorem test_store_ns : ((after (.easelRegisterStore 9 3 0 5) (regState 0 0)).ctx 9).viol = true := by decide +kernel
theorem test_easelRegisterStore : (fun t : State => (t.ptSit 5, t.ptSit 6)) (after (.easelRegisterStore 0 6 0xA0028 31) (regState 0 0)) = (32, 0x100) := by
  decide +kernel

/-- Premises of RouterAndArrayStores: tables in use or not; mirrored routers; counters; arrays. -/
def routed (flipped : Bool) : State :=
  { atWork with routers := [(0, { inj := [3, 4], ej := [5, 6] }), (40, { flipped := flipped })], net := { brs := [(0, { bstate := 2 })] } }
theorem wit_router : (routed true).live ∧ (routed true).build.hasRouter 0 = true ∧ (routed true).build.hasRouter 32 = true ∧
    ((routed true).router 40).flipped = true ∧ ((routed true).router 0).epoch % 2 = 0 ∧ ((routed false).router 40).flipped = false ∧
    (routed true).mirrored 0 = true ∧ atWork.mirrored 0 = false ∧ ((routed true).router 0).inj = [3, 4] ∧ ((routed true).router 0).ej = [5, 6] ∧
    atWork.host.prof = 0 ∧ atWork.build.p ≤ 4 ∧ atWork.build.panels = 4 ∧ atWork.build.sets = 16384 ∧ 4 * atWork.build.palSets = 4096 ∧
    atWork.panelFrozen 3 = false ∧ atWork.host.locks.getLsbD 0 = false := by unfold State.live; decide +kernel
/-- Premises of RouterAndArrayStores after PROFILE, and in a KCLK whose management request a panel has had. -/
theorem wit_arrays : (regState 2 0).host.prof ≠ 0 ∧ (regState 2 0).host.locks.getLsbD 0 = false ∧
    (({ atWork with panels := [(3, { mgmtAt := some 10000 })] } : State).panel 3).mgmtAt = some (atWork.clk.cyc / 8) ∧
    (∀ p, p < 4 → (atWork.panel p).mgmtAt ≠ some (atWork.clk.cyc / 8)) := by decide +kernel
theorem test_directoryWordStore_waits :
    (after (.directoryWordStore 0 (2 ^ 26) 9) { atWork with panels := [(3, { mgmtAt := some 10000 })] }).panels.length = 1 := by decide +kernel
theorem test_regionMapWrite_profiled : (after (.regionMapWrite 0 8 0xFFFFFFFFFFFFFFFF#64) (regState 2 0)).rgnRaw 1 = encW 0x003F000F00FF3703#64 := by
  decide +kernel
theorem test_routeEntryWrite : smGet 0 ((after (.routeEntryWrite 0 0 1 9 0xFF) (routed true)).router 0).routes 265 = 0x87 := by decide +kernel
theorem test_routeEntryWrite_inUse : ((after (.routeEntryWrite 0 0 0 9 0xFF) (routed true)).router 0).tblErr = true := by decide +kernel
theorem test_rootFlip : (fun t : State => ((t.router 40).epoch, (t.router 0).flipAt)) (after (.rootFlip 0 1) atWork) = (1, some 80003) := by decide +kernel
theorem test_rtClr : (fun x : Router => (x.inj, x.ej)) ((after (.rtClr 0 0 2) (routed true)).router 0) = ([3, 0], [5, 0]) := by decide +kernel
theorem test_rtSnpdlWrite : ((after (.rtSnpdlWrite 0 0 0x123456) (routed true)).router 0).snpdl = 0x23456 := by decide +kernel
theorem test_directoryWordStore : (fun t : State => (smFind (t.panel 3).dir 0x21, smFind (t.panel 2).dir 0x21))
    (after (.directoryWordStore 0 (3 * 2 ^ 22 + 2 * 2 ^ 7 + 8) 9) atWork) = (some (BitVec.ofNat 72 (strongEnc 56 9)), none) := by decide +kernel
theorem test_paletteCodewordStore : smFind ((after (.paletteCodewordStore 0 (2 ^ 20 + 5 * 2 ^ 6 + 4 * 8) 9) atWork).panel 1).pal 44 = some (encW 9) := by
  decide +kernel
theorem test_regionMapWrite : (after (.regionMapWrite 0 8 0xFFFFFFFFFFFFFFFF#64) atWork).rgnRaw 1 = encW 0x003F000F00FF3703#64 := by decide +kernel
theorem test_hashKeyWrite : (after (.hashKeyWrite 0 1 0xFFFFFFFFFFFFFFFF#64) atWork).rgnRaw 33 = encW 0x3FFFFFFF00007FFF#64 := by decide +kernel

/-- Premises of ControlRegisterStores: a port with and without REQs of its own. -/
def prioState (reqs : List POut) : State := portIn { port5 with reqs := reqs, winUp := 3 }
theorem wit_prio : (prioState []).live ∧ ((prioState []).port 0).prio = 2 ∧ ((prioState []).port 0).reqs = [] ∧
    (prioState []).q (.leafUp 0) cREQ = [] ∧ ((prioState [{ tag := 1, opc := 1 }]).port 0).reqs.all (·.resp) = false ∧
    ((prioState [{ tag := 1, opc := 1, resp := true }]).port 0).reqs.all (·.resp) = true ∧ (prioState []).build.p ≤ 4 ∧
    0 < (prioState []).build.slots ∧ 3 < (prioState []).build.panels := by unfold State.live; decide +kernel
/-- A window of port 0 that has ended in this KCLK. -/
def winState : State := { prioState [] with winLast := [(0x1000, (10001, 900, 7))] }
theorem wit_winLast : smFind winState.winLast 0x1000 = some (winState.clk.cyc / 8 + 1, 900, 7) := by decide +kernel
theorem test_bwMaxStore : (after (.bwCtlWrite 0 0x1018 100) winState).w4g 0x1018 = 900 ∧ (after (.bwCtlWrite 0 0x1018 1000) winState).w4g 0x1018 = 1000 := by
  decide +kernel
/-- R497: the events of the KCLK of the store count no more. -/
theorem test_counterStore_discards : ((after (.counterStore 0 0x388 9) atWork).ctr4 0x388 1).w4g 0x388 = 9 := by decide +kernel
theorem test_psPrioWrite : ((after (.psPrioWrite 0 0 0) (prioState [])).port 0).prio = 1 := by decide +kernel
theorem test_psPrioWrite_waits : (fun x : Port => (x.prio, x.prioPend)) ((after (.psPrioWrite 0 0 1) (prioState [{ tag := 1, opc := 1 }])).port 0) =
    (2, some 1) := by decide +kernel
theorem test_psPrioWrite_answered : ((after (.psPrioWrite 0 0 1) (prioState [{ tag := 1, opc := 1, resp := true }])).port 0).prio = 1 := by decide +kernel
theorem test_psHbWrite : ((after (.psHbWrite 0 0 0x123456) (prioState [])).port 0).hbWin = 0x23456 := by decide +kernel
theorem test_dlLimWrite : (after (.dlLimWrite 0 3 7 0x123456) atWork).w6g 0x93838 = 0x23456 := by decide +kernel
theorem test_counterStore : (after (.counterStore 0 0x388 0xFFFFFFFFFFFFFFFF#64) atWork).w4g 0x388 = 0xFFFFFFFFFFFF#64 := by decide +kernel
theorem test_bwCtlWrite : (fun t : State => (t.w4g 0x1000, (t.port 0).winUp)) (after (.bwCtlWrite 0 0x1000 0x4C) (prioState [])) = (0x0C, 0) := by
  decide +kernel

/-! ### The control port -/

/-- The block with ring 8 as given. -/
def cpState (locks : Nat) (g : Ring) : State := { atWork with host := { locks := BitVec.ofNat 6 locks, rings := [(3, g)] } }

/-- Premises of ControlPortAccesses. -/
theorem wit_cp : (cpState 0 {}).live ∧ (cpState 0 {}).clk.cpSvc = true ∧ (cpState 0 {}).host.bootEn = false ∧ (cpState 0 {}).host.locks.getLsbD 4 = false ∧
    (cpState 16 {}).host.locks.getLsbD 4 = true ∧ ((cpState 0 {}).ctx 3).running = false ∧ ((cpState 0 {}).ctx 3).wait = .idle ∧
    ((cpState 0 {}).ring 3).tail = ((cpState 0 {}).ring 3).head ∧ ((cpState 0 { tail := 1 }).ring 3).tail ≠ ((cpState 0 { tail := 1 }).ring 3).head := by
  unfold State.live; decide +kernel
/-- The parity bits of two writes and of a read, by hand from R269 and R532. -/
theorem test_cpReqPar : cpReqPar true false 0x40 0x11 = 0x1F#5 ∧ cpReqPar true false 0x16C 7 = 0x1E#5 ∧ cpReqPar false false 0 0 = 0x1F#5 := by
  decide +kernel
theorem test_drvBootWrite : (fun t : State => (t.host.bootEn, t.host.bootPort)) (after (.drvBootWrite false 0x1F 0x11) atWork) = (true, 1) := by
  decide +kernel
theorem test_drvRingTailWrite : (after (.drvRingTailWrite false 0x1E 3 7) (cpState 0 { err := true })).ring 3 = { tail := 7, tailK := some 10000 } := by
  decide +kernel
theorem test_drvRingBaseSizeWrite : ((after (.drvRingBaseSizeWrite false (cpReqPar true false 0x164 0xFFFFFFFF) 3 1 0xFFFFFFFF) (cpState 0 {})).ring 3).base =
    0xFFFFF00000000 := by decide +kernel
theorem test_drvRingBaseSizeWrite_busy : ((after (.drvRingBaseSizeWrite false (cpReqPar true false 0x168 5) 3 2 5) (cpState 0 { tail := 1 })).ring 3).size = 0 := by
  decide +kernel
theorem test_drvIrqStatWrite : (after (.drvIrqStatWrite false (cpReqPar true false 0x60 6) 0 6) { atWork with host := { irqStatS := 7 } }).host.irqStatS = 1 := by
  decide +kernel
/-- R20: a bit that was set in the same KCLK stays. -/
theorem test_drvIrqStatWrite_set : (after (.drvIrqStatWrite false (cpReqPar true false 0x60 6) 0 6)
    { atWork with host := { irqStatS := 7 }, hwSet := [(kIrqS 1, 10001)] }).host.irqStatS = 3 := by decide +kernel
theorem test_cpRegisterRead : (after (.cpRegisterRead { addr := 0, par := 0x1F }) atWork).outs = [.cp false 0xD7E00301 0xA] := by decide +kernel
theorem test_cpRegisterRead_ns : (fun t : State => (t.host.cpViol, t.outs)) (after (.cpRegisterRead { addr := 0, ns := true, par := 0xF }) atWork) =
    (1, [.cp false 0 0xF]) := by decide +kernel
theorem test_cpRegisterWrite : (after (.cpRegisterWrite { addr := 0x54, wdata := 9, par := 0x1F }) atWork).host.timeFreq = 9 := by decide +kernel
theorem test_cpRegisterWrite_parity : (fun t : State => (t.host.timeFreq, t.outs)) (after (.cpRegisterWrite { addr := 0x54, wdata := 9, par := 0x1E }) atWork) =
    (0, [.cp true 0 0xF]) := by decide +kernel

/-! ### Well-formed commands -/

/-- One ill-formed term for each check of a number: slots, panels, HTCs, ports, branches, routers, rings, classes, queues, offsets. -/
def illNumbers : List Instr :=
  [.apRstAssert 256, .rds 16 {}, .htcFreed 0 1024 {}, .mpReqCrd 8, .ebar 8 0 {}, .ebar 0 16 {}, .epochCaptured 41, .rootFlip 16 0, .downwardCredit 0 { cls := 6 },
   .creditReturned (.panelIn 0) 24, .creditReturned (.panelIn 0) 7, .counterStore 0 1152921504606846976 0]

/-- One for each place, output, crossing and window. -/
def illPlaces : List Instr :=
  [.creditReturned (.leafDown 32) 0, .creditReturned (.branchDown 8) 0, .creditReturned (.panelOut 16) 0, .creditReturned (.synth 41) 0,
   .creditReturned (.leafUp 256) 0, .packetHop (.leafToPort 256) {}, .packetHop (.branchToLeaf 32) {}, .packetHop (.rootToBranch 8) {},
   .packetHop (.panelToRoot 16) {}, .handshakeComplete (.agent 256), .crossingResetRelease (.mem 8), .byteWindowEnd (.port 256),
   .byteWindowEnd (.mem 8)]

/-- One for each check of a disturbance, a message, an access and a word. -/
def illMessages : List Instr :=
  [.rds 0 { dir := [(16, 1)] }, .rds 0 { pal := [(131072, 1)] }, .rds 0 { rgn := [(576, 1)] }, .ebar 0 0 { prx := [(32, .ue)] },
      .upwardPacketCheck 0 { chan := 8, flits := [{}] },
   .upwardPacketCheck 0 {}, .upwardPacketCheck 0 { flits := List.replicate 6 {} }, .mdata 0 {} {},
   .mwrcmp 0 { flits := [{}, {}, {}] }, .cpRegisterRead { addr := 8192 }, .ezReserved 0x04000000]

/-- One for each bound that one command alone has. -/
def illBounds : List Instr :=
  [.intro 0 {} (List.replicate 15 {}) none, .intro 0 {} [] (some {}), .combineFlush 0 16384, .setSweepStart 0 32768 {}, .ephemerisStagingFlush [(512, 1)],
   .twinMismatch (some 16), .routeEntryWrite 0 0 2 0 0, .routeEntryWrite 0 0 0 256 0, .regionMapWrite 0 256 0, .hashKeyWrite 0 4 0,
   .dlLimWrite 0 0 8 0, .easelRegisterStore 0 0 0 0, .easelRegisterStore 0 8 0 0, .drvRingBaseSizeWrite false 0 0 3 0,
   .drvIrqStatWrite false 0 2 0]

theorem test_wf_refuses_numbers : illNumbers.all (fun c => !c.wf) = true := by decide +kernel
theorem test_wf_refuses_places : illPlaces.all (fun c => !c.wf) = true := by decide +kernel
theorem test_wf_refuses_messages : illMessages.all (fun c => !c.wf) = true := by decide +kernel
theorem test_wf_refuses_bounds : illBounds.all (fun c => !c.wf) = true := by decide +kernel

/-- The largest values that the checks accept. -/
def wellFormed : List Instr :=
  [.apRstAssert 255, .rds 15 { dir := [(15, 1)], pal := [(131071, 1)], rgn := [(575, 1)] }, .htcFreed 15 1023 {}, .mpReqCrd 7,
   .ebar 7 15 { prx := [(31, .ue)] },
       .epochCaptured 40, .rootFlip 15 0, .downwardCredit 255 { cls := 5, chk := { dat := .ue } }, .creditReturned (.rootUp 7) 23, .packetHop (.branchToLeaf 31) {},
   .byteWindowEnd (.mem 7), .mdata 7 (memAns 4 3 true 1 true) {}, .upwardPacketCheck 255 { chan := 7, flits := List.replicate 5 {} },
       .cpRegisterRead { addr := 8191 }, .ezReserved 0,
   .routeEntryWrite 0 40 1 255 0, .easelRegisterStore 0 7 0 0, .ezAdd fX, .blockRstAssert]

theorem test_wf_accepts : wellFormed.all Instr.wf = true := by decide +kernel

/-- Premises of the clauses of RouterStores and ControlRegisterStores on what the build lacks. -/
theorem wit_absent : atWork.live ∧ atWork.build.hasRouter 5 = false ∧ atWork.build.slots = 8 ∧ atWork.build.panels = 4 := by
  unfold State.live; decide +kernel
/-- A command that names a unit the build lacks has no effect (R357). -/
theorem test_absent (c : Instr) (h : c ∈ [.apRstAssert 9, .rtClr 0 5 1, .psPrioWrite 0 9 1, .dlLimWrite 0 9 0 5, .mpReqCrd 5]) :
    (match exec c atWork with | .next t => decide (t = atWork) | _ => false) = true := by
  fin_cases h <;> decide +kernel

/-- No row of the opcode table has bits. -/
theorem test_decodeTableWord : decodeTableWord 32 0x10000000 = none := rfl

/-! ### Palette slots, victims, the proxy buffer -/

/-- The payload of codeword `cw` of a slot. -/
def slotData (v : PSlot) (cw : Nat) : Nat := if cw = 4 then v.word4.toNat else (v.vec.extractLsb' (64 * cw) 64).toNat

/-- Slot `k` of panel `p` reads as `v`, by its words. -/
def readsSlot (s : State) (p k : Nat) (v : PSlot) : Bool :=
  (List.range 5).all (fun cw => s.palOf p k cw == some (slotData v cw)) && decide (PSlot.ofWords (slotData v) = v)

theorem slotReads_of {s : State} {p k : Nat} {v : PSlot} (h : readsSlot s p k v = true) : s.slotReads p k v := by
  simp only [readsSlot, Bool.and_eq_true, List.all_eq_true, List.mem_range, beq_iff_eq, decide_eq_true_eq] at h
  exact ⟨slotData v, h.1, h.2⟩

/-- The four slots of a vector's set read as `vs`, by their words. -/
def readsSet (s : State) (p : Nat) (v : Vec) (rel : Option (Nat × PSlot)) (vs : Nat → PSlot) : Bool :=
  (List.range 4).all fun j => decide ((vs j).uncnt = false ∧ (vs j).ref + 1 < 2 ^ 20) &&
    match rel with
    | some e => if e.1 = 4 * s.palSetOf v + j then decide (vs j = e.2) else readsSlot s p (4 * s.palSetOf v + j) (vs j)
    | none => readsSlot s p (4 * s.palSetOf v + j) (vs j)

theorem palSetReads_of {s : State} {p : Nat} {v : Vec} {rel : Option (Nat × PSlot)} {vs : Nat → PSlot}
    (h : readsSet s p v rel vs = true) : s.palSetReads p v rel vs := by
  intro j hj
  have h := List.all_eq_true.mp h j (List.mem_range.mpr hj)
  rw [Bool.and_eq_true, decide_eq_true_eq] at h
  refine ⟨h.1.1, h.1.2, fun e he hk => ?_, fun hn => slotReads_of ?_⟩
  · subst he; simpa [hk] using h.2
  · cases rel with
    | none => exact h.2
    | some e => simpa [hn e rfl] using h.2

/-- Agents 6 and 9, and those with agent 5. -/
def two : Vec := vbit 6 ||| vbit 9
def three : Vec := vbit 5 ||| two

/-- A trusted slot of these holders, named by `n` entries; agents 6 and 9 are of different partitions. -/
def held (v : Vec) (n : Nat) : PSlot := { vec := v, ref := n, mixed := true, valid := true }

/-- Another slot in use. -/
def used (j : Nat) : PSlot := held (vbit (100 + j) ||| vbit 7) 3

/-- The first slot of a vector's set. -/
def setBase (v : Vec) : Nat := 4 * atWork.palSetOf v

/-- The words of Palette slots as given. -/
def palWords (l : List (Nat × PSlot)) : SMap (BitVec 80) :=
  l.foldl (fun m e => (slotWords e.1 e.2).foldl (fun m e => smSet m e.1 e.2) m) []

/-- The words of the four slots of a vector's set. -/
def setOf (v : Vec) (f : Nat → PSlot) : List (Nat × PSlot) := (List.range 4).map fun j => (setBase v + j, f j)

/-- A request at D2, way 2 of its set as given, and the Palette. -/
def palState (opc : Nat) (e : Ent) (pal : List (Nat × PSlot)) : State :=
  { atWork with panels := [(0, { panelWith 7 [{}, {}, e] [(4, fresh opc)] with pal := palWords pal })] }

/-- An entry in STATE `st`, owner or holder 6. -/
def of6 (st pal : Nat) : Ent := if st = 5 then { st := 5, pal := pal } else { st := st, agent := 6, pal := pal }

theorem holds_pal {s : State} {p : Nat} {e : Ent} {x : PSlot} (he : e.st = 5 ∨ e.st = 7) (h : readsSlot s p e.pal x = true)
    (hx : x.lost = false ∧ x.uncnt = false ∧ x.valid = true ∧ 1 ≤ x.ref ∧ 2 ≤ popc x.vec ∧ (e.st = 7 → x.vec.getLsbD e.agent = true)) :
    s.holds p e x.vec :=
  ⟨fun h => by rcases he with he | he <;> simp [he] at h, fun h => by rcases he with he | he <;> simp [he] at h,
    fun _ => ⟨x, slotReads_of h, hx.1, hx.2.1, hx.2.2.1, hx.2.2.2.1, rfl, hx.2.2.2.2.1, hx.2.2.2.2.2⟩⟩
theorem holds_one {s : State} {p : Nat} {e : Ent} (he : e.st ∈ [1, 2, 3, 4, 6]) : s.holds p e (vbit e.agent) := by
  refine ⟨fun _ => rfl, fun h => ?_, fun h => ?_⟩
  · simp [h] at he
  · rcases h with h | h <;> simp [h] at he

/-- Premises of RequestsAcceptedAndDecided, a line in S-pal or O-pal: every request but RdS. -/
theorem wit_pal (e : Nat × Nat) (ho : e ∈ ([(oRdU, 5), (oUpg, 5), (oRdO, 5), (oWrU, 5), (oAtP, 5), (oRdU, 7), (oUpg, 7), (oRdO, 7),
      (oWrU, 7), (oAtP, 7)] : List (Nat × Nat))) :
    let s := palState e.1 (of6 e.2 0) [(0, held two 2)]
    s.takes 0 ∧ s.decides 0 4 (fresh e.1) (msg cREQ e.1) region0 (way2 (of6 e.2 0)) ∧
    s.tracked (msg cREQ e.1) (way2 (of6 e.2 0)) 2 ∧ (smFree (s.panel 0).proxy 0 32).isSome = true ∧
    readsSlot s 0 (of6 e.2 0).pal (held two 2) = true ∧ 2 ≤ popc two ∧ two.getLsbD 6 = true := by
  unfold State.takes State.acts State.decides State.atD2 Panel.calm State.setReads State.tracked
  fin_cases ho <;> decide +kernel

/-- The owner alone holds the line beside the requester, which it answers at once. -/
theorem wit_pal_now :
    let v := vbit 5 ||| vbit 6
    let s := palState oRdU (of6 7 0) [(0, held v 2)]
    s.takes 0 ∧ s.decides 0 4 (fresh oRdU) (msg cREQ oRdU) region0 (way2 (of6 7 0)) ∧
    s.tracked (msg cREQ oRdU) (way2 (of6 7 0)) 2 ∧ readsSlot s 0 (of6 7 0).pal (held v 2) = true ∧
    (palRow oRdU 7 6 5 v).1 = some (oSnpU, 0) ∧ (palRow oRdU 7 6 5 v).2.1 = 0 := by
  unfold State.takes State.acts State.decides State.atD2 Panel.calm State.setReads State.tracked; decide +kernel

/-- A RdS that finds its line in STATE `st`, the slots of its new vector as given; a line with a Palette slot has the second of them. -/
def rdsState (st : Nat) (f : Nat → PSlot) : State :=
  if st = 5 ∨ st = 7 then palState oRdS (of6 st (setBase three + 1)) (setOf three f) else palState oRdS (of6 st 0) (setOf (vbit 5 ||| vbit 6) f)

/-- Free slots from the third on, or none. -/
def slots (free : Bool) (j : Nat) : PSlot := if j = 1 then held two 2 else if 2 ≤ j ∧ free = true then {} else used j

/-- A slot that holds the new vector already. -/
def slotsHeld (v : Vec) (j : Nat) : PSlot := if j = 3 then held v 4 else slots false j

/-- Its slots once the old slot has lost a reference. -/
def released (st : Nat) (f : Nat → PSlot) (j : Nat) : PSlot := if (st = 5 ∨ st = 7) ∧ j = 1 then (f 1).released else f j

/-- The released reference. -/
def oldOf (st : Nat) : Option (Nat × PSlot) := if st = 5 ∨ st = 7 then some (setBase three + 1, (held two 2).released) else none

/-- The vector with agent 5. -/
def newOf (st : Nat) : Vec := if st = 5 ∨ st = 7 then three else vbit 6 ||| vbit 5

/-- The three cases of its slots. -/
def slotsIn (c st : Nat) : Nat → PSlot := if c = 0 then slots true else if c = 1 then slotsHeld (newOf st) else slots false

/-- The entry of the line. -/
def rdsEnt (st : Nat) : Ent := of6 st (if st = 5 ∨ st = 7 then setBase three + 1 else 0)

/-- Premises of RequestsAcceptedAndDecided for RdS: every STATE, with a slot free, with one that holds the vector, and with none. -/
theorem wit_rds (e : Nat × Nat) (ho : e ∈ ([(1, 0), (2, 1), (3, 2), (4, 0), (5, 0), (5, 1), (5, 2), (6, 2), (7, 0), (7, 2)] : List (Nat × Nat))) :
    let s := rdsState e.1 (slotsIn e.2 e.1)
    s.takes 0 ∧ s.decides 0 4 (fresh oRdS) (msg cREQ oRdS) region0 (way2 (rdsEnt e.1)) ∧
    s.tracked (msg cREQ oRdS) (way2 (rdsEnt e.1)) 2 ∧ s.own 6 = true := by
  unfold State.takes State.acts State.decides State.atD2 Panel.calm State.setReads State.tracked
  fin_cases ho <;> decide +kernel
theorem wit_rds_slots : ∀ e ∈ ([(4, 0), (5, 1), (5, 2)] : List (Nat × Nat)),
    readsSet (rdsState e.1 (slotsIn e.2 e.1)) 0 (newOf e.1) (oldOf e.1) (released e.1 (slotsIn e.2 e.1)) = true ∧
    (e.1 = 5 → readsSlot (rdsState e.1 (slotsIn e.2 e.1)) 0 (rdsEnt e.1).pal (held two 2) = true) ∧
    ((∀ j, j < 4 → ¬ Fits (newOf e.1) (released e.1 (slotsIn e.2 e.1) j) ∧ (released e.1 (slotsIn e.2 e.1) j).valid = true) ↔ e.2 = 2) := by
  unfold Fits; decide +kernel
theorem wit_parts (a : Nat) : (atWork.portOf a).part < 64 := by
  have h (n : Nat) : (atWork.port n).part < 64 := by
    simp only [State.port, smGet, smFind, atWork]
    repeat' split
    all_goals decide
  unfold State.portOf
  cases atWork.slotOfAgent a with
  | none => decide
  | some n => exact h n

/-- A full set: way 9 as given, under TAG 3, the others lines at the home. -/
def fullSet (e : Ent) (w : Nat) : Ent := if w = 9 then { e with tag := 3 } else { tag := 10 + w, st := 8, agent := 20 }

/-- The line of way 9. -/
def victimLine : Nat := atWork.unhash 0 7 3

/-- A request at D2 whose set is full; a line at the home has proxy slot 3. -/
def victState (opc : Nat) (e : Ent) : State :=
  { atWork with panels := [(0, { panelWith 7 ((List.range 16).map (fullSet e)) [(4, fresh opc)] with
    pal := palWords [(0, held two 2)], proxy := [(3, { line := victimLine, data := 55, who := [(9, 1)] })] })] }

/-- The victim in STATE `st`. -/
def victEnt (st : Nat) : Ent := if st = 8 then { st := 8, agent := 3, age := 1 } else of6 st 0

/-- Premises of RequestsAcceptedAndDecided for a victim in every STATE. -/
theorem wit_victim (e : Nat × Nat) (ho : e ∈ ([(oRdS, 1), (oRdU, 2), (oUpg, 3), (oAtP, 4), (oRdS, 5), (oRdU, 6), (oUpg, 7), (oAtP, 8)] : List (Nat × Nat))) :
    let s := victState e.1 (victEnt e.2)
    let es := fullSet (victEnt e.2)
    s.takes 0 ∧ s.decides 0 4 (fresh e.1) (msg cREQ e.1) region0 es ∧ (smFree (s.panel 0).proxy 0 32).isSome = true ∧
    (∀ v, v < 16 → (es v).st ≠ 0 ∧ (es v).tag ≠ (s.hash 28).tag) ∧ (s.px 0 {}).wayHeld 4 (s.hash 28).set 9 = false ∧
    (s.px 0 {}).lineBusy victimLine = false ∧
    smFind (s.panel 0).proxy 3 = some { line := victimLine, data := 55, who := [(9, 1)] } ∧
    ((s.px 0 {}).regOf victimLine).isSome = true ∧ readsSlot s 0 0 (held two 2) = true := by
  unfold State.takes State.acts State.decides State.atD2 Panel.calm State.setReads
  fin_cases ho <;> decide +kernel
theorem wit_victim_first : ∀ st ∈ [1, 2, 3, 4, 5, 6, 7, 8], ∀ v, v < 16 → v ≠ 9 → Sooner (fullSet (victEnt st) 9) (fullSet (victEnt st) v) 9 v := by
  simp only [Sooner]; decide +kernel

theorem test_victim : (fun t : State => ((t.panel 0).outq.map fun k => (k.hdr.opc, k.hdr.dst), ((t.panel 0).proxy.map (·.1)),
      (smGet [] (t.panel 0).memOut 1).map fun q => (q.mopc, decide (q.line = victimLine))))
    (after (.htcStartQueued 0 4 {}) (victState oRdS (victEnt 8))) = ([], [], [(1, false), (2, true)]) := by decide +kernel
/-- R118: a sharer more takes a slot of its set; with none free the line is narrowed. -/
theorem test_rds_slot : (htcOf (after (.htcStartQueued 0 4 {}) (rdsState 4 (slots true))) 4).map (·.plan.slot) =
    some (some (4 * atWork.palSetOf (vbit 5 ||| vbit 6) + 2)) := by decide +kernel
theorem test_rds_narrow : ((after (.htcStartQueued 0 4 {}) (rdsState 7 (slots false))).panel 0).outq.map (fun k => (k.hdr.opc, k.hdr.dst)) =
    [(oSnpU, 6), (oSnpInv, 9)] := by decide +kernel

/-- EvC of agent 5, which shares its line with the others of its slot; the set of those as given. -/
def sharerState (st : Nat) (x : PSlot) (pal : List (Nat × PSlot)) : State :=
  let s := withMsg (panelWith 7 [{}, {}, {}, of6 st (setBase three)] []) cWBK (msg cWBK oEvC)
  s.modPanel 0 fun n => { n with pal := palWords ((setBase three, x) :: pal) }

/-- Premises of EvictionsOfASoleHolder for a sharer: its slot, and the slots of the vector without it. -/
theorem wit_sharer (e : Nat × PSlot × Bool) (ho : e ∈ ([(5, held (vbit 5 ||| vbit 6) 2, true), (7, held (vbit 5 ||| vbit 6) 2, true),
      (5, held three 1, true), (7, held three 1, true), (5, held three 2, true), (7, held three 2, false)] : List (Nat × PSlot × Bool))) :
    let f := fun j => if j = 1 ∨ e.2.2 = false then used j else {}
    let s := sharerState e.1 e.2.1 (setOf two f)
    let es := fun w => if w = 3 then of6 e.1 (setBase three) else {}
    s.takes 0 ∧ (s.panel 0).quiet ∧ s.evicts 0 (msg cWBK oEvC) region0 es ∧ (s.px 0 {}).freeHtc 1 = some 896 ∧
    (es 3).tag = (s.hash 28).tag ∧ readsSlot s 0 (setBase three) e.2.1 = true ∧ e.2.1.vec &&& (s.panel 0).dead = 0 ∧
    (e.2.1.vec = three → readsSet s 0 two (some (setBase three, e.2.1.released)) f = true) := by
  unfold State.takes State.acts Panel.quiet Panel.calm State.evicts State.setReads
  fin_cases ho <;> decide +kernel
theorem test_evc_one : (htcOf (after (.evc 0 {}) (sharerState 7 (held (vbit 5 ||| vbit 6) 2) [])) 896).map (fun h => (h.fin.st, h.fin.agent)) =
    some (6, 6) := by decide +kernel
theorem test_evc_narrow : ((after (.evc 0 {}) (sharerState 5 (held three 2) (setOf two used))).panel 0).outq.map (fun k => (k.hdr.opc, k.hdr.dst)) =
    [(oEvAck, 5), (oSnpInv, 9)] := by decide +kernel

/-- A line at the home in proxy slot 3. -/
def homeLine : Proxy := { line := 28, data := 0x1122334455667788, who := [(9, 1)] }

/-- A request with these operands at D2, its line in H. -/
def hState (opc size htc : Nat) (data : BitVec 512) : State :=
  let k := msg cREQ opc
  let k := { k with hdr := { k.hdr with size := size, htc := htc }, data := data }
  (atD2State opc { st := 8, agent := 3 }).modPanel 0 fun n => { n with proxy := [(3, homeLine)], htcs := [(4, { fresh opc with pkt := k })] }

/-- Its packet. -/
def hMsg (opc size htc : Nat) : Packet :=
  let k := msg cREQ opc
  { k with hdr := { k.hdr with size := size, htc := htc }, data := 0xAABB0000 }

/-- Premises of DirtyDataAtTheHome for a line in H. -/
theorem wit_h (e : Nat × Nat × Nat) (ho : e ∈ ([(oRdS, 6, 0), (oRdU, 6, 0), (oUpg, 6, 0), (oRdO, 1, 2), (oRdO, 6, 0), (oWrU, 1, 2), (oAtP, 1, 1026),
      (oAtP, 3, 9216)] : List (Nat × Nat × Nat))) :
    let s := hState e.1 e.2.1 e.2.2 0xAABB0000
    let k := hMsg e.1 e.2.1 e.2.2
    s.takes 0 ∧ s.decides 0 4 { fresh e.1 with pkt := k } k region0 (way2 { st := 8, agent := 3 }) ∧
    s.tracked k (way2 { st := 8, agent := 3 }) 2 ∧ smFind (s.panel 0).proxy 3 = some homeLine := by
  unfold State.takes State.acts State.decides State.atD2 Panel.calm State.setReads State.tracked
  fin_cases ho <;> decide +kernel
/-- R101: an AtP of op 1 (compare and swap) and one of op 2 (add) on bytes 2 and 3, 1122334455667788 before. -/
theorem test_atp_h : ([(1026, 0x00015566#512), (1026, 0x5566#512 + (0x99#512 <<< 64)), (2050, 0x0001#512)].map fun e =>
      let t := after (.htcStartQueued 0 4 {}) (hState oAtP 1 e.1 e.2)
      ((t.panel 0).proxy.map fun x => x.2.data, (t.panel 0).outq.map fun k => k.data)) =
    [([0x1122334455667788], [0x5566]), ([0x1122334455667788], [0x5566]), ([0x1122334455677788], [0x5566])] := by decide +kernel
theorem test_rdu_h : (fun t : State => ((t.panel 0).outq.map fun k => (k.hdr.opc, k.hdr.size), (smGet [] (t.panel 0).memOut 1).map (·.mopc)))
    (after (.htcStartQueued 0 4 {}) (hState oRdU 6 0 0)) = ([(oCompU, 1), (oDataHome, 6)], [2]) := by decide +kernel
theorem test_wru_h : ((after (.htcStartQueued 0 4 {}) (hState oWrU 1 2 0xAABB0000)).panel 0).proxy.map (·.2.data) = [0x11223344AABB7788] := by
  decide +kernel

/-- The HTC of a request served from H, at its GRANT. -/
def grantH : Htc := (htcOf (after (.htcStartQueued 0 4 {}) (hState oRdU 6 0 0)) 4).getD queued

/-- Premises of DirtyDataAtTheHome for the CompAck that frees a proxy slot. -/
theorem wit_h_cack (m : Nat) (hm : m = 2 ∨ m = 3) :
    let s := (withMsg (panelWith 7 [] [(4, grantH)]) cRSP (cackMsg m)).modPanel 0 fun n => { n with proxy := [(3, homeLine)] }
    s.takes 0 ∧ (s.panel 0).calm ∧ (s.q (.panelIn 0) cRSP).head? = some (cackMsg m) ∧ (cackMsg m).hdr.htc = 0 * 1024 + 4 ∧
    (cackMsg m).hdr.opc = oCompAck ∧ (cackMsg m).hdr.marks = m ∧ smFind (s.panel 0).htcs 4 = some grantH ∧
    smFind (s.panel 0).proxy 3 = some homeLine := by
  unfold State.takes State.acts Panel.calm; rcases hm with rfl | rfl <;> decide +kernel
theorem wit_h_cack_htc : grantH.job = .req ∧ grantH.phase = .grant ∧ grantH.tabled = true ∧ grantH.pkt.hdr.opc = oRdU ∧
    grantH.pkt.hdr.src = 5 ∧ grantH.cack = none ∧ grantH.deadRq = false ∧ grantH.ow = none ∧ grantH.owAck = true ∧ grantH.owNeed = false ∧
    grantH.owEvict = false ∧ grantH.ent.st = 8 ∧ grantH.oldPal = none ∧ grantH.hint = false ∧ grantH.pslot = some 3 ∧
    grantH.plan = { comp := oCompU, dsrc := 1, fromH := true } := by decide +kernel
theorem test_h_cack : (fun t : State => ((t.panel 0).proxy.length, (htcOf t 4).map fun h => (h.phase, h.fin.st, h.fin.agent)))
    (after (.compack 0 {}) ((withMsg (panelWith 7 [] [(4, grantH)]) cRSP (cackMsg 3)).modPanel 0 fun n => { n with proxy := [(3, homeLine)] })) =
    (0, some (.close, 3, 5)) := by decide +kernel

/-- An AtP whose line is untracked waits for memory. -/
def atpState : State := after (.htcStartQueued 0 4 {}) ((hState oAtP 1 1026 0x00015566).modPanel 0 fun n => { n with dir := setWords 7 [], proxy := [] })

/-- Its HTC, and the memory port with its MRd. -/
def atpHtc : Htc := (htcOf atpState 4).getD queued
def atpAnswered : State := { atpState with mps := [(1, { mp1 with tags := [(3, rdReq (.htc 0 3))] })] }

/-- Premises of MemoryAnswersAPanel for an AtP. -/
theorem wit_atp_mdata : let s := atpAnswered; let r := memAns 4 0 false 0x1122334455667788 false
    s.awaits 1 r (rdReq (.htc 0 3)) ∧ r.dat = .ok ∧ s.acts 0 ∧ (s.panel 0).calm ∧
    ((s.panel 0).htcs.find? fun (e : Nat × Htc) => decide (e.2.seq = 3) && e.2.rd) = some (4, atpHtc) ∧
    (smFind (s.panel 0).proxy 0).map (·.line) = some 28 ∧ r.poison = false ∧ r.dataPerr = false ∧ r.err = 0 ∧ (s.panel 0).llt = [] := by
  unfold State.awaits State.mpActs State.acts Panel.calm; decide +kernel
theorem wit_atp_htc : let h := atpHtc
    h.job = .req ∧ h.phase = .collect ∧ h.tabled = true ∧ h.pkt.hdr.opc = oAtP ∧ h.pkt.hdr.size = 1 ∧ h.pkt.hdr.htc = 1026 ∧
    h.plan = { toH := true, wasDirty := false } ∧ h.expect ≤ h.sum ∧ h.ow = none ∧ h.owAck = true ∧ h.owNeed = false ∧ h.owEvict = false ∧
    h.owLost = false ∧ h.buf = none ∧ h.md = none ∧ h.sentData = false ∧ h.cack = none ∧ h.deadRq = false ∧ h.ent.st ≠ 8 ∧
    h.oldPal = none ∧ h.pslot = some 0 := by decide +kernel
theorem test_atp_mdata : (fun t : State => ((t.panel 0).outq.map fun k => (k.hdr.opc, k.data), (t.panel 0).proxy.map (·.2.data),
      (htcOf t 4).map fun h => (h.phase, h.fin.st, h.fin.agent)))
    (after (.mdata 1 (memAns 4 0 false 0x1122334455667788 false) {}) atpAnswered) =
    ([(oDataHome, 0x5566#512)], [0x1122334455667788], some (.close, 8, 0)) := by decide +kernel

/-- Ring `n` waits for the memory answer of its descriptor, or of the STATUS that ends its program. -/
def ringWaits (n : Nat) (w : MemUse) (q : MemReq) : State :=
  { ezAnswer q with
    host := { rings := [(n, { size := 4, tail := 3 })] }
    ez := { ctx := [(n, { running := true, wait := .mem w, lastOk := false, g := [(5, 9)] })] } }

/-- A descriptor with PC 0x100, G0 to G2, a WIN0 with or without NS, and its flags. -/
def descAns (ns : Bool) (flags : Nat) : MemResp :=
  memAns 4 0 false (0x100 + (1 <<< 64) + (2 <<< 128) + (3 <<< 192) + ((if ns then 0x0800000000000001 else 1) <<< 256) + (flags <<< 320)) false

/-- Premises of MemoryAnswersEaselAndEphemeris for a descriptor, loaded or skipped, and for a STATUS. -/
theorem wit_desc (n : Nat) (hn : n = 2 ∨ n = 9) (fl : Nat) (hf : fl ∈ [0, 2, 4]) : let s := ringWaits n .desc (rdReq (.easel n)); let r := descAns false fl
    s.awaits 1 r (rdReq (.easel n)) ∧ r.dat = .ok ∧ r.mopc = 4 ∧ (rdReq (.easel n)).mopc = 1 ∧ (rdReq (.easel n)).own = .easel n ∧
    (s.ctx n).wait = .mem .desc ∧ r.poison = false ∧ r.dataPerr = false ∧ r.err ≠ 1 ∧
    (r.data.extractLsb' (8 * 0x28) 64).getLsbD 2 = decide (fl = 4) ∧ (s.ctx n).lastOk = false ∧
    s.mgmtDecode true (s.descAddr n + 0x30) = some (0, false) ∧ s.descAddr n % 64 = 0 := by
  unfold State.awaits State.mpActs
  rcases hn with rfl | rfl <;> fin_cases hf <;> decide +kernel
theorem wit_status (n : Nat) (hn : n = 2 ∨ n = 9) (err : Nat) (he : err = 0 ∨ err = 1) :
    let q := { rdReq (.easel n) with mopc := 2 }; let s := ringWaits n (.status true) q; let r := memAns 5 err false 0 false
    s.awaits 1 r q ∧ r.dat = .ok ∧ r.mopc = 5 ∧ q.mopc ≠ 1 ∧ q.own = .easel n ∧ (s.ctx n).wait = .mem (.status true) := by
  unfold State.awaits State.mpActs
  rcases hn with rfl | rfl <;> rcases he with rfl | rfl <;> decide +kernel
/-- R348, R379: PC, G0 to G2 and W0; NS of WIN0 on a non-secure ring. -/
theorem test_desc : [2, 9].map (fun n => let t := after (.easelMemoryResponse 1 (descAns false 2)) (ringWaits n .desc (rdReq (.easel n)))
      ((t.ctx n).pc, [0, 1, 2, 3, 5].map (t.ctx n).gr, (smGet 0 (t.ctx n).w 0).toNat, (t.ctx n).viol)) =
    [(0x100, [1, 2, 3, 0, 0], 1, false), (0x100, [1, 2, 3, 0, 0], 0x0800000000000001, true)] := by decide +kernel
/-- R378: AFTER_OK behind a fault. -/
theorem test_desc_skip : let t := after (.easelMemoryResponse 1 (descAns false 4)) (ringWaits 2 .desc (rdReq (.easel 2)))
    ((t.ctx 2).wait, (smGet [] t.ez.memOut 0).map (·.off)) = (.mem (.status false), [0x30]) := by decide +kernel
/-- R380, R381. -/
theorem test_status : [0, 1].map (fun e => let t := after (.mwrcmp 1 (memAns 5 e false 0 false)) (ringWaits 9 (.status true) { rdReq (.easel 9) with mopc := 2 })
      ((t.ring 9).head, (t.ring 9).err, t.host.irqStatNs.getLsbD 1)) = [(1, false, true), (1, true, true)] := by decide +kernel

/-! ### The tree downward -/

/-- `State.only` in the small build. -/
def headAlone (s : State) (o : HopOut) (w : Cand) : Bool :=
  decide (s.build = smallBuild ∧ s.clk.inReset = false ∧ s.clk.cellsOpen = true ∧ s.routerFrozen (routerOut s.build o) = false ∧ s.cands o = [w])

theorem only_of {s : State} {o : HopOut} {w : Cand} (h : headAlone s o w = true) : s.only o w := by
  simp only [headAlone, decide_eq_true_eq] at h
  exact ⟨⟨h.2.1, h.2.2.1⟩, h.1 ▸ smallBuild_ok, h.2.2.2⟩

/-- A SnpInv to agents 5, 6 and 9. -/
def snpMulti : Packet :=
  { hdr := { cls := cSNP, opc := oSnpInv, prio := 2, src := 0x100, dst := nMulti, htc := 4, addr := 28 }, vec := three }

/-- It stands at branch 0 with these parts; leaf 0 has agents 5 and 6, and the branch `n` combining entries. -/
def splitState (la : List (HopOut × Vec)) (n : Nat) : State :=
  { treeIn [(.branchDown 0, cSNP, [{ snpMulti with la := la, whole := true }])] with
    routers := [(0, { routes := [(5, 0x80), (6, 0x81)] }), (32, { comb := List.replicate n (entry 5 0 false) })] }

/-- The part of leaf 0 alone, and with the part of another leaf, which names agent 9. -/
def oneLeaf : List (HopOut × Vec) := [(.branchToLeaf 0, vbit 5 ||| vbit 6)]
def twoLeaves : List (HopOut × Vec) := oneLeaf ++ [(.branchToLeaf 3, vbit 9)]

/-- Premises of AcknowledgementsCombine for the split at a branch: a part or two, an agent of no leaf, a table with room or none. -/
theorem wit_split (e : List (HopOut × Vec) × Nat) (ho : e ∈ ([(oneLeaf, 0), (twoLeaves, 0), (oneLeaf, 255), (twoLeaves, 256)] : List (List (HopOut × Vec) × Nat))) :
    let s := splitState e.1 e.2
    let k := { snpMulti with la := e.1, whole := true }
    headAlone s (.branchToLeaf 0) { l := .branchDown 0, key := cSNP, k := k } = true ∧ s.q (.branchDown 0) cSNP = [k] ∧ ownOpc k.hdr.opc = false ∧
    2 ≤ popc k.vec ∧ (HopOut.branchToLeaf 0, vbit 5 ||| vbit 6) ∈ e.1 ∧ (e.1.map (·.1)).Nodup ∧ (s.child 0 k.hdr.epoch 5).isSome = true ∧
    ((s.router 32).comb.length = e.2) ∧ 0 < s.build.leafN ∧ s.build.branchOf 0 = 0 := by
  fin_cases ho <;> decide +kernel
theorem wit_split_no : three &&& ~~~(oneLeaf.foldl (fun z e => z ||| e.2) 0) = vbit 9 ∧ three &&& ~~~(twoLeaves.foldl (fun z e => z ||| e.2) 0) = 0 := by
  decide +kernel
theorem test_split : let t := after (.packetHop (.branchToLeaf 0) {}) (splitState oneLeaf 0)
    (members (((t.q (.leafDown 0) cSNP).map (·.vec)).headD 0), (t.router 32).comb.map (·.expect), (t.q (.synth 32) cRSP).map fun k => (k.hdr.src, k.hdr.tag)) =
      ([5, 6], [3], [(9, 1)]) := by decide +kernel
theorem test_split_full : let t := after (.packetHop (.branchToLeaf 0) {}) (splitState twoLeaves 256)
    ((t.router 32).combMiss, members (((t.q (.branchDown 0) cSNP).map (·.vec)).headD 0)) = (1, [9]) := by decide +kernel

/-- A packet at leaf 0 for the agent of port 0. -/
def leafState (x : Port) (k : Packet) : State :=
  { treeIn [(.leafDown 0, k.hdr.cls, [k])] with ports := [(0, x)], routers := [(0, { routes := [(5, 0x80)] })] }

/-- Its part of a multicast. -/
def leafPart : Packet := { snpMulti with la := [(.leafToPort 0, vbit 5)], vec := vbit 5 }

theorem wit_leafCopy : let s := leafState port5 leafPart
    headAlone s (.leafToPort 0) { l := .leafDown 0, key := cSNP, k := leafPart } = true ∧ s.q (.leafDown 0) cSNP = [leafPart] ∧
    (s.port 0).lstate = .admitted ∧ (∀ c, c < 6 → s.q (.portDown 0) c = []) ∧ (s.port 0).dnCrd.length = 6 ∧ 0 < (s.port 0).dnCrd.getD cSNP 0 := by
  decide +kernel
theorem test_leafCopy : (after (.packetHop (.leafToPort 0) {}) (leafState port5 leafPart)).outs.length = 1 := by decide +kernel

/-- Packets for agent 5: a snoop that asks for data, an Easel's SnpTIv, a response. -/
def toFive : List Packet :=
  [{ snpMulti with hdr := { snpMulti.hdr with opc := oSnpU, dst := 5 }, vec := 0 }, leafPart, { hdr := { cls := cREQ, opc := oTIv, src := nEasel, dst := 5, tag := 77 } },
   { hdr := { cls := cRSP, opc := oCompE, dst := 5 } }]

/-- Premises of EclipseOfAPort for a fence: a port in ECLIPSED or DEAD. -/
theorem wit_leafFence (i : Nat) (hi : i < 4) (l : LState) (hl : l = .eclipsed ∨ l = .dead) :
    let k := toFive.getD i leafPart
    let s := leafState { port5 with lstate := l } k
    headAlone s (.leafToPort 0) { l := .leafDown 0, key := k.hdr.cls, k := k } = true ∧ s.lastPart (.leafToPort 0) k ∧ s.build.leafOf 0 = 0 := by
  unfold State.lastPart
  interval_cases i <;> rcases hl with rfl | rfl <;> decide +kernel
theorem test_leafFence : [LState.eclipsed, .dead].map (fun l => let t := after (.packetHop (.leafToPort 0) {}) (leafState { port5 with lstate := l } (toFive.getD 0 leafPart))
      (t.q (.synth 0) cRSP).map fun k => (k.hdr.src, k.hdr.marks, k.hdr.size)) = [[(5, 0, 1)], [(5, 1, 0)]] := by decide +kernel
theorem test_leafFence_rsp : ((after (.packetHop (.leafToPort 0) {}) (leafState { port5 with lstate := .eclipsed } (toFive.getD 3 leafPart))).port 0).protoErr = 1 := by
  decide +kernel

/-- A packet at panel 0's link for fenced branch 0. -/
def rootState (k : Packet) : State :=
  let s := treeIn [(.rootPanel 0, k.hdr.cls, [k])]
  { s with net := { s.net with brs := [(0, { bstate := 2 })] }, routers := [(40, { routes := [(5, 0x80), (6, 0x80)] })] }

/-- Multicast and single snoops and a response for that branch. -/
def toBranch : List Packet :=
  [{ snpMulti with la := [(.rootToBranch 0, vbit 5 ||| vbit 6)], vec := vbit 5 ||| vbit 6 }, { snpMulti with hdr := { snpMulti.hdr with dst := 6 }, vec := 0 },
   { hdr := { cls := cRSP, opc := oCompE, dst := 5 } }]

/-- Premises of BranchEclipseAndLiveness for a fence. -/
theorem wit_rootFence (i : Nat) (hi : i < 3) :
    let k := toBranch.getD i leafPart
    let s := rootState k
    headAlone s (.rootToBranch 0) { l := .rootPanel 0, key := k.hdr.cls, k := k } = true ∧ s.lastPart (.rootToBranch 0) k ∧ (s.br 0).bstate = 2 := by
  unfold State.lastPart
  interval_cases i <;> decide +kernel
theorem test_rootFence : [0, 1].map (fun i => ((after (.packetHop (.rootToBranch 0) {}) (rootState (toBranch.getD i leafPart))).q (.synth 40) cRSP).map
      fun k => (k.hdr.src, k.hdr.tag, k.hdr.size)) = [[(5, 2, 1)], [(6, 1, 1)]] := by decide +kernel
theorem test_rootFence_rsp : ((after (.packetHop (.rootToBranch 0) {}) (rootState (toBranch.getD 2 leafPart))).router 40).unrouted = 1 := by decide +kernel

/-- A REQ of an agent for panel 2. -/
def reqTo2 (src prio : Nat) : Packet := { msg cREQ oRdS with hdr := { (msg cREQ oRdS).hdr with src := src, prio := prio }, home := 2 }

/-- Two branches with heads for panel 2, branch `last` served last; the current slot is agent 5's. -/
def toPanel (bounded : Bool) (last : Nat) : State :=
  { treeIn [(.rootUp 0, if bounded then 10 else cREQ, [reqTo2 6 2]), (.rootUp 0, cWBK, [{ msg cWBK oEvC with home := 2 }]),
      (.rootUp 1, if bounded then 10 else cREQ, [reqTo2 5 1])] with
    host := { prof := if bounded then 1 else 2 }, routers := [(40, { rr := [(330, last)] })],
    w6 := [(pnBase 2 + 0x400 + 8 * (80000 % 64), 0x105)] }

/-- Its heads. -/
def evcTo2 : Cand := { l := .rootUp 0, key := cWBK, k := { msg cWBK oEvC with home := 2 } }
def rdsTo2 (bounded : Bool) (b : Nat) : Cand := { l := .rootUp b, key := if bounded then 10 else cREQ, k := if b = 0 then reqTo2 6 2 else reqTo2 5 1 }

/-- Premises of LeafForwardsTheArbitrationWinner for a panel's link: every branch's turn, and the slot's owner. -/
theorem wit_toPanel (bounded : Bool) : let s := toPanel bounded 7
    s.live ∧ s.build = smallBuild ∧ s.linkFree 2 = true ∧ s.restDue 2 = none ∧ s.mgmtDue 2 = none ∧ s.bounded = bounded ∧
    s.cands (.rootToPanel 2) = (if bounded then [evcTo2, rdsTo2 true 0, rdsTo2 true 1] else [rdsTo2 false 0, evcTo2, rdsTo2 false 1]) ∧
    (∀ c ∈ s.cands (.rootToPanel 2), c.k.hdr.prio ≤ 3 ∧ tgtOf s.build c.k = .panel 2 ∧ isEbar c.k = false ∧ unserved c.k = false) ∧
    slotOwner (s.w6g (pnBase 2 + 0x400 + 8 * (s.clk.cyc % 64))) = some 5 ∧ s.q (.rootUp 1) 10 = (if bounded then [reqTo2 5 1] else []) ∧
    ∀ d, d < 8 → d ≠ 1 → ∀ y ∈ s.q (.rootUp d) 10, y.hdr.src ≠ 5 := by
  unfold State.live; cases bounded <;> decide +kernel
theorem wit_toPanel_beats : Beats (.rootToPanel 2) evcTo2 (rdsTo2 false 0) := by unfold Beats; decide +kernel
theorem test_toPanel : [(false, 0), (false, 7), (true, 7)].map (fun e => let t := after (.packetHop (.rootToPanel 2) {}) (toPanel e.1 e.2)
      (((t.q (.panelIn 2) cREQ).map (·.hdr.src)), (t.q (.panelIn 2) cWBK).length, smGet 7 (t.router 40).rr 330)) =
    [([5], 0, 1), ([], 1, 0), ([], 0, 1)] := by decide +kernel

end Sys2Proof.Tests
end

section
/-! SUPPORT. The state that HCLK leaves reset in: the values that the spec gives it, and that it meets the invariants. -/

open Sys2Proof Sys2Proof.Machine

namespace Sys2Proof.Machine

/-- A PT_SIT word reads 256 until something writes it (R368). -/
theorem w6Reset_partition (q : Nat) (h : q < 64) : w6Reset (0xA0000 + 8 * q) = 0x100#64 := by
  have hb : isBkCtl (0xA0000 + 8 * q) = false := by
    unfold isBkCtl
    rw [if_neg (by omega), if_neg (by omega), if_neg (by omega), decide_eq_false_iff_not]
    simp only [List.mem_cons, List.not_mem_nil, or_false]
    omega
  rw [w6Reset, hb, if_neg (by decide), if_neg (by omega), if_pos (by omega)]

/-- LEAKSH of a panel's comet word and its LFSR read their reset values until something writes them (R500). -/
theorem w4Reset_panel (p : Nat) (h : p < 16) :
    w4Reset (0x100 * p + 8) = 0xA#64 ∧ w4Reset (0x100 * p + 0x10) = 1#64 := by
  unfold w4Reset
  constructor
  · rw [if_pos (by omega), if_pos (by omega)]
  · rw [if_pos (by omega), if_neg (by omega), if_pos (by omega)]

theorem reset_legal : State.reset.legal := by
  refine ⟨by decide, fun _ => ?_, fun _ => ?_, fun _ => ⟨?_, ?_, fun _ h => ?_⟩, fun h => absurd rfl h⟩
  · exact Nat.zero_le 12
  · exact Nat.zero_le 64
  · show 1 ≤ 2; decide
  · show 2 ≤ 3; decide
  · cases h

theorem reset_canonical : State.reset.canonical :=
  ⟨rfl, rfl, rfl, rfl, rfl, List.forall_mem_nil _, List.forall_mem_nil _, List.forall_mem_nil _⟩

end Sys2Proof.Machine

/-- Settles O3: nothing is listed in the tables of State.reset, so every register reads as its default. -/
theorem resetValues : Obligations.ResetValues := by
  unfold Obligations.ResetValues
  refine ⟨rfl, rfl, rfl, rfl, rfl, rfl, rfl, rfl, rfl, rfl, rfl, rfl, rfl, rfl, rfl, fun _ => ?_, fun _ => ?_, fun _ => ?_,
    fun _ _ => ?_, w6Reset_partition, by decide, by decide, by decide, w4Reset_panel, fun _ => ?_⟩
  · exact ⟨rfl, rfl, rfl, rfl, rfl, rfl, rfl, rfl⟩
  · exact ⟨rfl, rfl, rfl, fun _ => rfl⟩
  · exact ⟨rfl, rfl, rfl, rfl, rfl⟩
  · exact ⟨rfl, rfl, rfl, rfl⟩
  · exact ⟨rfl, rfl, rfl⟩

/-- Settles O4: the reset state is legal, and its tables are empty. -/
theorem invariantsAtReset : Obligations.InvariantsAtReset := ⟨reset_legal, reset_canonical⟩
end

section
/-! SUPPORT. What every command but a block reset keeps, as one relation between states: the invariants of the control state and of the
addressed tables, and what stays set until the next block reset. Each function from states to states has one lemma, of its name. -/

namespace Sys2Proof.Machine

/-! ### The relation -/

/-- PRIO of a port, and a value that waits for it, are 1, 2 or 3 (R202). -/
def Port.prioOk (x : Port) : Prop := 1 ≤ x.prio ∧ x.prio ≤ 3 ∧ ∀ v, x.prioPend = some v → 1 ≤ v ∧ v ≤ 3

/-- The parts of the state that `legal`, `canonical` and `StaysSet` speak of. -/
structure Kept where
  build : Build
  fatal : Bool
  fatalRows : BitVec 7
  prof : BitVec 2
  locks : BitVec 6
  bootEn : Bool
  bootPort : BitVec 3
  rings : SMap Ring
  ports : SMap Port
  mps : SMap MemPort
  loc : SMap (BitVec 72)
  sram : SMap (BitVec 80)
  rgn : SMap (BitVec 80)
  w4 : SMap (BitVec 64)
  w6 : SMap (BitVec 64)

def State.kept (s : State) : Kept :=
  { build := s.build, fatal := s.clk.fatal, fatalRows := s.clk.fatalRows, prof := s.host.prof, locks := s.host.locks,
    bootEn := s.host.bootEn, bootPort := s.host.bootPort, rings := s.host.rings, ports := s.ports, mps := s.mps, loc := s.ez.loc,
    sram := s.ep.sram, rgn := s.rgn, w4 := s.w4, w6 := s.w6 }

/-- From `s` to `t` the invariants are kept, and what stays set is still set. -/
structure Keeps (s t : State) : Prop where
  legal : s.legal → t.legal
  canonical : s.canonical → t.canonical
  sticky : StaysSet s t

variable {s t u : State}

theorem StaysSet.refl (s : State) : StaysSet s s := ⟨id, fun _ => id, fun _ => id, fun _ => rfl, fun h => ⟨h, rfl⟩⟩

theorem StaysSet.trans (h : StaysSet s t) (k : StaysSet t u) : StaysSet s u := by
  obtain ⟨hf, hr, hl, hp, hb⟩ := h
  obtain ⟨kf, kr, kl, kp, kb⟩ := k
  refine ⟨fun x => kf (hf x), fun i x => kr i (hr i x), fun i x => kl i (hl i x), fun x => ?_, fun x => ?_⟩
  · rw [kp (by rwa [hp x]), hp x]
  · obtain ⟨ht, hport⟩ := hb x
    exact ⟨(kb ht).1, (kb ht).2.trans hport⟩

theorem Keeps.refl (s : State) : Keeps s s := ⟨id, id, .refl s⟩

theorem Keeps.trans (h : Keeps s t) (k : Keeps t u) : Keeps s u :=
  ⟨k.legal ∘ h.legal, k.canonical ∘ h.canonical, h.sticky.trans k.sticky⟩

/-- A change of other parts keeps all. -/
theorem Keeps.same (h : Keeps s t) (e : u.kept = t.kept) : Keeps s u := by
  refine h.trans ?_
  injection e with hb hf hr hp hk he hbp hrings hports hmps hloc hsram hrgn h4 h6
  refine ⟨?_, ?_, ?_⟩
  · simp only [State.legal, State.ring, State.port, State.mp, hf, hr, hp, hrings, hports, hmps, imp_self]
  · simp only [State.canonical, hb, hloc, hsram, hrgn, h4, h6, imp_self]
  · simpa only [StaysSet, hf, hr, hp, hk, he, hbp] using StaysSet.refl t

/-- A record update of other parts keeps all. -/
theorem Keeps.update {pending nonce outs clk host ez routers net panels rs ep tr hwSet bkNote st4 evOld winLast} (h : Keeps s t)
    (e : State.kept (.mk pending t.build nonce outs clk host ez t.rgn t.ports routers net
      panels t.mps rs ep tr t.w4 t.w6 hwSet bkNote st4 evOld winLast) = t.kept) :
    Keeps s (.mk pending t.build nonce outs clk host ez t.rgn t.ports routers net
      panels t.mps rs ep tr t.w4 t.w6 hwSet bkNote st4 evOld winLast) := h.same e

theorem Keeps.ite {c : Prop} [Decidable c] (ht : Keeps s t) (hu : Keeps s u) : Keeps s (if c then t else u) := by
  split
  · exact ht
  · exact hu

theorem Keeps.foldl {α : Type} {f : State → α → State} {l : List α} (h : Keeps s t) (hf : ∀ {u x}, Keeps s u → Keeps s (f u x)) :
    Keeps s (l.foldl f t) := by
  induction l generalizing t with
  | nil => exact h
  | cons x l ih => exact ih (hf h)

theorem Keeps.of_fst {α : Type} {p : State × α} {a : α} (h : Keeps s p.1) (e : p = (u, a)) : Keeps s u := by
  subst e
  exact h

theorem Port.prioOk.acked {x : Port} {k : Packet} {cyc : Nat} (h : x.prioOk) : (x.acked k cyc).prioOk := by
  unfold Port.acked
  dsimp only
  split
  · exact h
  · split
    · exact h
    · exact h

theorem Port.prioOk.answered {x : Port} {k : Packet} (h : x.prioOk) : (x.answered k).prioOk := by
  unfold Port.answered
  dsimp only
  split
  · exact h
  · exact h

/-! ### The writes of what is kept -/

theorem Keeps.setPort (h : Keeps s t) {n : Nat} {x : Port} (hx : (t.port n).prioOk → x.prioOk) : Keeps s (t.setPort n x) := by
  refine h.trans ⟨fun ⟨hp, hr, hm, hport, hf⟩ => ⟨hp, hr, hm, fun k => ?_, hf⟩, id, .refl t⟩
  rw [State.port, State.setPort]
  by_cases hk : k = n
  · rw [hk, smGet_smSet_self]
    exact hx (hport n)
  · rw [smGet_smSet_ne _ _ _ hk]
    exact hport k

theorem Keeps.modPort (h : Keeps s t) {n : Nat} {f : Port → Port} (hf : (t.port n).prioOk → (f (t.port n)).prioOk) :
    Keeps s (t.modPort n f) := h.setPort hf

/-- One change of every port that is listed. -/
theorem Keeps.mapPorts (h : Keeps s t) {f : Port → Port} (hf : ∀ {x}, x.prioOk → (f x).prioOk) :
    Keeps s { t with ports := t.ports.map fun e => (e.1, f e.2) } := by
  refine h.trans ⟨fun ⟨hp, hr, hm, hport, hfat⟩ => ⟨hp, hr, hm, fun k => ?_, hfat⟩, id, .refl t⟩
  have hk : (t.port k).prioOk := hport k
  simp only [State.port, smGet, smFind_map] at hk ⊢
  cases hx : smFind t.ports k with
  | none =>
    rw [hx] at hk
    exact hk
  | some x =>
    rw [hx] at hk
    exact hf hk

theorem Keeps.modMp (h : Keeps s t) {m : Nat} {f : MemPort → MemPort} (hf : (t.mp m).credits ≤ 64 → (f (t.mp m)).credits ≤ 64) :
    Keeps s (t.modMp m f) := by
  refine h.trans ⟨fun ⟨hp, hr, hm, hport, hfat⟩ => ⟨hp, hr, fun k => ?_, hport, hfat⟩, id, .refl t⟩
  rw [State.mp, State.modMp]
  by_cases hk : k = m
  · rw [hk, smGet_smSet_self]
    exact hf (hm m)
  · rw [smGet_smSet_ne _ _ _ hk]
    exact hm k

theorem Keeps.modRing (h : Keeps s t) {n : Nat} {f : Ring → Ring} (hf : (t.ring n).size.toNat ≤ 12 → (f (t.ring n)).size.toNat ≤ 12) :
    Keeps s (t.modRing n f) := by
  refine h.trans ⟨fun ⟨hp, hr, hm, hport, hfat⟩ => ⟨hp, fun k => ?_, hm, hport, hfat⟩, id, .refl t⟩
  rw [State.ring, State.modRing]
  by_cases hk : k = n
  · rw [hk, smGet_smPut_self]
    exact hf (hr n)
  · rw [smGet_smPut_ne _ _ _ _ hk]
    exact hr k

/-- A word stored where an unwritten one has a known value keeps a table in its canonical form. -/
theorem ne_of_mem_smPut {α : Type} [DecidableEq α] (d : Nat → α) (m : SMap α) (i : Nat) (a : α) (h : ∀ e ∈ m, e.2 ≠ d e.1) :
    ∀ e ∈ smPut (d i) m i a, e.2 ≠ d e.1 := by
  intro e he
  unfold smPut at he
  split at he
  · exact h e (List.mem_filter.mp he).1
  case isFalse hne =>
    rcases mem_smIns i a _ e he with rfl | he
    · exact hne
    · exact h e (List.mem_filter.mp he).1

theorem Keeps.w6s (h : Keeps s t) {off : Nat} {v : BitVec 64} : Keeps s (t.w6s off v) :=
  h.trans ⟨id, fun ⟨hl, hs, hr, h4, h6, kr, k4, k6⟩ =>
    ⟨hl, hs, hr, h4, smSorted_smPut _ _ _ _ h6, kr, k4, ne_of_mem_smPut w6Reset _ _ _ k6⟩, .refl t⟩

theorem Keeps.w4s (h : Keeps s t) {off : Nat} {v : BitVec 64} : Keeps s (t.w4s off v) :=
  h.trans ⟨id, fun ⟨hl, hs, hr, h4, h6, kr, k4, k6⟩ =>
    ⟨hl, hs, hr, smSorted_smPut _ _ _ _ h4, h6, kr, ne_of_mem_smPut w4Reset _ _ _ k4, k6⟩, .refl t⟩

theorem Keeps.setRgn (h : Keeps s t) {i : Nat} {v : BitVec 64} : Keeps s (t.setRgn i v) :=
  h.trans ⟨id, fun ⟨hl, hs, hr, h4, h6, kr, k4, k6⟩ =>
    ⟨hl, hs, smSorted_smPut _ _ _ _ hr, h4, h6, ne_of_mem_smPut (rgnReset t.build.p) _ _ _ kr, k4, k6⟩, .refl t⟩

theorem Keeps.ephPut (h : Keeps s t) {i v : Nat} : Keeps s (t.ephPut i v) :=
  h.trans ⟨id, fun ⟨hl, hs, hr, h4, h6, kr, k4, k6⟩ => ⟨hl, smSorted_smSet _ _ _ hs, hr, h4, h6, kr, k4, k6⟩, .refl t⟩

theorem Keeps.locPut (h : Keeps s t) {i v : Nat} : Keeps s (t.locPut i v) :=
  h.trans ⟨id, fun ⟨hl, hs, hr, h4, h6, kr, k4, k6⟩ => ⟨smSorted_smSet _ _ _ hl, hs, hr, h4, h6, kr, k4, k6⟩, .refl t⟩

end Sys2Proof.Machine
end

section
/-! SUPPORT. One lemma for each function from states to states: it keeps the invariants and what stays set. Each follows the function's
own branches; a write of anything else than what `State.kept` lists is `Keeps.update`. -/

namespace Sys2Proof.Machine

variable {s t u : State}

/-! ### The named operations -/

theorem Keeps.modRouter {r f} (h : Keeps s t) : Keeps s (t.modRouter r f) := h.update rfl

theorem Keeps.modPanel {p f} (h : Keeps s t) : Keeps s (t.modPanel p f) := h.update rfl

theorem Keeps.modCtx {n f} (h : Keeps s t) : Keeps s (t.modCtx n f) := h.update rfl

theorem Keeps.modBr {b f} (h : Keeps s t) : Keeps s (t.modBr b f) := h.update rfl

theorem Keeps.out {o} (h : Keeps s t) : Keeps s (t.out o) := h.update rfl

theorem Keeps.whenLive {f} (h : Keeps s t) (hf : ∀ {u}, Keeps s u → Keeps s (f u)) : Keeps s (t.whenLive f) := .ite h (hf h)

theorem Keeps.ctr4 {off n} (h : Keeps s t) : Keeps s (t.ctr4 off n) := .ite h h.w4s

theorem Keeps.ctr6 {off n} (h : Keeps s t) : Keeps s (t.ctr6 off n) := h.w6s

theorem Keeps.noteSet {k} (h : Keeps s t) : Keeps s (t.noteSet k) := h.update rfl

theorem Keeps.irqS {n} (h : Keeps s t) : Keeps s (t.irqS n) := h.same rfl

theorem Keeps.irqNs {n} (h : Keeps s t) : Keeps s (t.irqNs n) := h.same rfl

theorem Keeps.event {n} (h : Keeps s t) : Keeps s (t.event n) := h.update rfl

theorem Keeps.stage {off n} (h : Keeps s t) : Keeps s (t.stage off n) := h.update rfl

theorem Keeps.calendar {hw code} (h : Keeps s t) : Keeps s (t.calendar hw code) := h.update rfl

theorem Keeps.wantCheck {cause} (h : Keeps s t) : Keeps s (t.wantCheck cause) := .ite (h.update rfl) h

theorem Keeps.fatalRow {row} (h : Keeps s t) : Keeps s (t.fatalRow row) := by
  have hd : Keeps s { t with clk := { t.clk with fatalRows := t.clk.fatalRows ||| (1#7 <<< (row - 1)), fatal := true } } := by
    refine h.trans ⟨fun ⟨hp, hr, hm, hport, _⟩ => ⟨hp, hr, hm, hport, fun _ => rfl⟩, id, ?_⟩
    exact ⟨fun _ => rfl, fun i hi => by simp [hi], fun _ => id, fun _ => rfl, fun hb => ⟨hb, rfl⟩⟩
  unfold State.fatalRow
  dsimp only
  split
  case isTrue hf => exact hd.same (by simp only [State.kept]; rw [show t.clk.fatal = true from hf])
  case isFalse => exact hd.irqS.stage.calendar.wantCheck

theorem Keeps.freezePanel {p} (h : Keeps s t) : Keeps s (t.freezePanel p) := h.update rfl

theorem Keeps.freezeAllPanels (h : Keeps s t) : Keeps s t.freezeAllPanels := h.update rfl

theorem Keeps.freezeRouter {r} (h : Keeps s t) : Keeps s (t.freezeRouter r) := h.update rfl

theorem Keeps.bkMark {key v} (h : Keeps s t) : Keeps s (t.bkMark key v) := h.update rfl

theorem Keeps.bucketCe {base} (h : Keeps s t) : Keeps s (t.bucketCe base) := by
  unfold State.bucketCe
  extract_lets ctl st a th ovf s₁ s₂ s₃
  have h₁ : Keeps s s₁ := .ite h h.bkMark
  have h₃ : Keeps s s₃ := h₁.w6s.ctr6.stage
  exact .ite h₃.noteSet.irqS h₃

theorem Keeps.bucketUe {base} (h : Keeps s t) : Keeps s (t.bucketUe base) := h.ctr6.stage

theorem Keeps.bucket {base x} (h : Keeps s t) : Keeps s (t.bucket base x) := by
  dsimp only [State.bucket]
  split
  · exact h
  · exact h.bucketCe
  · exact h.bucketUe

theorem Keeps.logNew {off v} (h : Keeps s t) : Keeps s (t.logNew off v) := h.noteSet.w6s

theorem Keeps.elog {base dropOff array index ue} (h : Keeps s t) : Keeps s (t.elog base dropOff array index ue) := by
  dsimp only [State.elog]
  split
  · exact h.w6s
  · split
    · exact h.logNew
    · split
      · exact h.logNew
      · exact h.ctr6

theorem Keeps.pnElog {p array index ue} (h : Keeps s t) : Keeps s (t.pnElog p array index ue) := h.elog

theorem Keeps.ezElog {array index ue} (h : Keeps s t) : Keeps s (t.ezElog array index ue) := h.elog

theorem Keeps.violate {ring kind} (h : Keeps s t) : Keeps s (t.violate ring kind) := h.modCtx.ctr6.w6s.irqS

theorem Keeps.setQ {l c x} (h : Keeps s t) : Keeps s (t.setQ l c x) := h.update rfl

theorem Keeps.push {l c x} (h : Keeps s t) : Keeps s (t.push l c x) := h.setQ

theorem Keeps.owe {l c} (h : Keeps s t) : Keeps s (t.owe l c) := h.update rfl

theorem Keeps.sendState {slot} (h : Keeps s t) : Keeps s (t.sendState slot) := h.out

theorem Keeps.addInj {r e n} (h : Keeps s t) : Keeps s (t.addInj r e n) := h.modRouter

theorem Keeps.addEj {r e n} (h : Keeps s t) : Keeps s (t.addEj r e n) := h.modRouter

theorem Keeps.eclipseEnds {unit st} (h : Keeps s t) : Keeps s (t.eclipseEnds unit st) := h.update rfl

theorem Keeps.inject {r x own who} (h : Keeps s t) : Keeps s (t.inject r x own who) := h.push.addInj

theorem Keeps.portDead {slot cause} (h : Keeps s t) : Keeps s (t.portDead slot cause) := by
  have hp : (t.port slot).prioOk → 1 ≤ (t.port slot).prioPend.getD (t.port slot).prio ∧ (t.port slot).prioPend.getD
    (t.port slot).prio ≤ 3 := by
    intro ⟨h1, h3, hv⟩
    cases hq : (t.port slot).prioPend with
    | none => exact ⟨h1, h3⟩
    | some v => exact hv v hq
  unfold State.portDead
  refine .sendState (.stage (.irqS (.event (.eclipseEnds (.foldl (.foldl (.foldl (.foldl (h.setPort fun hx => ?_) .setQ)
    fun h => .setQ (h.foldl .addEj)) fun h => .ite h.inject h.inject) .push)))))
  exact ⟨(hp hx).1, (hp hx).2, fun v hv => by cases hv⟩

theorem Keeps.headerFault {slot cause} (h : Keeps s t) : Keeps s (t.headerFault slot cause) :=
  .ite (.portDead (h.noteSet.modPort id)) (h.noteSet.modPort id)

theorem Keeps.protoErr {slot kind cls opc} (h : Keeps s t) : Keeps s (t.protoErr slot kind cls opc) := by
  have hb {c : Prop} [Decidable c] {y : Port} (hy : (t.port slot).prioOk → y.prioOk) :
      Keeps s ((if c then t else t.bkMark slot 2).setPort slot y) := by
    split
    · exact h.setPort hy
    · exact h.bkMark.setPort hy
  exact .ite (.headerFault (hb id)) (hb id)

theorem Keeps.protoErrAgent {a kind cls opc} (h : Keeps s t) : Keeps s (t.protoErrAgent a kind cls opc) := by
  dsimp only [State.protoErrAgent]
  split
  · exact h.protoErr
  · exact h

theorem Keeps.traceRec {place ws} (h : Keeps s t) : Keeps s (t.traceRec place ws) := .ite h (h.update rfl)

theorem Keeps.traceEnter {ws} (h : Keeps s t) : Keeps s (t.traceEnter ws) := .ite (h.update rfl) (.ctr4 (h.update rfl))

theorem Keeps.traceFlush (h : Keeps s t) : Keeps s t.traceFlush := .foldl (h.update rfl) .traceEnter

theorem Keeps.pnEvent {p code n w} (h : Keeps s t) : Keeps s (t.pnEvent p code n w) := h.foldl fun h => .ite h.ctr4 h

/-! ### The region map -/

theorem Keeps.refreshLeaves {qs} (h : Keeps s t) : Keeps s (t.refreshLeaves qs) := h.foldl .modRouter

theorem Keeps.rgnWritten (h : Keeps s t) : Keeps s t.rgnWritten := by
  have hl : Keeps s (if t.host.prof = 0 then t.refreshLeaves (List.range t.build.leafN) else t) := .ite h.refreshLeaves h
  exact .ite hl (.update hl rfl)

/-! ### What a step of a panel tells the rest -/

theorem Keeps.applyEff {p x} (h : Keeps s t) : Keeps s (applyEff p t x) := by
  unfold Sys2Proof.Machine.applyEff
  split
  · exact h.protoErrAgent
  · exact h.bucket
  · exact h.pnElog
  · exact h.ctr4
  · exact h.ctr6
  · exact h.pnEvent
  · dsimp only
    split
    · refine .freezeAllPanels ?_
      split
      · exact h.fatalRow.freezePanel
      · exact h.fatalRow
    · split
      · exact h.fatalRow.freezePanel
      · exact h.fatalRow
  · exact h.traceRec
  · exact h.stage
  · exact h.calendar
  · dsimp only
    split
    · refine .irqS ?_
      split
      · exact h.event
      · exact h
    · split
      · exact h.event
      · exact h
  · split
    · exact h.portDead
    · exact h
  · exact h.setRgn
  · exact h.ezElog
  · exact h.w4s
  · exact h.update rfl
  · exact h.update rfl

theorem Keeps.commitPx {p x} (h : Keeps s t) : Keeps s (t.commitPx p x) := .foldl (h.update rfl) .applyEff

/-! ### Steps of a panel -/

theorem Keeps.panelStep {p ups f} (h : Keeps s t) : Keeps s (t.panelStep p ups f) := by
  dsimp only [State.panelStep]
  split
  · exact h.commitPx
  · exact h.commitPx
  · exact h.commitPx

theorem Keeps.take {l key} (h : Keeps s t) : Keeps s (t.take l key) := h.setQ.owe

theorem Keeps.acceptStep {p opc ups} (h : Keeps s t) : Keeps s (t.acceptStep p opc ups) := by
  dsimp only [State.acceptStep]
  split
  · exact .ite h.take.panelStep h
  · exact h

theorem Keeps.serviceStep {p opc} (h : Keeps s t) : Keeps s (t.serviceStep p opc) := by
  dsimp only [State.serviceStep]
  split
  · exact .ite h.take.panelStep h
  · exact h

theorem Keeps.wbkStep {p opc ups} (h : Keeps s t) : Keeps s (t.wbkStep p opc ups) := by
  dsimp only [State.wbkStep]
  split
  · exact .ite h.take.panelStep h
  · exact h

theorem Keeps.onHead {p cls opc ups f} (h : Keeps s t) : Keeps s (t.onHead p cls opc ups f) := by
  dsimp only [State.onHead]
  split
  · exact h
  · exact h.take.panelStep

/-! ### Memory ports -/

theorem Keeps.mpFault {m cause} (h : Keeps s t) : Keeps s (t.mpFault m cause) := .fatalRow (h.modMp id)

theorem Keeps.mpChecks {m hd dat} (h : Keeps s t) : Keeps s (t.mpChecks m hd dat) :=
  .ite (.fatalRow (h.bucket.bucket.modMp id)) h.bucket.bucket

theorem Keeps.draw {m rs} (h : Keeps s t) : Keeps s (t.draw m rs).1 := by
  unfold State.draw
  split
  · exact h
  · dsimp only
    split
    · split
      · dsimp only
        exact .modMp h id
      · dsimp only
        exact .modMp (.ctr6 (.modMp h id)) id
    · dsimp only
      exact .modMp h id

theorem Keeps.mpSlot {m sl e} (h : Keeps s t) : Keeps s (t.mpSlot m sl e).1 := by
  dsimp only [State.mpSlot]
  split
  · exact h.bucket.w6s
  · exact h.bucket

theorem Keeps.choose {m e} (h : Keeps s t) : Keeps s (t.choose m e).1 := by
  dsimp only [State.choose]
  split
  · exact h
  · split
    · exact h
    · split
      · split
        · exact h.mpSlot
        · exact h.mpSlot.draw
      · exact h.draw

theorem Keeps.takeMem {m r} (h : Keeps s t) : Keeps s (t.takeMem m r) := .ite h.modPanel (.ite (h.update rfl) (h.update rfl))

theorem Keeps.holdMem {m who n} (h : Keeps s t) : Keeps s (t.holdMem m who n) := h.modMp id

theorem Keeps.driveMem {m tag r} (h : Keeps s t) : Keeps s (t.driveMem m tag r) :=
  .out (.modMp h fun hc => Nat.le_trans (Nat.sub_le _ 1) hc)

theorem Keeps.sendMem {m tag who r} (h : Keeps s t) : Keeps s (t.sendMem m tag who r) := h.holdMem.driveMem

theorem Keeps.badWrite {m tag who r} (h : Keeps s t) : Keeps s (t.badWrite m tag who r).1 := by
  dsimp only [State.badWrite]
  split
  · exact h.holdMem
  · split
    · exact h.holdMem.driveMem
    · exact .ite h.holdMem h.holdMem.commitPx

theorem Keeps.mpReset {m} (h : Keeps s t) : Keeps s (t.mpReset m) := by
  have hd {u : State} (hu : Keeps s u) : Keeps s (u.modMp m fun x => { x with svc := false, credits := 0 }) :=
    .modMp hu fun _ => Nat.zero_le 64
  exact .ite (.modMp h id) (.ite (hd (.modMp h id)) (.mpFault (hd (.modMp h id))))

/-! ### The tree -/

theorem Keeps.popAt {l key} (h : Keeps s t) : Keeps s (t.popAt l key) := by
  dsimp only [State.popAt]
  split
  · exact h.setQ
  · exact h.setQ
  · exact h.setQ
  · exact h.take

theorem Keeps.oweAt {l key} (h : Keeps s t) : Keeps s (t.oweAt l key) := by
  dsimp only [State.oweAt]
  split
  · exact h
  · exact h.owe

theorem Keeps.unrouted {r n} (h : Keeps s t) : Keeps s (t.unrouted r n) := h.modRouter

theorem Keeps.notHeld {r hd a} (h : Keeps s t) : Keeps s (t.notHeld r hd a) := h.inject

theorem Keeps.noRoute {r k} (h : Keeps s t) : Keeps s (t.noRoute r k) :=
  .ite h.unrouted.addEj.notHeld (.ite h.unrouted.addEj.inject h.unrouted.addEj)

theorem Keeps.combAlloc {r k} (h : Keeps s t) : Keeps s (t.combAlloc r k) := .ite h h.modRouter

theorem Keeps.rootFence {k} (h : Keeps s t) : Keeps s (t.rootFence k) := .ite h.unrouted.addEj.inject h.unrouted.addEj

theorem Keeps.answerUnmapped {r k un} (h : Keeps s t) : Keeps s (t.answerUnmapped r k un) := h.foldl fun h => h.unrouted.notHeld

theorem Keeps.enterMulti {r l key k} (h : Keeps s t) : Keeps s (t.enterMulti r l key k) :=
  .ite h.answerUnmapped.addEj.oweAt h.push

theorem Keeps.split {r k} (h : Keeps s t) : Keeps s (t.split r k) := h.combAlloc.answerUnmapped.addInj

theorem Keeps.enter {l k} (h : Keeps s t) : Keeps s (t.enter l k) := by
  unfold State.enter
  extract_lets r key stamp e prio hdr k s₁
  have h₁ : Keeps s s₁ := .ite h.addInj h
  refine .ite h₁.push ?_
  split
  · exact h₁.enterMulti
  · exact .ite h₁.noRoute.oweAt h₁.push
  · exact h₁.unrouted.addEj.oweAt
  · exact h₁.push

theorem Keeps.settlePrio {n} (h : Keeps s t) : Keeps s (t.settlePrio n) := by
  unfold State.settlePrio
  dsimp only
  split
  case h_1 v hv =>
    refine .ite (h.setPort fun ⟨_, _, hp⟩ => ?_) h
    exact ⟨(hp v hv).1, (hp v hv).2, fun w hw => by cases hw⟩
  case h_2 => exact h

theorem Keeps.leaves {n k} (h : Keeps s t) : Keeps s (t.leaves n k) := by
  refine .settlePrio (.modPort h fun hx => ?_)
  have ha := hx.acked (k := k) (cyc := t.clk.cyc)
  dsimp only
  split
  · exact ha
  · split
    · split
      · exact ha
      · exact ha
    · exact ha

theorem Keeps.fenceAnswer {n k} (h : Keeps s t) : Keeps s (t.fenceAnswer n k) :=
  .ite (.ite h.addEj.inject h.addEj.inject) (.ite h.addEj.inject (.ite h.addEj.protoErr h.addEj))

theorem Keeps.routerFatal {r off} (h : Keeps s t) : Keeps s (t.routerFatal r off) := h.bucketUe.fatalRow.freezeRouter

theorem Keeps.pumpPort {n hd dat} (h : Keeps s t) : Keeps s (t.pumpPort n hd dat) :=
  .ite h (.ite h.routerFatal (.foldl (h.bucket.bucket.foldl fun h => h.setQ.modPort id) .out))

theorem Keeps.deliverPort {n k hd dat} (h : Keeps s t) : Keeps s (t.deliverPort n k hd dat) := by
  refine .ite h.fenceAnswer (.pumpPort (.settlePrio (.push (.addEj (.setPort h fun hx => ?_)))))
  have ha := hx.answered (k := k)
  dsimp only
  split
  · exact hx
  · exact ha

theorem Keeps.emit {r e} (h : Keeps s t) : Keeps s (t.emit r e) := .ite h.modRouter.addEj.addEj.push h.modRouter

theorem Keeps.combAdd {r e k} (h : Keeps s t) : Keeps s (t.combAdd r e k) := .ite h.modRouter.emit h.modRouter

theorem Keeps.withComb {r e ecc f} (h : Keeps s t) (hf : ∀ {u a1}, Keeps s u → Keeps s (f u a1)) : Keeps s
  (t.withComb r e ecc f) := by
  dsimp only [State.withComb]
  split
  · exact h.routerFatal
  · exact hf h.bucket

theorem Keeps.combFlaws {ups} (h : Keeps s t) : Keeps s (t.combFlaws ups) := h.foldl .modRouter

theorem Keeps.combine {l key ecc} (h : Keeps s t) : Keeps s (t.combine l key ecc) := by
  dsimp only [State.combine]
  split
  · exact h
  · split
    · exact h
    · split
      · exact h
      · exact h.withComb fun h => by
          refine .combAdd ?_
          split
          · exact h.popAt.leaves
          · exact h.popAt

theorem Keeps.combineHeads {r htc} (h : Keeps s t) : Keeps s (t.combineHeads r htc) := h.foldl fun h => h.foldl fun h => by
  split
  · exact .ite h.combine h
  · exact h

theorem Keeps.combFlush {r htc} (h : Keeps s t) : Keeps s (t.combFlush r htc) := by
  dsimp only [State.combFlush]
  split
  · exact h
  · split
    · exact h.combineHeads
    · exact .ite h.combineHeads (h.combineHeads.withComb fun h => .ite h.modRouter h.emit)

theorem Keeps.creditBack {l key} (h : Keeps s t) : Keeps s (t.creditBack l key) := by
  unfold State.creditBack
  refine .ite h ?_
  have hn : Keeps s { t with net := { t.net with owed := smPut 0 t.net.owed (locKey l key) (t.owed l key - 1) } } := .update h rfl
  refine .ite hn ?_
  split
  · exact .ite hn (.withComb hn .emit)
  · exact hn

theorem Keeps.pnSlotOwner {p e} (h : Keeps s t) : Keeps s (t.pnSlotOwner p e).1 := by
  dsimp only [State.pnSlotOwner]
  split
  · exact h.bucket.w6s
  · exact h.bucket

theorem Keeps.pickPanel {p e cs} (h : Keeps s t) : Keeps s (t.pickPanel p e cs).1 := by
  dsimp only [State.pickPanel]
  split
  · split
    · exact h.pnSlotOwner
    · exact h
  · split
    · split
      · exact h.pnSlotOwner
      · exact h
    · split
      · exact h.pnSlotOwner
      · exact h

theorem Keeps.passOver {o w cs} (h : Keeps s t) : Keeps s (t.passOver o w cs) := h.foldl fun h => by
  split
  · exact h
  · split
    · exact h
    · exact h.setQ
    · exact h

theorem Keeps.takeFor {o c} (h : Keeps s t) : Keeps s (t.takeFor o c).1 := by
  have hs {b : Bool} {r k} : Keeps s (if b = true then t.split r k else t) := .ite h.split h
  unfold State.takeFor
  dsimp only
  split
  · dsimp only
    exact h.modPanel
  · split
    · split
      · exact hs
      · split
        · exact .ite hs.popAt hs.setQ
        · exact .ite hs.popAt hs.setQ
    · exact h.popAt

theorem Keeps.easelTivDone {tag} (h : Keeps s t) : Keeps s (t.easelTivDone tag) := h.update rfl

theorem Keeps.leafDecode {q k bad} (h : Keeps s t) : Keeps s (t.leafDecode q k bad).1 := by
  dsimp only [State.leafDecode]
  split
  · exact h
  · exact .ite h.modRouter.bucketCe h

theorem Keeps.arrive {o l k slot u} (h : Keeps s t) : Keeps s (t.arrive o l k slot u) := by
  unfold State.arrive
  split
  · refine .enter ?_
    split
    · exact h.leafDecode.leaves
    · exact h.leafDecode
  · refine .deliverPort ?_
    split
    · exact h.leaves
    · exact h
  · exact h.enter
  · exact h.enter
  · exact .ite h.rootFence h.enter
  · extract_lets n key net s₁ s₂
    have h₁ : Keeps s s₁ := .update h rfl
    have h₂ : Keeps s s₂ := .ite h₁ h₁.addEj
    exact .ite h₂.oweAt.panelStep h₂.push
  · exact h.addEj.easelTivDone
  · exact h.addEj
  · exact h.enter

theorem Keeps.hopOne {o c cs slot u} (h : Keeps s t) : Keeps s (t.hopOne o c cs slot u) := by
  unfold State.hopOne
  refine .ite h.routerFatal (.ite h.routerFatal (.ite h.routerFatal ?_))
  extract_lets s₁ s₂ s₃ s₄
  have h₁ : Keeps s s₁ := h.bucket.bucket
  have h₂ : Keeps s s₂ := .ite h₁.bucket h₁
  have h₃ : Keeps s s₃ := .ite h₂.bucket h₂
  have h₄ : Keeps s (s₄.takeFor o c).1 := h₃.passOver.takeFor
  refine .arrive ?_
  split
  · exact h₄.modRouter
  · exact h₄
  · exact h₄.modRouter

theorem Keeps.fillOne (h : Keeps s t) : Keeps s t.fillOne := by
  dsimp only [State.fillOne]
  split
  · exact h
  · split
    · exact h
    · exact .addInj (h.update rfl)

theorem Keeps.fillMgt (h : Keeps s t) : Keeps s t.fillMgt := h.fillOne.fillOne.fillOne.fillOne

theorem Keeps.cross {p epoch ups f} (h : Keeps s t) : Keeps s (t.cross p epoch ups f) := .panelStep (.addEj (h.update rfl))

/-! ### Barriers -/

theorem Keeps.rootSend {k} (h : Keeps s t) : Keeps s (t.rootSend k) := by
  unfold State.rootSend
  exact h.addInj.enter

theorem Keeps.ebarStep {b k} (h : Keeps s t) : Keeps s (t.ebarStep b k) :=
  .ite h.take.addEj.rootSend.protoErrAgent (.setQ (h.addInj.update rfl))

theorem Keeps.ebarCopy {p ups} (h : Keeps s t) : Keeps s (t.ebarCopy p ups) := by
  dsimp only [State.ebarCopy]
  split
  · exact h
  · split
    · exact .ite h.take.panelStep h
    · exact h

theorem Keeps.ebarDoneStep {p} (h : Keeps s t) : Keeps s (t.ebarDoneStep p) := by
  dsimp only [State.ebarDoneStep]
  split
  · exact h
  · split
    · exact h
    · split
      · exact h.take.addEj
      · exact .ite (h.take.addEj.update rfl) (.rootSend (h.take.addEj.update rfl))

/-! ### Agent ports -/

theorem Keeps.linkUp {n} (h : Keeps s t) : Keeps s (t.linkUp n) := .out (h.modPort id)

theorem Keeps.attach {n} (h : Keeps s t) : Keeps s (t.attach n) := .ite (.linkUp (h.modPort id)) h

theorem Keeps.dropDown {n} (h : Keeps s t) : Keeps s (t.dropDown n) := h.foldl .setQ

theorem Keeps.portDown {n} (h : Keeps s t) : Keeps s (t.portDown n) := .attach (h.dropDown.modPort id)

theorem Keeps.apReset {n} (h : Keeps s t) : Keeps s (t.apReset n) := by
  dsimp only [State.apReset]
  split
  · exact h.modPort id
  · exact .portDown (h.modPort id)
  · exact .portDown (h.modPort id)
  · exact .portDead (h.modPort id)
  · exact .modPort (h.modPort id) id
  · exact .ite (.portDown (h.modPort id)) (.modPort (h.modPort id) id)

theorem Keeps.apRelease {n} (h : Keeps s t) : Keeps s (t.apRelease n) := h.modPort id

theorem Keeps.portHandshake {n} (h : Keeps s t) : Keeps s (t.portHandshake n) := by
  have hs {y : Port} (hy : (t.port n).prioOk → y.prioOk) : Keeps s ((t.setPort n y).dropDown n) := (h.setPort hy).dropDown
  unfold State.portHandshake
  refine .ite h ?_
  dsimp only
  split
  · exact .attach (hs id)
  · refine .linkUp (.modPort (hs ?_) id)
    exact id
  · exact hs id

theorem Keeps.linkProto {n} (h : Keeps s t) : Keeps s (t.linkProto n) := h.protoErr

theorem Keeps.introStep {n w perr gap} (h : Keeps s t) : Keeps s (t.introStep n w perr gap) := by
  dsimp only [State.introStep]
  split
  · split
    · exact .out (.modPort (.noteSet (h.modPort id)) id)
    · exact .sendState (.modPort (.out (.modPort (h.modPort id) id)) id)
  · split
    · exact .modPort (.noteSet (h.modPort id)) id
    · exact .modPort (.out (.modPort (h.modPort id) id)) id
  · exact h.linkProto
  · exact h.linkProto
  · exact h
  · exact h

theorem Keeps.introWords {n words} (h : Keeps s t) : Keeps s (t.introWords n words) := .ite h.introStep h

theorem Keeps.heartbeatWord {n w} (h : Keeps s t) : Keeps s (t.heartbeatWord n w) := .ite (h.modPort id) h

theorem Keeps.eclRise {n ns} (h : Keeps s t) : Keeps s (t.eclRise n ns) := by
  dsimp only [State.eclRise]
  split
  · exact h.setPort id
  · refine .irqS ?_
    refine .event ?_
    split
    · exact h.setPort id
    · exact h.setPort id
    · exact h.setPort id

theorem Keeps.eclFall {n} (h : Keeps s t) : Keeps s (t.eclFall n) := h.modPort id

theorem Keeps.reclaim {n} (h : Keeps s t) : Keeps s (t.reclaim n) := .ite (.portDown (h.modPort id)) (h.modPort id)

theorem Keeps.downCredit {n cls hd dat} (h : Keeps s t) : Keeps s (t.downCredit n cls hd dat) :=
  .ite h (.ite (.headerFault (h.noteSet.modPort id)) (.pumpPort (h.modPort id)))

theorem Keeps.freeUp {n c} (h : Keeps s t) : Keeps s (t.freeUp n c) := by
  refine .modPort h fun hx => ?_
  split
  · exact hx
  · exact hx

theorem Keeps.leafDecodeErr {n hd} (h : Keeps s t) : Keeps s (t.leafDecodeErr n hd) := h.addInj.deliverPort

theorem Keeps.forward {n f} (h : Keeps s t) : Keeps s (t.forward n f) := .push (.addInj (h.modPort id))

theorem Keeps.upAdmitted {n f} (h : Keeps s t) : Keeps s (t.upAdmitted n f) :=
  .ite h.protoErr (.ite h.leafDecodeErr.protoErr (.ite h.routerFatal (.forward (.ite h.bucket h))))

theorem Keeps.upTake {n f} (h : Keeps s t) : Keeps s (t.upTake n f) := by
  unfold State.upTake
  extract_lets q hdr s₁ s₂ x
  have h₁ : Keeps s s₁ := .modPort h id
  refine .ite h₁.routerFatal ?_
  have h₂ : Keeps s s₂ := h₁.freeUp.bucket.bucket
  exact .ite h₂.headerFault (.ite h₂.protoErr h₂.upAdmitted)

theorem Keeps.upOne {n f} {r : State × List Nat} (h : Keeps s r.1) : Keeps s (State.upOne n r f).1 := by
  unfold State.upOne
  split
  · exact h
  · exact (h.modPort id).upTake

theorem Keeps.upPump {n} (h : Keeps s t) : Keeps s (t.upPump n) := by
  have hf (l : List UpFlits) : ∀ r : State × List Nat, Keeps s r.1 → Keeps s (l.foldl (State.upOne n) r).1 := by
    induction l with
    | nil => exact fun _ => id
    | cons f l ih => exact fun r hr => ih _ (.upOne hr)
  exact hf _ _ h

theorem Keeps.upCheck {n f} (h : Keeps s t) : Keeps s (t.upCheck n f) := .ite h (.upPump (h.setPort id))

/-! ### The Ephemeris -/

theorem Keeps.ephTake {i mask} (h : Keeps s t) : Keeps s (t.ephTake i mask).1 := by
  dsimp only [State.ephTake]
  split
  · exact h
  · exact h.bucketCe.ezElog.ephPut
  · exact h.bucketUe.ezElog.calendar.calendar.ephPut.ephPut

theorem Keeps.ephAdd {i n mask} (h : Keeps s t) : Keeps s (t.ephAdd i n mask) := .ite h.ephTake.ephPut h.ephTake.ephPut

theorem Keeps.calWrite {e} (h : Keeps s t) : Keeps s (t.calWrite e) := h.ephTake.ephPut.ephPut.ephPut

theorem Keeps.calFlush (h : Keeps s t) : Keeps s t.calFlush := .foldl (h.update rfl) .calWrite

theorem Keeps.ephLife (h : Keeps s t) : Keeps s t.ephLife := by
  have hs : Keeps s (match t.ep.profSince with
      | some c => (t.stage 0x28 (t.clk.cyc - t.ep.lifeFrom)).stage (if t.bounded then 0x30 else 0x38) (t.clk.cyc - c)
      | none => t.stage 0x28 (t.clk.cyc - t.ep.lifeFrom)) := by
    split
    · exact h.stage.stage
    · exact h.stage
  exact hs.same rfl

theorem Keeps.ephFlush {ups} (h : Keeps s t) : Keeps s (t.ephFlush ups) :=
  .ite h (.calFlush (.foldl (h.ephLife.update rfl) .ephAdd))

theorem Keeps.ledgerStatus {func mark st} (h : Keeps s t) : Keeps s (t.ledgerStatus func mark st) := h.update rfl

theorem Keeps.ephWords (h : Keeps s t) : Keeps s t.ephWords.1 := by
  have hf (l : List Nat) : ∀ r : State × List Nat, Keeps s r.1 → Keeps s (l.foldl (fun r i =>
      if ephMask i = 0 then (r.1, r.2 ++ [0]) else let t := r.1.ephTake i 0; (t.1, r.2 ++ [t.2 &&& ephMask i])) r).1 := by
    induction l with
    | nil => exact fun _ => id
    | cons i l ih =>
      refine fun r hr => ih _ ?_
      dsimp only
      split
      · exact hr
      · exact hr.ephTake
  exact hf _ _ h

theorem Keeps.ephStart {cause} (h : Keeps s t) : Keeps s (t.ephStart cause) := by
  have hu {u : State} (hu : Keeps s u) {v : BitVec 64} {j : EphJob} {l : List MOp} : Keeps s { u with
      ep := { u.ep with trigger := none, lastSeq := v, tried := true, job := j }, ez := { u.ez with ops := l } } := .update hu rfl
  unfold State.ephStart
  exact hu h.ephFlush.ephPut.ephPut.ephPut.ephWords

theorem Keeps.ephEnd {slot ok} (h : Keeps s t) : Keeps s (t.ephEnd slot ok) :=
  .ledgerStatus (.ite (h.update rfl) (.ctr6 (h.update rfl)))

theorem Keeps.ephQueue {m mopc pa code data id} (h : Keeps s t) : Keeps s (t.ephQueue m mopc pa code data id) := h.update rfl

theorem Keeps.restoreEnd {got bad} (h : Keeps s t) : Keeps s (t.restoreEnd got bad) := by
  have hj : Keeps s { t with ep := { t.ep with job := .none, memOut := [] } } := .update h rfl
  have hb (best : Option (Nat × List Nat)) : Keeps s (match best with
      | some (z, ws) =>
        let s := ws.zipIdx.foldl (fun (s : State) (e : Nat × Nat) => s.ephPut e.2 (e.1 &&& ephMask e.2))
          { t with ep := { t.ep with job := .none, memOut := [] } }
        { s with ep := { s.ep with
          restored := true, lastSlot := some z, lastSeq := if s.ep.tried then s.ep.lastSeq else BitVec.ofNat 64 (ws.getD 1 0) } }
      | none => { t with ep := { t.ep with
          job := .none, memOut := [], restored := false, lastSeq := if t.ep.tried then t.ep.lastSeq else 0 } }) := by
    split
    · exact .update (.foldl hj fun h => h.ephPut) rfl
    · exact .update h rfl
  unfold State.restoreEnd
  refine .ledgerStatus (.calFlush (.update (.calendar (.ite (.ephAdd (.ephAdd (hb _))) (.ephAdd (hb _)))) rfl))

theorem Keeps.ephStep (h : Keeps s t) : Keeps s t.ephStep := by
  dsimp only [State.ephStep]
  split
  · split
    · exact .ite h h.ephStart
    · exact h
  · split
    · exact h.ephEnd
    · split
      · split
        · exact h
        · split
          · exact h.ephQueue.update rfl
          · exact h.update rfl
      · exact .ite h.ephEnd h
  · split
    · exact .update (h.update rfl) rfl
    · split
      · split
        · exact h
        · split
          · exact h.ephQueue.update rfl
          · exact h.update rfl
      · exact .ite h.restoreEnd h

theorem Keeps.ephPump (h : Keeps s t) : Keeps s t.ephPump := h.ephStep.ephStep.ephStep.ephStep

theorem Keeps.restoreStart (h : Keeps s t) : Keeps s t.restoreStart := .ephPump (h.update rfl)

theorem Keeps.ephWrDone {id err} (h : Keeps s t) : Keeps s (t.ephWrDone id err) := by
  dsimp only [State.ephWrDone]
  split
  · exact .ite (.ephPump (h.update rfl)) h
  · exact h

theorem Keeps.ephMData {id b} (h : Keeps s t) : Keeps s (t.ephMData id b) := by
  dsimp only [State.ephMData]
  split
  · exact .ite (.ephPump (h.update rfl)) h
  · exact h

/-! ### The Restorer, supply warnings and buckets -/

theorem Keeps.stepNote {p} (h : Keeps s t) : Keeps s (t.stepNote p) := .ite h.modPanel (.ite (h.update rfl) (h.update rfl))

theorem Keeps.sharedStep {p k ups} (h : Keeps s t) : Keeps s (t.sharedStep p k ups) := .ite h (.ite h.commitPx (.ite h.ephTake h))

theorem Keeps.passEnds {p} (h : Keeps s t) : Keeps s (t.passEnds p) := .ite (.ctr6 (h.update rfl)) (h.update rfl)

theorem Keeps.palEnd {p} (h : Keeps s t) : Keeps s (t.palEnd p) := .ite h (.ite (h.update rfl) h.passEnds.modPanel)

theorem Keeps.restStep {q u} (h : Keeps s t) : Keeps s (t.restStep q u) := by
  unfold State.restStep
  extract_lets p work c live s₁ s₂ ue ce s₃ rs s₄
  have h₁ : Keeps s s₁ := h.cross
  have h₂ : Keeps s s₂ := .ite h₁ h₁.sharedStep
  have h₃ : Keeps s s₃ := .ite h₂.event.irqS h₂
  have h₄ : Keeps s s₄ := .ite (.update h₃ rfl) h₃
  exact .calFlush (.ite h₄.palEnd h₄)

theorem Keeps.restLeave {q ups} (h : Keeps s t) : Keeps s (t.restLeave q ups) := .restStep (h.update rfl)

theorem Keeps.restAsk {p recnt pos ups} (h : Keeps s t) : Keeps s (t.restAsk p recnt pos ups) :=
  .ite h.stepNote.addInj.restStep (h.stepNote.addInj.update rfl)

theorem Keeps.restMove {p kind ups} (h : Keeps s t) : Keeps s (t.restMove p kind ups) := by
  dsimp only [State.restMove]
  split
  · exact .ite h.restLeave h
  · exact .ite h.restAsk h

theorem Keeps.dipStop (h : Keeps s t) : Keeps s t.dipStop := .foldl (h.update rfl) .modPanel

theorem Keeps.warnRise (h : Keeps s t) : Keeps s t.warnRise := by
  have hd : Keeps s (if t.rs.dip then t.dipStop else t) := .ite h.dipStop h
  unfold State.warnRise
  dsimp only
  generalize (if t.rs.dip then t.dipStop else t) = u at hd ⊢
  exact .calFlush (.ephPump (.wantCheck (.calendar (.stage (.irqS (.event (.update hd.noteSet rfl)))))))

theorem Keeps.dipRecord (h : Keeps s t) : Keeps s t.dipRecord := h.stage.calendar.calFlush

theorem Keeps.leakBucket {base} (h : Keeps s t) : Keeps s (t.leakBucket base) := .ite h.bkMark.w6s h

theorem Keeps.leakPort {n} (h : Keeps s t) : Keeps s (t.leakPort n) := .ite (h.bkMark.setPort id) h

/-! ### The register spaces -/

theorem Keeps.dirStore {off v} (h : Keeps s t) : Keeps s (t.dirStore off v) := by
  dsimp only [State.dirStore]
  split
  · exact h.foldl fun h => .ite h h.modPanel
  · exact h

theorem Keeps.palStore {off v} (h : Keeps s t) : Keeps s (t.palStore off v) := by
  dsimp only [State.palStore]
  split
  · exact h.foldl fun h => .ite h h.modPanel
  · exact h

theorem Keeps.rgnStore {off v} (h : Keeps s t) : Keeps s (t.rgnStore off v) := by
  dsimp only [State.rgnStore]
  split
  · exact .ite h h.setRgn.rgnWritten
  · exact h

theorem Keeps.ephStore {off v} (h : Keeps s t) : Keeps s (t.ephStore off v) := .ite h.ephPut h

theorem Keeps.dropWindow {off} (h : Keeps s t) : Keeps s (t.dropWindow off) := .ite (h.modPort id) (h.modMp id)

theorem Keeps.keepSel {off} (h : Keeps s t) : Keeps s (t.keepSel off) := h.update rfl

theorem Keeps.dropEvents {off} (h : Keeps s t) : Keeps s (t.dropEvents off) := h.update rfl

theorem Keeps.store4 {off v} (h : Keeps s t) : Keeps s (t.store4 off v) := by
  dsimp only [State.store4]
  split
  · exact h
  · exact .ite h (.ite (.dropWindow (.w4s (.ite h.keepSel (.ite h.dropEvents h)))) (.w4s (.ite h.keepSel (.ite h.dropEvents h))))

theorem Keeps.setPrio {n v} (h : Keeps s t) (hv : v ≤ 3) : Keeps s (t.setPrio n v) := by
  have hv1 : 1 ≤ (if v = 0 then 1 else v) ∧ (if v = 0 then 1 else v) ≤ 3 := by split <;> omega
  unfold State.setPrio
  generalize (if v = 0 then 1 else v) = w at hv1
  refine .ite (h.setPort fun ⟨h1, h3, _⟩ => ⟨h1, h3, fun _ hx => by cases hx⟩)
    (.ite (.settlePrio (h.setPort fun ⟨h1, h3, _⟩ => ⟨h1, h3, fun _ hx => by cases hx; exact hv1⟩))
      (h.setPort fun _ => ⟨hv1.1, hv1.2, fun _ hx => by cases hx⟩))

theorem Keeps.psStore {n r v} (h : Keeps s t) : Keeps s (t.psStore n r v) := by
  unfold State.psStore
  split
  · exact .modPort h id
  · exact .modPort h id
  · exact h.setPrio (by omega)
  · exact .modPort h id
  · exact h

theorem Keeps.flipRoot (h : Keeps s t) : Keeps s t.flipRoot := h.modRouter.foldl fun h => .ite h.modRouter h.modRouter

theorem Keeps.routeStore {r e id v} (h : Keeps s t) : Keeps s (t.routeStore r e id v) := .ite h.noteSet.modRouter h.modRouter

theorem Keeps.bucketStore {off v} (h : Keeps s t) : Keeps s (t.bucketStore off v) := .ite h.w6s (.ite (.ite h h.w6s) h)

theorem Keeps.rtStore {r o v} (h : Keeps s t) : Keeps s (t.rtStore r o v) := by
  dsimp only [State.rtStore]
  split
  · exact h.routeStore
  · split
    · exact h.modRouter
    · exact h.modRouter
    · exact .ite h.flipRoot h
    · exact h.modRouter
    · exact .ite (.ite h.modBr h) h.bucketStore

theorem Keeps.shadowStore {off bit v} (h : Keeps s t) : Keeps s (t.shadowStore off bit v) := .ite (h.update rfl) h.w6s

theorem Keeps.mpStore {m o v} (h : Keeps s t) : Keeps s (t.mpStore m o v) := by
  dsimp only [State.mpStore]
  split
  · exact h.w6s
  · exact h.w6s
  · exact h.modMp id
  · exact .ite h.shadowStore h.bucketStore

theorem Keeps.freeEntry {off v} (h : Keeps s t) : Keeps s (t.freeEntry off v) := .ite h h.w6s

theorem Keeps.pnStore {p o v} (h : Keeps s t) : Keeps s (t.pnStore p o v) :=
  .ite h.shadowStore (.ite h.freeEntry (.ite h.w6s (.ite (.ite h.freeEntry h) h.bucketStore)))

theorem Keeps.ptStore {off v} (h : Keeps s t) : Keeps s (t.ptStore off v) := h.w6s

theorem Keeps.ezStore {o v} (h : Keeps s t) : Keeps s (t.ezStore o v) := by
  dsimp only [State.ezStore]
  split
  · exact h.freeEntry
  · split
    · exact h.w6s
    · exact h.w6s
    · exact h.w6s
    · exact h.bucketStore

theorem Keeps.store6 {off v} (h : Keeps s t) : Keeps s (t.store6 off v) := by
  dsimp only [State.store6]
  split
  · exact h.psStore
  · exact h.rtStore
  · exact h.mpStore
  · exact h.pnStore
  · exact h.ptStore
  · exact h.ezStore
  · exact h

theorem Keeps.reclaimLook {off} (h : Keeps s t) : Keeps s (t.reclaimLook off) := by
  dsimp only [State.reclaimLook]
  split
  · exact .ite h.reclaim h
  · exact h

theorem Keeps.spaceLoad {ring sp off} (h : Keeps s t) : Keeps s (t.spaceLoad ring sp off).1 := by
  unfold State.spaceLoad
  dsimp only
  generalize (decide (ring < 8) || _) = ok
  split
  · exact h.violate
  · split
    · exact h
    · exact h.reclaimLook
    · exact h
    · exact h

theorem Keeps.spaceStore {ring sp off v} (h : Keeps s t) : Keeps s (t.spaceStore ring sp off v) := by
  dsimp only [State.spaceStore]
  split
  · exact .ite h.dirStore h.violate
  · exact .ite h.palStore h.violate
  · exact .ite h.violate (.ite h.violate h.rgnStore)
  · exact .ite h.store4 h.violate
  · exact .ite h.ephStore h.violate
  · exact .ite (.ite h.violate h.store6) h.violate
  · exact h.violate

/-! ### A ring's operands -/

theorem Keeps.setG {ring i v} (h : Keeps s t) : Keeps s (t.setG ring i v) := h.modCtx

theorem Keeps.setWin {ring i v} (h : Keeps s t) : Keeps s (t.setWin ring i v) := .ite h.modCtx h.modCtx.violate

theorem Keeps.setSpecial {ring n v} (h : Keeps s t) : Keeps s (t.setSpecial ring n v) := by
  dsimp only [State.setSpecial]
  split
  · exact h.modCtx
  · exact h.modCtx
  · exact h.modCtx
  · exact .ite h.setWin h

theorem Keeps.locTake {i} (h : Keeps s t) : Keeps s (t.locTake i).1 := by
  dsimp only [State.locTake]
  split
  · exact h
  · exact h.bucketCe.locPut
  · exact h.bucketUe

theorem Keeps.locLoad {a n} (h : Keeps s t) : Keeps s (t.locLoad a n).1 := h.locTake

theorem Keeps.locStore {a n v} (h : Keeps s t) : Keeps s (t.locStore a n v).1 := by
  dsimp only [State.locStore]
  split
  · exact h.locPut
  · split
    · rename_i e
      exact (h.locTake.of_fst e).locPut
    · rename_i e
      exact (h.locTake.of_fst e)

/-! ### The Easel -/

theorem Keeps.ezClaim {r} (h : Keeps s t) : Keeps s (t.ezClaim r) := h.update rfl

theorem Keeps.ezIssue {r use mopc pa world size data n} (h : Keeps s t) : Keeps s (t.ezIssue r use mopc pa world size data n) :=
  by
  dsimp only [State.ezIssue]
  split
  · exact h
  · exact .modCtx (h.update rfl)

theorem Keeps.ringError {n} (h : Keeps s t) : Keeps s (t.ringError n) := .ite (.irqS (h.modRing id)) (.irqNs (h.modRing id))

theorem Keeps.ezFinish {n irq bad} (h : Keeps s t) : Keeps s (t.ezFinish n irq bad) := by
  unfold State.ezFinish
  extract_lets s₁ s₂
  have h₁ : Keeps s s₁ := .ite h.ringError h
  have h₂ : Keeps s s₂ := .modCtx (.modRing h₁ id)
  exact .ite (.ite h₂.irqS h₂.irqNs) h₂

theorem Keeps.descWrite {n status result irq} (h : Keeps s t) : Keeps s (t.descWrite n status result irq) := by
  dsimp only [State.descWrite]
  split
  · exact h.modCtx.ezFinish
  · split
    · exact h.modCtx.ezIssue
    · exact h.modCtx.ezIssue

theorem Keeps.endProgram {n fault code result} (h : Keeps s t) : Keeps s (t.endProgram n fault code result) := by
  unfold State.endProgram
  exact h.modCtx.descWrite

theorem Keeps.ezFault {n fault} (h : Keeps s t) : Keeps s (t.ezFault n fault) := h.endProgram

theorem Keeps.ezDone {r len} (h : Keeps s t) : Keeps s (t.ezDone r len) := h.modCtx

theorem Keeps.ezJump {r pc} (h : Keeps s t) : Keeps s (t.ezJump r pc) := h.modCtx

theorem Keeps.ezBegin (h : Keeps s t) : Keeps s t.ezBegin := by
  dsimp only [State.ezBegin]
  split
  · exact h
  · split
    · exact h
    · split
      · exact h
      · exact .ezFault (.ite h.ezClaim.bucketUe h.ezClaim)
      · exact h.ezClaim.ezIssue

theorem Keeps.ezTouch {r i} (h : Keeps s t) : Keeps s (t.ezTouch r i) := .ite (.violate (h.foldl .locTake)) (h.foldl .locTake)

theorem Keeps.ezRunWord {w ext body} (h : Keeps s t) (hbody : ∀ {u a1 a2}, Keeps s u → Keeps s (body u a1 a2)) : Keeps s
  (t.ezRunWord w ext body) := by
  dsimp only [State.ezRunWord]
  split
  · exact h
  · exact .ite h (.ezBegin (.ite (hbody h.ezClaim.ezTouch) h.ezClaim.ezTouch.ezDone))

theorem Keeps.ezRun {opc f body} (h : Keeps s t) (hbody : ∀ {u a1 a2 a3}, Keeps s u → Keeps s (body u a1 a2 a3)) : Keeps s
  (t.ezRun opc f body) :=
  h.ezRunWord fun h => hbody h

theorem Keeps.descStart (h : Keeps s t) : Keeps s t.descStart := by
  dsimp only [State.descStart]
  split
  · exact h
  · exact .ite h (.ite h.ezClaim.ringError.ezBegin h.ezClaim.ezIssue)

theorem Keeps.ringCheck {n} (h : Keeps s t) : Keeps s (t.ringCheck n) := .ite h h.ringError

theorem Keeps.ringsCheck (h : Keeps s t) : Keeps s t.ringsCheck := .ite (h.foldl .ringCheck) h

theorem Keeps.descLoad {n l} (h : Keeps s t) : Keeps s (t.descLoad n l) := .ite h.modCtx.descWrite (.ite h.modCtx.setWin h.modCtx)

theorem Keeps.swapTable {base} (h : Keeps s t) : Keeps s (t.swapTable base) := .foldl h fun h => h.w6s

theorem Keeps.frameBoundary (h : Keeps s t) : Keeps s t.frameBoundary :=
  .foldl (.update (.foldl h fun h => .foldl h fun h => h.swapTable) rfl) fun h => h.w6s

/-! ### Two-operand instructions -/

theorem Keeps.aluDone {r len d a} (h : Keeps s t) : Keeps s (t.aluDone r len d a) := h.modCtx.ezDone

theorem Keeps.ezAlu {opc f k op} (h : Keeps s t) : Keeps s (t.ezAlu opc f k op) := h.ezRun fun h => by
  split
  · exact h.aluDone
  · exact h.ezFault

theorem Keeps.ezTest {opc f k op} (h : Keeps s t) : Keeps s (t.ezTest opc f k op) := h.ezRun fun h => by
  split
  · exact h.modCtx.ezDone
  · exact h.ezFault

theorem Keeps.ezCount {opc f op} (h : Keeps s t) : Keeps s (t.ezCount opc f op) := h.ezRun .aluDone

theorem Keeps.ezSet {opc f v} (h : Keeps s t) : Keeps s (t.ezSet opc f v) := h.ezRun fun h => h.setG.ezDone

/-! ### Loads and stores -/

theorem Keeps.ezLoaded {r d v} (h : Keeps s t) : Keeps s (t.ezLoaded r d v) := h.setG.ezDone

theorem Keeps.spcLoad {r sp off} (h : Keeps s t) : Keeps s (t.spcLoad r sp off).1 := .ite h.spaceLoad.modCtx h.spaceLoad

theorem Keeps.ezSample {r sp off ups} (h : Keeps s t) : Keeps s (t.ezSample r sp off ups) := h.modCtx

theorem Keeps.sitCheck {sp off e} (h : Keeps s t) : Keeps s (t.sitCheck sp off e) := by
  dsimp only [State.sitCheck]
  split
  · exact .ite h.bucket.w6s h.bucket
  · exact h

theorem Keeps.loadAt {r ea n d e} (h : Keeps s t) : Keeps s (t.loadAt r ea n d e) := by
  dsimp only [State.loadAt]
  split
  · exact h.ezFault
  · exact h.violate.ezLoaded
  · split
    · rename_i e
      exact (h.locLoad.of_fst e).ezLoaded
    · rename_i e
      exact (h.locLoad.of_fst e).ezFault
  · exact .ite h.sitCheck.ezSample h.spcLoad.ezLoaded
  · exact h.ezIssue

theorem Keeps.storeAt {r ea n v} (h : Keeps s t) : Keeps s (t.storeAt r ea n v) := by
  dsimp only [State.storeAt]
  split
  · exact h.ezFault
  · exact h.violate.ezDone
  · split
    · rename_i e
      exact (h.locStore.of_fst e).ezDone
    · rename_i e
      exact (h.locStore.of_fst e).ezFault
  · exact .ite h h.spaceStore.ezDone
  · exact h.ezIssue

theorem Keeps.ezLoadInst {opc n f} (h : Keeps s t) : Keeps s (t.ezLoadInst opc n f) := h.ezRun .loadAt

theorem Keeps.ezStoreInst {opc n f} (h : Keeps s t) : Keeps s (t.ezStoreInst opc n f) := h.ezRun .storeAt

/-! ### Events -/

theorem Keeps.takeEvents {r d got} (h : Keeps s t) : Keeps s (t.takeEvents r d got) := .ezDone (.setG (h.update rfl))

theorem Keeps.waitTaken {r} (h : Keeps s t) : Keeps s (t.waitTaken r) := by
  dsimp only [State.waitTaken]
  split
  · exact .ite h h.takeEvents.ezBegin
  · exact h

theorem Keeps.waitOver {r} (h : Keeps s t) : Keeps s (t.waitOver r) := by
  dsimp only [State.waitOver]
  split
  · exact .ite h.takeEvents.ezBegin h
  · exact h

theorem Keeps.repStep {r f x e} (h : Keeps s t) : Keeps s (t.repStep r f x e) :=
  .ite h.modCtx (.ite h.modCtx (.ite h.modCtx.ezJump h.modCtx.modCtx))

theorem Keeps.ezRepRun {f} (h : Keeps s t) : Keeps s (t.ezRepRun f) := by
  dsimp only [State.ezRepRun]
  split
  · exact h
  · split
    · exact h
    · exact .ite h (.ezBegin (.ite h.ezClaim.ezTouch.repStep h.ezClaim.ezTouch.ezJump))

/-! ### Repeats and branches -/

theorem Keeps.fenceBranch {b} (h : Keeps s t) : Keeps s (t.fenceBranch b) := h.modBr.foldl fun h => .ite h.portDown h

theorem Keeps.openBranch {b} (h : Keeps s t) : Keeps s (t.openBranch b) := h.modBr.foldl .attach

theorem Keeps.brRise {b ns} (h : Keeps s t) : Keeps s (t.brRise b ns) := by
  dsimp only [State.brRise]
  split
  · exact h.modBr
  · split
    · exact h.modBr.event.irqS.modBr.fenceBranch
    · exact h.modBr.event.irqS.modBr
    · exact h.modBr.event.irqS.modBr.modBr
    · exact h.modBr.event.irqS.modBr.modBr

theorem Keeps.brFall {b} (h : Keeps s t) : Keeps s (t.brFall b) := .ite h.modBr.openBranch h.modBr

theorem Keeps.branchBack {b} (h : Keeps s t) : Keeps s (t.branchBack b) := by
  unfold State.branchBack
  extract_lets e qs s₁ s₂ s₃ pend s₄
  have h₁ : Keeps s s₁ := h.foldl .modRouter
  have h₃ : Keeps s s₃ := h₁.refreshLeaves.foldl fun h => .modPort h id
  have h₄ : Keeps s s₄ := h₃.modBr
  exact .ite h₄.fenceBranch h₄

/-! ### Management operations -/

theorem Keeps.modOp {ring f} (h : Keeps s t) : Keeps s (t.modOp ring f) := h.update rfl

theorem Keeps.opDone {ring st} (h : Keeps s t) : Keeps s (t.opDone ring st) := h.modOp

theorem Keeps.sendAdmit {n} (h : Keeps s t) : Keeps s (t.sendAdmit n) := h.sendState.out

theorem Keeps.admitStart {o} (h : Keeps s t) : Keeps s (t.admitStart o) :=
  .ite h.opDone (.ite h.opDone (.ite h.opDone (.ite h.opDone (.ite h.opDone (.ite h.opDone (.opDone (.sendAdmit (.stage (.foldl
    (h.setPort id) .modPanel)))))))))

theorem Keeps.expelEclipsed {n} (h : Keeps s t) : Keeps s (t.expelEclipsed n) :=
  .reclaim (.ite (.stage (.irqS (.event (h.setPort id)))) (.sendState (.stage (.irqS (.event (h.setPort id))))))

theorem Keeps.expelStart {o} (h : Keeps s t) : Keeps s (t.expelStart o) := by
  dsimp only [State.expelStart]
  split
  · exact h.portDead
  · exact h.expelEclipsed
  · exact h.opDone

theorem Keeps.dawnStart {o} (h : Keeps s t) : Keeps s (t.dawnStart o) :=
  .ite (.ite h h.opDone) (.ite (.opDone (.sendAdmit (h.modPort id))) h.opDone)

theorem Keeps.tivSend {o agent world desc} (h : Keeps s t) : Keeps s (t.tivSend o agent world desc) := .ite h.modOp.enter h

theorem Keeps.tinvStart {o} (h : Keeps s t) : Keeps s (t.tinvStart o) := .ite h.modOp.tivSend h.opDone

theorem Keeps.askPanel {p qs} (h : Keeps s t) : Keeps s (t.askPanel p qs) := h.update rfl

theorem Keeps.recallStart {o} (h : Keeps s t) : Keeps s (t.recallStart o) := .ite h.opDone (.foldl (.ite h.violate h) .askPanel)

theorem Keeps.retireStep {o p set} (h : Keeps s t) : Keeps s (t.retireStep o p set) := .ite h h.askPanel

theorem Keeps.sweepOp {o} (h : Keeps s t) : Keeps s (t.sweepOp o) := by
  dsimp only [State.sweepOp]
  split
  · exact h.askPanel
  · exact h.opDone

theorem Keeps.retireOp {o} (h : Keeps s t) : Keeps s (t.retireOp o) := by
  dsimp only [State.retireOp]
  split
  · exact h.opDone
  · exact .ite h.opDone (.ite h.opDone h.retireStep)

theorem Keeps.eclipseStart {o} (h : Keeps s t) : Keeps s (t.eclipseStart o) := by
  dsimp only [State.eclipseStart]
  split
  · split
    · split
      · exact h.modBr.fenceBranch
      · exact h.modBr
      · exact h
    · exact h.opDone
  · exact .ite h.opDone (.ite (.tivSend (.modOp (h.modPort id))) (h.modPort id))

theorem Keeps.eclipseScan {o a} (h : Keeps s t) : Keeps s (t.eclipseScan o a) := h.modOp.foldl fun h => .ite h h.commitPx.askPanel

theorem Keeps.eclipseStep {o} (h : Keeps s t) : Keeps s (t.eclipseStep o) := by
  dsimp only [State.eclipseStep]
  split
  · exact .ite h.opDone h
  · split
    · exact h.opDone
    · exact .ite h.tivSend.eclipseScan h.tivSend
    · exact h.opDone

theorem Keeps.eclipseOver {ring} (h : Keeps s t) : Keeps s (t.eclipseOver ring) := by
  have hq {asks : List (Nat × MReq)} : Keeps s { t.opDone ring 4 with ez := { (t.opDone ring 4).ez with asks := asks } } :=
    .update h.opDone rfl
  unfold State.eclipseOver
  split
  · exact h
  · refine .ite h (.ite h.opDone (.ite h.opDone (.ite ?_ (.modPort hq id))))
    exact .ite (.openBranch (.modBr hq)) (.modBr hq)

theorem Keeps.rsyncStart {o} (h : Keeps s t) : Keeps s (t.rsyncStart o) := .modOp (.refreshLeaves (h.foldl .modPanel))

theorem Keeps.rsyncStep {o} (h : Keeps s t) : Keeps s (t.rsyncStep o) := .ite h h.opDone

theorem Keeps.tswapStart {o} (h : Keeps s t) : Keeps s (t.tswapStart o) := .ite h.violate.opDone (.ite h.opDone h)

theorem Keeps.scrubSignal {ue} (h : Keeps s t) : Keeps s (t.scrubSignal ue) := .ite h.event.irqS h

theorem Keeps.scrubWord {array i} (h : Keeps s t) : Keeps s (t.scrubWord array i) :=
  .ite h.ephTake.scrubSignal.calFlush h.commitPx.scrubSignal.calFlush

theorem Keeps.scrubStep {o} (h : Keeps s t) : Keeps s (t.scrubStep o) :=
  .ite (.ite h h.opDone) (.ite h (.ite (.ite h h.askPanel.modOp) (.ite h (.ite h.scrubWord.modOp.opDone h.scrubWord.modOp))))

theorem Keeps.scrubStart {o} (h : Keeps s t) : Keeps s (t.scrubStart o) := .ite h.opDone h.scrubStep

theorem Keeps.ledgerCal {o} (h : Keeps s t) : Keeps s (t.ledgerCal o) := by
  dsimp only [State.ledgerCal]
  split
  · split
    · exact h
    · split
      · exact h.calendar.calFlush.modOp
      · exact .ite h.calFlush.opDone h
  · exact .ite h (.ite h.calFlush.opDone h.calendar.calFlush.opDone)

theorem Keeps.ledgerStart {o} (h : Keeps s t) : Keeps s (t.ledgerStart o) := by
  dsimp only [State.ledgerStart]
  split
  · exact .ite h.opDone h.modOp.wantCheck.ephPump
  · exact .ite h.opDone (.ite h.opDone h.modOp)
  · exact .ite (.opDone (h.update rfl)) h.opDone
  · exact h.ledgerCal

theorem Keeps.ledgerStep {o} (h : Keeps s t) : Keeps s (t.ledgerStep o) := .ite h.ledgerCal (.ite h.modOp.restoreStart h.ephPump)

theorem Keeps.profileStart {o} (h : Keeps s t) : Keeps s (t.profileStart o) := by
  unfold State.profileStart
  dsimp only
  split
  · exact h.opDone
  case isFalse hp =>
    split
    · exact h.opDone
    case isFalse hv =>
      refine .ite h.opDone (.opDone (.foldl (h.trans ⟨?_, id, ?_⟩) .modPanel))
      · intro ⟨_, hr, hm, hport, hf⟩
        refine ⟨?_, hr, hm, hport, hf⟩
        have : o.word 0 % 4 = 1 ∨ o.word 0 % 4 = 2 := by omega
        rcases this with e | e <;> simp [e]
      · exact ⟨id, fun _ => id, fun _ => id, fun hx => absurd hx hp, fun hb => ⟨hb, rfl⟩⟩

theorem Keeps.lockStart {o} (h : Keeps s t) : Keeps s (t.lockStart o) := by
  refine .opDone (h.trans ⟨id, id, id, fun _ => id, fun i hi => ?_, fun _ => rfl, fun hb => ⟨hb, rfl⟩⟩)
  simp [hi]

theorem Keeps.opBegin {o} (h : Keeps s t) : Keeps s (t.opBegin o) := by
  dsimp only [State.opBegin]
  split
  · exact h.modOp.admitStart
  · exact h.modOp.expelStart
  · exact h.modOp.recallStart
  · exact h.modOp.sweepOp
  · exact h.modOp.retireOp
  · exact h.modOp.eclipseStart
  · exact h.modOp.dawnStart
  · exact h.modOp.rsyncStart
  · exact h.modOp.tswapStart
  · exact .ite h.modOp h.modOp.opDone
  · exact h.modOp.scrubStart
  · exact h.modOp.ledgerStart
  · exact h.modOp.profileStart
  · exact h.modOp.lockStart
  · exact h.modOp.tinvStart

theorem Keeps.opLook {o} (h : Keeps s t) : Keeps s (t.opLook o) := by
  dsimp only [State.opLook]
  split
  · exact .ite h.opDone h
  · exact .ite h h.opDone
  · split
    · exact .ite h h.opDone
    · exact h
  · split
    · exact h.retireStep
    · exact h
  · exact h.eclipseStep
  · split
    · exact .ite h.branchBack.opDone h
    · exact .ite h.opDone h
  · exact h.rsyncStep
  · exact h.scrubStep
  · exact h.ledgerStep
  · exact .ite h.opDone h.tivSend
  · exact h

theorem Keeps.opMove {ring} (h : Keeps s t) : Keeps s (t.opMove ring) := by
  dsimp only [State.opMove]
  split
  · exact h
  · split
    · exact .ite h.opBegin h
    · exact .ite (.opLook (.ite h.opBegin h)) (.ite h.opBegin h)

theorem Keeps.opsPump (h : Keeps s t) : Keeps s t.opsPump := .fillMgt (h.foldl .opMove)

theorem Keeps.opRefused {r kind d} (h : Keeps s t) : Keeps s (t.opRefused r kind d) := h.violate.setG.ezDone

theorem Keeps.opIssue {r opc d ws} (h : Keeps s t) : Keeps s (t.opIssue r opc d ws) :=
  .ite h.opRefused (.ite h.opRefused (.opsPump (.modCtx (h.update rfl))))

theorem Keeps.ezOperand {k r opc d ea got} (h : Keeps s t) : Keeps s (ezOperand k t r opc d ea got) := by
  induction k generalizing t got with
  | zero => exact h.opIssue
  | succ k ih =>
    unfold Sys2Proof.Machine.ezOperand
    split
    · exact h.opIssue
    · split
      · exact h.ezFault
      · exact ih h.violate
      · split
        · rename_i e
          exact ih (h.locLoad.of_fst e)
        · rename_i e
          exact (h.locLoad.of_fst e).ezFault
      · exact .ite h.ezSample (ih h.spcLoad)
      · exact h.ezIssue

theorem Keeps.ezMgmt {opc row f} (h : Keeps s t) : Keeps s (t.ezMgmt opc row f) := .ite h (h.ezRun .ezOperand)

theorem Keeps.opReport {o rep} (h : Keeps s t) : Keeps s (t.opReport o rep) := by
  have hb (v : BitVec 32) : Keeps s { t with host := { t.host with bist := v } } := .update h rfl
  unfold State.opReport
  split
  · exact .ite h (hb _).opDone
  · exact .ite h (.ite h.modBr.modOp h.opDone)
  · refine .ite ?_ h
    exact .ite h.bucket.w6s h.bucket
  · exact h

theorem Keeps.opComplete {r rep} (h : Keeps s t) : Keeps s (t.opComplete r rep) := by
  unfold State.opComplete
  split
  · exact h
  · extract_lets u
    have hu : Keeps s u := .opsPump (.ite h.opReport h)
    clear_value u
    split
    · exact hu
    · exact .ezBegin (.opsPump (.ezDone (.setG (.update hu rfl))))

/-! ### The control port -/

theorem Keeps.cpViolation (h : Keeps s t) : Keeps s t.cpViolation := .irqS (h.update rfl)

theorem Keeps.bootWrite {v} (h : Keeps s t) : Keeps s (t.bootWrite v) := by
  unfold State.bootWrite
  split
  · exact h
  case isFalse hn => exact h.trans ⟨id, id, id, fun _ => id, fun _ => id, fun _ => rfl, fun hb => absurd hb hn⟩

theorem Keeps.tailWrite {n v} (h : Keeps s t) : Keeps s (t.tailWrite n v) := h.modRing id

theorem Keeps.ringWrite {n o v} (h : Keeps s t) : Keeps s (t.ringWrite n o v) := by
  refine .ite h.cpViolation (.ite h (.modRing h fun hr => ?_))
  split
  · exact hr
  · split
    · exact hr
    · split
      case isTrue hv =>
        show (v.setWidth 4).toNat ≤ 12
        rwa [BitVec.toNat_setWidth]
      case isFalse => exact hr

theorem Keeps.ringBlock {n o v} (h : Keeps s t) : Keeps s (t.ringBlock n o v) := .ite h.tailWrite (.ite h.ringWrite h)

theorem Keeps.irqClear {page v} (h : Keeps s t) : Keeps s (t.irqClear page v) := .ite (h.update rfl) (h.update rfl)

theorem Keeps.cpWrite0 {off v} (h : Keeps s t) : Keeps s (t.cpWrite0 off v) := by
  unfold State.cpWrite0
  split
  · exact h.bootWrite
  · exact h.update rfl
  · exact h.update rfl
  · exact h.irqClear
  · exact h.update rfl
  · exact .ite h.ringBlock h

theorem Keeps.cpWrite1 {off v} (h : Keeps s t) : Keeps s (t.cpWrite1 off v) := by
  unfold State.cpWrite1
  split
  · exact h.irqClear
  · exact h.update rfl
  · exact .ite h.ringBlock h

theorem Keeps.cpAnswer {err data} (h : Keeps s t) : Keeps s (t.cpAnswer err data) := h.out

theorem Keeps.cpPut {ns par addr v} (h : Keeps s t) : Keeps s (t.cpPut ns par addr v) :=
  .ite h.cpAnswer (.cpAnswer (.ite h.cpViolation (.ite h.cpWrite0 h.cpWrite1)))

theorem Keeps.cpGet {ns par addr} (h : Keeps s t) : Keeps s (t.cpGet ns par addr) :=
  .ite h.cpAnswer (.ite h.cpViolation.cpAnswer h.cpAnswer)

/-! ### Hops -/

theorem Keeps.crossMgmt {q} (h : Keeps s t) : Keeps s (t.crossMgmt q) := .fillMgt (.cross (h.update rfl))

theorem Keeps.hop {o ups} (h : Keeps s t) : Keeps s (t.hop o ups) := by
  dsimp only [State.hop]
  split
  · exact h
  · split
    · split
      · exact h.combFlaws
      · split
        · exact h.combFlaws.restLeave
        · exact h.combFlaws.crossMgmt
        · split
          · rename_i e
            exact (h.combFlaws.pickPanel.of_fst e).hopOne
          · rename_i e
            exact (h.combFlaws.pickPanel.of_fst e)
    · split
      · exact h.combFlaws.hopOne
      · exact h.combFlaws

theorem Keeps.rlsRelease {slot} (h : Keeps s t) : Keeps s (t.rlsRelease slot) := by
  dsimp only [State.rlsRelease]
  split
  · exact h
  · split
    · exact .ite h.hopOne h
    · exact h

/-! ### Deadlines, windows and trace -/

theorem Keeps.logMiss {p i hd} (h : Keeps s t) : Keeps s (t.logMiss p i hd) := by
  dsimp only [State.logMiss]
  split
  · exact h.logNew.w6s
  · exact h.ctr6

theorem Keeps.miss {p i c} (h : Keeps s t) : Keeps s (t.miss p i c) := by
  unfold State.miss
  extract_lets s₁ mine s₂ s₃
  have h₂ : Keeps s s₂ := h.modPanel.ctr4.pnEvent
  refine .ite h₂ ?_
  have h₃ : Keeps s s₃ := h₂.logMiss.event.irqS
  exact .ite h₃.traceRec h₃

theorem Keeps.noted {key} (h : Keeps s t) : Keeps s (t.noted key) := h.update rfl

theorem Keeps.winWords {base up dn} (h : Keeps s t) : Keeps s (t.winWords base up dn) := by
  have hp {u : State} (hu : Keeps s u) {o o' : Nat} {v w : BitVec 64} {n k : Nat} :
      Keeps s (if bitsN ((u.w4s o v).w4g n).toNat 0 48 < k then (u.w4s o v).w4s o' w else u.w4s o v) := .ite hu.w4s.w4s hu.w4s
  unfold State.winWords
  refine hp (hp ?_)
  exact .update h rfl

theorem Keeps.winEnd {w} (h : Keeps s t) : Keeps s (t.winEnd w) := by
  dsimp only [State.winEnd]
  split
  · exact h
  · split
    · exact .winWords (h.noted.setPort id)
    · exact .winWords (h.noted.modMp id)

theorem Keeps.syncStep (h : Keeps s t) : Keeps s t.syncStep := by
  dsimp only [State.syncStep]
  split
  · exact h
  · exact .ite h h.noted.traceRec

theorem Keeps.traceSend (h : Keeps s t) : Keeps s t.traceSend := by
  dsimp only [State.traceSend]
  split
  · exact h
  · exact .ite h (.ite (.ctr4 (.out (h.update rfl))) (.out (h.update rfl)))

theorem Keeps.tpReset (h : Keeps s t) : Keeps s t.tpReset := .ite (h.update rfl) (.ctr4 (h.update rfl))

/-! ### Resets and the test wrapper -/

theorem Keeps.blockRelease {wdog psnCap} (h : Keeps s t) : Keeps s (t.blockRelease wdog psnCap) := by
  unfold State.blockRelease
  refine .ite h ?_
  extract_lets warn c s₁ s₂ s₃
  have h₁ : Keeps s s₁ := .update h rfl
  have h₂ : Keeps s s₂ := .foldl h₁ fun h => .modMp h id
  have h₃ : Keeps s s₃ := .mapPorts h₂ (f := fun x => { x with rlReq := !x.rlReq }) id
  exact .ite h₃.warnRise h₃

theorem Keeps.latePort {n} (h : Keeps s t) : Keeps s (t.latePort n) := by
  dsimp only [State.latePort]
  split
  · exact .eclRise (h.modPort id)
  · exact h

theorem Keeps.lateBranch {b} (h : Keeps s t) : Keeps s (t.lateBranch b) := .ite h.modBr.brRise h

theorem Keeps.initEnd (h : Keeps s t) : Keeps s t.initEnd :=
  .ite h (.ezBegin (.foldl (.foldl (.foldl (h.update rfl) .latePort) .lateBranch) .attach))

theorem Keeps.mbist (h : Keeps s t) : Keeps s t.mbist := by
  refine h.trans ⟨id, fun ⟨_, _, hr, h4, h6, kr, k4, k6⟩ => ?_, .refl t⟩
  have hm (l : List Nat) : ∀ m : SMap (BitVec 80), smSorted m = true → (∀ e ∈ m, e.2 ≠ rgnReset t.build.p e.1) →
      smSorted (l.foldl (fun m i => smPut (rgnReset t.build.p i) m i (Config.freeRgn (t.nonce + 1) i)) m) = true ∧
      ∀ e ∈ l.foldl (fun m i => smPut (rgnReset t.build.p i) m i (Config.freeRgn (t.nonce + 1) i)) m, e.2 ≠ rgnReset t.build.p
        e.1 := by
    induction l with
    | nil => exact fun _ hs hk => ⟨hs, hk⟩
    | cons i l ih => exact fun m hs hk => ih _ (smSorted_smPut _ _ _ _ hs) (ne_of_mem_smPut (rgnReset t.build.p) _ _ _ hk)
  obtain ⟨hs, hk⟩ := hm _ _ hr kr
  exact ⟨rfl, rfl, hs, h4, h6, hk, k4, k6⟩

/-! ### Answers of memory and grants -/

theorem Keeps.easelUse {r ups b} (h : Keeps s t) : Keeps s (t.easelUse r ups b) := by
  dsimp only [State.easelUse]
  split
  · exact .ite h.modCtx.ringError h.modCtx.descLoad
  · split
    · exact h.ezFault
    · exact h.modCtx
  · split
    · exact h.ezFault
    · exact h.ezLoaded
  · split
    · exact h.ezFault
    · exact h.ezDone
  · split
    · exact h.ezFault
    · exact h.ezOperand
  · exact h.ezFinish

theorem Keeps.easelMem {r b} (h : Keeps s t) : Keeps s (t.easelMem r b) := by
  dsimp only [State.easelMem]
  split
  · exact h.easelUse.ezBegin
  · exact h

theorem Keeps.writeDone {own err} (h : Keeps s t) : Keeps s (t.writeDone own err) := by
  dsimp only [State.writeDone]
  split
  · exact .ite h h.panelStep
  · exact h.easelMem
  · exact h.ephWrDone
  · exact h

theorem Keeps.readDone {own b ups} (h : Keeps s t) : Keeps s (t.readDone own b ups) := by
  dsimp only [State.readDone]
  split
  · exact .ite h h.panelStep
  · exact h.easelMem
  · exact h.ephMData
  · exact h

theorem Keeps.takeIn {m data} (h : Keeps s t) : Keeps s (t.takeIn m data) := .out (h.modMp id)

theorem Keeps.memInbound {m r u row} (h : Keeps s t) : Keeps s (t.memInbound m r u row) := by
  unfold State.memInbound
  extract_lets x data s₁ s₂ s₃ s₄
  have h₁ : Keeps s s₁ := h.takeIn
  refine .ite h (.ite h₁.mpFault (.ite h₁.mpFault ?_))
  split
  · exact h₁.mpFault
  · refine .ite h₁.mpFault (.ite h ?_)
    have h₃ : Keeps s s₃ := .mpChecks (.modMp h₁ id)
    have h₄ : Keeps s s₄ := .ite h₃.ctr6 h₃
    exact .ite h₄ (.ite h₄.readDone h₄.writeDone)

theorem Keeps.grantOne {m tag who r hd dat} (h : Keeps s t) : Keeps s (t.grantOne m tag who r hd dat) := by
  dsimp only [State.grantOne]
  split
  · exact h.mpChecks
  · split
    · split
      · rename_i e
        exact (h.mpChecks.badWrite.of_fst e).writeDone
      · rename_i e
        exact (h.mpChecks.badWrite.of_fst e)
    · exact h.mpChecks.sendMem

theorem Keeps.grant {m slot hd dat} (h : Keeps s t) : Keeps s (t.grant m slot hd dat) := by
  dsimp only [State.grant]
  split
  · exact h
  · split
    · exact h
    · split
      · rename_i e
        exact (h.choose.of_fst e)
      · rename_i e
        exact .ite ((h.choose.of_fst e).takeMem.grantOne.ephPump) ((h.choose.of_fst e).takeMem.grantOne)

/-! ### One HCLK -/

theorem Keeps.driveIrq (h : Keeps s t) : Keeps s t.driveIrq := .ite (h.update rfl) h

theorem Keeps.tickPanel {p} (h : Keeps s t) : Keeps s (t.tickPanel p) := by
  unfold State.tickPanel
  refine .ite h ?_
  extract_lets x s₁ n
  have h₁ : Keeps s s₁ := h.foldl fun h => by
    split
    · exact .ite h.pnEvent h
    · exact h
  exact .ite h₁ h₁.pnEvent

theorem Keeps.decidePanel {p} (h : Keeps s t) : Keeps s (t.decidePanel p) := .ite h h.panelStep

theorem Keeps.sampleLoad {r} (h : Keeps s t) : Keeps s (t.sampleLoad r) := by
  dsimp only [State.sampleLoad]
  split
  · exact h.spcLoad.easelUse
  · exact h

theorem Keeps.kclkEnd (h : Keeps s t) : Keeps s t.kclkEnd := .ite (.ringsCheck (h.foldl .sampleLoad)) h

theorem Keeps.upPorts (h : Keeps s t) : Keeps s t.upPorts := h.foldl .upPump

theorem Keeps.hclkEnd (h : Keeps s t) : Keeps s t.hclkEnd := .kclkEnd (.traceFlush (h.foldl .decidePanel))

theorem Keeps.tick (h : Keeps s t) : Keeps s t.tick := by
  unfold State.tick
  refine .ite h ?_
  extract_lets s₁ c s₂ s₃
  have h₂ : Keeps s s₂ := .driveIrq (.update h.hclkEnd rfl)
  have h₃ : Keeps s s₃ := h₂.foldl .tickPanel
  exact .ezBegin (.opsPump (.ephPump (.upPorts (.ite h₃.calFlush h₃))))

end Sys2Proof.Machine
end

section
/-! SUPPORT. No command but a block reset, and no HCLK without one, clears what stays set or breaks an invariant. -/

open Sys2Proof Sys2Proof.Machine

namespace Sys2Proof.Machine

variable {s t : State}

/-- The outcome is a next state that keeps what `s` has. -/
inductive Lasts (s : State) : Res → Prop
  | next {t : State} (h : Keeps s t) : Lasts s (.next t)

theorem Lasts.keeps {r : Res} (h : Lasts s r) (e : r = .next t) : Keeps s t := by
  cases h with
  | next h => exact Host.Outcome.next.inj e ▸ h

theorem Lasts.atPanel {p} (h : Keeps s t) : Lasts s (s.atPanel p t) := .next (.ite (.refl s) h)
theorem Lasts.atInput {p} (h : Keeps s t) : Lasts s (s.atInput p t) := .atPanel (.ite (.refl s) h)
theorem Lasts.atMp {m} (h : Keeps s t) : Lasts s (s.atMp m t) := .next (.ite (.refl s) h)

section
variable {f : State → State} (hf : Keeps s (f s))
include hf

theorem Keeps.whenLive_self : Keeps s (s.whenLive f) := .ite (.refl s) hf
theorem Lasts.whenLive : Lasts s (.next (s.whenLive f)) := .next (.whenLive_self hf)
theorem Lasts.atUnit {c : Prop} [Decidable c] : Lasts s (.next (if c then s.whenLive f else s)) :=
  .next (.ite (.whenLive_self hf) (.refl s))

end

theorem Lasts.regStore {ring sp off v} : Lasts s (s.regStore ring sp off v) := by
  refine .atUnit ?_
  exact .ite (.refl s) (Keeps.refl s).spaceStore

theorem Lasts.ite {c : Prop} [Decidable c] {r : Res} (h : Lasts s r) : Lasts s (if c then r else .next s) := by
  split
  · exact h
  · exact .next (.refl s)

/-- Every command but a block reset keeps the invariants and what stays set (R37, R392, R439, R538). -/
theorem exec_lasts (c : Instr) (hc : c ≠ .blockRstAssert) (s : State) : Lasts s (exec c s) := by
  have k := Keeps.refl s
  cases c with
  | blockRstAssert => exact absurd rfl hc
  | blockRstRelease => exact .next k.blockRelease
  | initialisationComplete => exact .whenLive k.initEnd
  | apRstAssert => exact .next (.ite k.apReset k)
  | apRstRelease => exact .next (.ite k.apRelease k)
  | handshakeComplete x =>
    cases x with
    | agent => exact .atUnit k.portHandshake
    | mem => exact .atMp (.ite k (.modMp k fun _ => Nat.zero_le 64))
    | cp | tp | ts => exact .whenLive (.update k rfl)
  | intro => exact .atUnit k.introWords
  | heartbeat => exact .atUnit k.heartbeatWord
  | heartbeatLapse => exact .atUnit (.ite (.portDead (.modPort k.noteSet id)) k)
  | snoopDeadlineExpiry => exact .atUnit (.ite k.portDead k)
  | apEclReqRise => exact .next (.ite k (.ite (.modPort k id) k.eclRise))
  | apEclReqFall => exact .next (.ite k.eclFall k)
  | portFenceCloses => exact .atUnit (.ite (.sendState (.eclipseEnds (.modPort k id))) k)
  | reclamationComplete => exact .atUnit (.ite k.reclaim k)
  | upwardPacketCheck => exact .atUnit k.upCheck
  | rlsHoldReleased => exact .atUnit k.rlsRelease
  | downwardCredit => exact .atUnit k.downCredit
  | upwardCreditReturn =>
    refine .atUnit ?_
    exact .ite k (.out (.setPort k id))
  | packetHop => exact .atUnit k.hop
  | creditReturned => exact .atUnit k.creditBack
  | combineAck => exact .atUnit k.combine
  | combineFlush => exact .atUnit k.combFlush
  | epochCaptured r =>
    refine .next (.ite k (.whenLive_self ?_))
    split
    · exact .ite k.modRouter k
    · exact k
  | rds | rdu | upg | rdo | wru | atp => exact .atInput k.acceptStep
  | ebar b p u =>
    refine .atUnit ?_
    refine .ite k ?_
    split
    · exact k.ebarStep
    · exact k.ebarCopy
  | ebarPanelCompletion =>
    refine .atUnit ?_
    exact .ite k k.ebarDoneStep
  | tiv | tsy => exact .atInput k.serviceStep
  | evc | wbd | wbo => exact .atInput k.wbkStep
  | wbkLineRelease | htcFreed =>
    refine .atPanel ?_
    split
    · exact .ite k.panelStep k
    · exact k
  | dirtyhint | snpack | datafwdToHome | compack => exact .atInput k.onHead
  | sweepdata p u =>
    refine .atInput ?_
    split
    · exact .ite k.commitPx k.onHead
    · exact k
  | htcStartQueued =>
    refine .atPanel ?_
    split
    · exact k.panelStep
    · exact k
  | htcReplay =>
    refine .atPanel ?_
    split
    · exact k
    · exact k.panelStep
  | mdata | mwrcmp | easelMemoryResponse | ephemerisWriterMdata => exact .atMp k.memInbound
  | memportGrant => exact .atMp k.grant
  | mpReqCrd m =>
    refine .atMp (.ite k ?_)
    split
    · exact k.mpFault
    next hn => exact .modMp k fun hc => Nat.lt_of_le_of_ne hc hn
  | mpRstAssert => exact .next (.ite k.mpReset k)
  | mpRstRelease => exact .next (.ite (.modMp k id) k)
  | deathMarker =>
    refine .atInput ?_
    split
    · exact .ite k.take.panelStep k
    · exact k
  | deadScanPaletteSlot =>
    refine .atPanel ?_
    split
    · exact .ite k.panelStep k
    · exact k
  | deadScanDirectorySet =>
    refine .atPanel ?_
    split
    · exact .ite k k.panelStep
    · exact k
  | restorerDirectoryStep | restorerPaletteStep => exact .atPanel k.restMove
  | setSweepStart => exact .atPanel (.ite k.panelStep k)
  | supplyWarnRise => exact .next (.ite k (.ite (.update k rfl) k.warnRise))
  | supplyWarnCleared =>
    have hw : Keeps s (if s.clk.warnPin then { s with clk := { s.clk with warnPin := false, warnLow := s.kclk } } else s) :=
      .ite (.update k rfl) k
    exact .next (.ite (.update k rfl) (.ite hw (.ite (.dipRecord (.update hw rfl))
      (.foldl (.update (.update hw rfl) rfl) fun h => h.modPanel))))
  | afterDipSweepEnd => exact .whenLive (.ite k.dipRecord.dipStop k)
  | checkpointPeriod => exact .whenLive (.ite (.ephPump (.wantCheck (.update k rfl))) k)
  | ephemerisStagingFlush => exact .whenLive k.ephFlush
  | bucketLeak => exact .whenLive (.ite k (.update (.foldl (.foldl k fun h => h.leakBucket) fun h => h.leakPort) rfl))
  | deadlineMiss =>
    refine .atPanel ?_
    split
    · exact k
    · exact .ite k k.miss
  | byteWindowEnd => exact .atUnit k.winEnd
  | traceSync => exact .whenLive k.syncStep
  | traceWordSent => exact .whenLive k.traceSend
  | tpRstAssert => exact .next k.tpReset
  | cpRstAssert | tsRstAssert => exact .next (.update k rfl)
  | timeValueTaken => exact .whenLive (.ite (.update k rfl) k)
  | debugEnableChange => exact .whenLive (.update k rfl)
  | brEclReqRise => exact .next (.ite ((.ite k (.ite k.modBr k.brRise))) k)
  | brEclReqFall => exact .next (.ite (k.brFall) k)
  | branchFenceCloses => exact .next (.ite ((.ite k k.modBr.eclipseEnds)) k)
  | branchLivenessLoss => exact .next (.ite ((.ite k (.calFlush (.ephPump (.update k.modBr.fatalRow rfl))))) k)
  | twinMismatch panel =>
    refine .next (.ite k (.whenLive_self ?_))
    cases panel with
    | some => exact .ite k.fatalRow.freezePanel.ephPump.calFlush k
    | none => exact .calFlush (.ephPump (.update k.fatalRow rfl))
  | slotFrameBoundary => exact .whenLive (.ite k.frameBoundary.ezBegin k)
  | ringDescriptorStart => exact .whenLive k.descStart
  | managementOpComplete => exact .atUnit k.opComplete
  | eclipseTimeout => exact .atUnit k.eclipseOver
  | waitEventTaken => exact .atUnit k.waitTaken
  | waitTimeout => exact .atUnit k.waitOver
  | ezLd | ezLdw | ezLdh | ezLdb => exact .whenLive k.ezLoadInst
  | ezSt | ezStw | ezSth | ezStb => exact .whenLive k.ezStoreInst
  | ezLea | ezLim | ezLimh | ezMfs => exact .whenLive k.ezSet
  | ezEnd => exact .whenLive (k.ezRun fun h => h.endProgram)
  | ezWait => exact .whenLive (k.ezRun fun h => .ite h.takeEvents h.modCtx)
  | ezSignal =>
    refine .whenLive (k.ezRun fun {u r c disp} h => ?_)
    have he {v : BitVec 16} {c : Prop} [Decidable c] : Keeps s { (if c then u else u.violate r 4) with
        ez := { (if c then u else u.violate r 4).ez with events := v } } := .update (.ite h h.violate) rfl
    exact .ezDone (.ite (.ite he.irqS he.irqNs) he)
  | ezAdd | ezAddi | ezSub | ezSubi | ezAnd | ezAndi | ezOr | ezOri | ezXor | ezXori => exact .whenLive k.ezAlu
  | ezShl | ezShli | ezShr | ezShri | ezSar | ezSari => exact .whenLive k.ezAlu
  | ezCmp | ezCmpi | ezTst | ezTsti => exact .whenLive k.ezTest
  | ezPopc | ezFfs => exact .whenLive k.ezCount
  | ezMts => exact .whenLive (k.ezRun fun h => h.setSpecial.ezDone)
  | ezAdmit | ezExpel | ezRecall | ezSweep | ezRetire | ezEclipse | ezEclipseBranch | ezDawn | ezDawnBranch | ezRsync | ezTswap
  | ezBist | ezScrubq | ezLedgerFunc0 | ezLedgerFunc1 | ezLedgerFunc2 | ezLedgerFunc3 | ezProfile | ezLock | ezTinv =>
    exact .whenLive k.ezMgmt
  | ezBr | ezJmp => exact .whenLive (k.ezRun fun h => h.ezJump)
  | ezBrl | ezJmpl => exact .whenLive (k.ezRun fun h => h.setG.ezJump)
  | ezLoop => exact .whenLive (k.ezRun fun h => .ite h.modCtx.ezDone h.modCtx.ezJump)
  | ezRep => exact .whenLive k.ezRepRun
  | ezReserved => exact .whenLive (.ite (k.ezRunWord fun h => h.ezFault) k)
  | rootFlip | directoryWordStore | paletteCodewordStore | counterStore | bwCtlWrite | easelRegisterStore => exact .regStore
  | rtClr | regionMapWrite | hashKeyWrite | psPrioWrite | psHbWrite | rtSnpdlWrite => exact .ite .regStore
  | routeEntryWrite | dlLimWrite => exact .ite (.ite .regStore)
  | drvBootWrite | drvIrqStatWrite | cpRegisterWrite => exact .next (.ite k.cpPut k)
  | drvRingTailWrite | drvRingBaseSizeWrite => exact .ite (.next (.ite k.cpPut k))
  | crossingResetRelease x =>
    cases x with
    | agent => exact .next (.ite k.apRelease k)
    | mem => exact .next (.ite (.modMp k id) k)
    | cp | tp | ts => exact .next (.update k rfl)
  | cpRegisterRead => exact .next (.ite k.cpGet k)
  | linkWordDiscarded => exact .atUnit k
  | wirUpdate w =>
    refine .next ?_
    have hw : Keeps s (if wirActs w = 4 then s.mbist else s) := .ite k.mbist k
    generalize (if wirActs w = 4 then s.mbist else s) = u at hw ⊢
    exact .update hw rfl
  | twWrstnAssert => exact .next (.update k rfl)

/-- A block reset leaves a legal state, whatever it finds (R35, R202, R316, R382, R439). -/
theorem blockReset_legal (s : State) : s.blockReset.legal := by
  have hm (m : Nat) : (s.blockReset.mp m).credits = 0 := by
    simp only [State.mp, State.blockReset, smGet, smFind_map s.mps MemPort.afterReset]
    cases smFind s.mps m <;> rfl
  have hp (n : Nat) : (s.blockReset.port n).prio = 2 ∧ (s.blockReset.port n).prioPend = none := by
    simp only [State.port, State.blockReset, smGet, smFind_map s.ports Port.afterReset]
    cases smFind s.ports n <;> exact ⟨rfl, rfl⟩
  refine ⟨by simp [State.blockReset], fun n => Nat.zero_le 12, fun m => by rw [hm]; exact Nat.zero_le 64, fun n => ?_, fun h => absurd rfl h⟩
  obtain ⟨hprio, hpend⟩ := hp n
  rw [hprio, hpend]
  exact ⟨by decide, by decide, fun _ h => by cases h⟩

/-- One HCLK without a command keeps the invariants and what stays set. -/
theorem step_keeps_of_idle (hs : s.pending = []) (e : step s = .next t) : Keeps s t := by
  have hk : Lasts s (step s) := by
    rw [step, hs]
    exact .next (Keeps.refl s).tick
  exact hk.keeps e

end Sys2Proof.Machine

/-- Settles O5: a block reset leaves a legal state, and every other command and an HCLK keep the invariants. -/
theorem legalKeptByEveryStep : Obligations.LegalKeptByEveryStep := by
  intro s t hs e
  cases hq : s.pending with
  | nil => exact (step_keeps_of_idle hq e).legal hs
  | cons c rest =>
    have hr : State.legal { s with pending := rest } := hs
    rw [step, hq] at e
    by_cases hc : c = .blockRstAssert
    · subst hc
      cases e
      exact blockReset_legal _
    · exact ((exec_lasts c hc _).keeps e).legal hr
end

section
/-! SUPPORT. A management operation that finds its operand words in the local store: what its issue comes to where no other
operation runs. -/

namespace Sys2Proof.Machine

/-! ### Reading operand words -/

/-- What precedes the effect of an instruction of a ring leaves alone, as far as its operands and its operation need it. -/
structure RunKept (s u : State) : Prop where
  kept : EzKept s u
  repw : ∀ n, (u.ctx n).repw = (s.ctx n).repw
  asks : u.ez.asks = s.ez.asks

theorem RunKept.refl (s : State) : RunKept s s := ⟨.refl s, fun _ => rfl, rfl⟩

theorem RunKept.trans {s t u : State} (h : RunKept s t) (k : RunKept t u) : RunKept s u :=
  ⟨h.kept.trans k.kept, fun n => (k.repw n).trans (h.repw n), k.asks.trans h.asks⟩

@[simp] theorem State.bucketCe_ctx (s : State) (b n : Nat) : (s.bucketCe b).ctx n = s.ctx n := by
  unfold State.bucketCe State.ctx; simp only; split <;> split <;> rfl

@[simp] theorem State.bucketCe_asks (s : State) (b : Nat) : (s.bucketCe b).ez.asks = s.ez.asks := by
  unfold State.bucketCe; simp only; split <;> split <;> rfl

theorem RunKept.locTake (s : State) (i : Nat) : RunKept s (s.locTake i).1 := by
  refine ⟨.locTake s i, fun n => ?_, ?_⟩ <;> unfold State.locTake <;> split
  · rfl
  · exact congrArg Ctx.repw (s.bucketCe_ctx 0xA1040 n)
  · rfl
  · rfl
  · exact s.bucketCe_asks 0xA1040
  · rfl

theorem RunKept.violate (s : State) (r k : Nat) : RunKept s (s.violate r k) := by
  refine ⟨.violate s r k, fun n => ?_, rfl⟩
  change ((s.modCtx r fun c => { c with viol := true }).ctx n).repw = _
  by_cases h : n = r
  · subst h; rw [State.ctx_modCtx]
  · rw [State.ctx_modCtx_ne _ _ h]

theorem RunKept.ezTouch (s : State) (r : Nat) (i : Inst) : RunKept s (s.ezTouch r i) := by
  have h : ∀ (l : List Nat) (s : State), RunKept s (l.foldl (fun (s : State) k => (s.locTake k).1) s) := by
    intro l
    induction l with
    | nil => exact .refl
    | cons k l ih => exact fun s => (RunKept.locTake s k).trans (ih _)
  unfold State.ezTouch
  simp only
  split
  · exact (h _ _).trans (.violate _ _ _)
  · exact h _ _

theorem RunKept.ezClaim (s : State) (r : Nat) : RunKept s (s.ezClaim r) := by
  refine ⟨.ezClaim s r, fun n => ?_, rfl⟩
  change Ctx.repw (smGet {} (s.ez.ctx.map _) n) = Ctx.repw (smGet {} s.ez.ctx n)
  induction s.ez.ctx with
  | nil => rfl
  | cons e l ih =>
    obtain ⟨i, c⟩ := e
    rw [List.map_cons]
    by_cases hi : i = n <;> split <;> simp_all [smGet, smFind]

/-- The effect of an instruction that runs is its body's, in a state that keeps what came before. -/
theorem ezRun_body {s : State} {r opc : Nat} {f : Fld} (h : s.runs r opc f) (ho : opc < 64)
    (body : State → Nat → Ctx → BitVec 14 → State) :
    ∃ u, RunKept s u ∧ s.ezRun opc f body = (body u r (u.ctx r) ((u.ctx r).dispOf (fldWord opc f))).ezBegin := by
  obtain ⟨-, i, hn, hw, he, hc⟩ := h
  have k : RunKept s ((s.ezClaim r).ezTouch r i) := (RunKept.ezClaim s r).trans (.ezTouch _ r i)
  refine ⟨_, k, ?_⟩
  obtain ⟨-, hfl, hrc, -⟩ := k.kept.regs r
  have hq : ¬ (i.word ≠ fldWord opc f ∨ (hasExt (wOpc (fldWord opc f)) ∧ i.ext ≠ f.ext)) := by
    rw [wOpc_fldWord _ _ ho]; simp only [not_or, not_and, Decidable.not_not]; exact ⟨hw, he⟩
  simp only [State.ezRun, State.ezRunWord, hn]
  rw [if_neg hq, wCond_fldWord, hfl, hrc, hc, if_pos rfl, hw]

/-- EA of an iteration is the same before the instruction and where its body runs. -/
theorem RunKept.ea {s u : State} (k : RunKept s u) {r opc : Nat} {f : Fld} (ho : opc < 64) (hs : stepsDisp opc = true) (scale : Nat) :
    (u.ctx r).ea f.b.toNat ((u.ctx r).dispOf (fldWord opc f)) scale = iterEa (s.ctx r) f scale := by
  obtain ⟨hg, -, -, -, -, hin, hidx, -⟩ := k.kept.regs r
  have hgr : (u.ctx r).gr f.b.toNat = (s.ctx r).gr f.b.toNat := by rw [Ctx.gr, Ctx.gr, hg]
  have hd : (u.ctx r).dispOf (fldWord opc f) = iterDisp (s.ctx r) f := by
    simp only [Ctx.dispOf, iterDisp, wOpc_fldWord opc f ho, wDisp_fldWord, hs, and_true, hin, hidx, k.repw r]
  rw [Ctx.ea, hgr, hd, sext14, iterEa]

/-- A load of a whole word reaches the local store where its window maps it there and the ring may read it. -/
theorem State.access_loc_iff (s : State) (r : Nat) (ea : BitVec 64) (a : Nat) : s.access r ea 8 .load = .loc a ↔
    ea.toNat < 2 ^ 60 ∧ ea.toNat % 8 = 0 ∧ ¬ (8 ≤ r ∧ a < 0xC000) ∧
      winAddr ((s.ctx r).win r (bitsN ea.toNat 57 3)) (ea.toNat % 2 ^ 57) 8 .load = some (true, a) := by
  unfold State.access
  simp only
  by_cases h : 1 ≤ ea.toNat / 2 ^ 60
  · have : ¬ ea.toNat < 2 ^ 60 := by omega
    split <;> [skip; split] <;> simp_all
  · rw [if_neg (by omega)]
    by_cases ha : ea.toNat % 8 = 0
    · rw [if_neg (by omega), if_neg h]
      have : ea.toNat < 2 ^ 60 := by omega
      rcases winAddr _ _ 8 .load with _ | ⟨_ | _, addr⟩
      · simp
      · cases hm : s.mgmtDecode true addr <;> simp [hm]
      · simp only [this, ha, true_and, reduceCtorEq, false_and, if_false, Option.some.injEq, Prod.mk.injEq]
        split <;> simp <;> grind
    · rw [if_pos ha]; simp [ha]

/-- A window's base is a multiple of its size, so an offset keeps its place in the word. -/
theorem winAddr_aligned {w : BitVec 64} {o n a : Nat} {k : AccKind} {b : Bool} (h : winAddr w o n k = some (b, a)) (ho : o % 8 = 0) :
    a % 8 = 0 := by
  simp only [winAddr, Option.ite_none_right_eq_some, Bool.and_eq_true, decide_eq_true_eq, Option.some.injEq, Prod.mk.injEq] at h
  obtain ⟨⟨⟨⟨⟨⟨-, hsize⟩, -⟩, -⟩, -⟩, -⟩, -, rfl⟩ := h
  have h8 : 8 ∣ 2 ^ bitsN w.toNat 0 6 := (by decide : 8 ∣ 2 ^ 3).trans (Nat.pow_dvd_pow 2 (by omega))
  exact Nat.mod_eq_zero_of_dvd ((h8.mul_left _).add (Nat.dvd_of_mod_eq_zero ho))

theorem State.access_loc_aligned {s : State} {r : Nat} {ea : BitVec 64} {a : Nat} (h : s.access r ea 8 .load = .loc a) :
    a % 8 = 0 := by
  obtain ⟨-, ha, -, hw⟩ := (s.access_loc_iff r ea a).1 h
  exact winAddr_aligned hw (by omega)

theorem RunKept.access_loc {s u : State} (k : RunKept s u) {r : Nat} {ea : BitVec 64} {a : Nat}
    (h : s.access r ea 8 .load = .loc a) : u.access r ea 8 .load = .loc a := by
  obtain ⟨-, -, -, hw, -⟩ := k.kept.regs r
  have hwin (i : Nat) : (u.ctx r).win r i = (s.ctx r).win r i := by rw [Ctx.win, Ctx.win, hw]
  rw [State.access_loc_iff] at h ⊢
  rwa [hwin]

/-- Loading a whole word that reads free of errors gives it and changes nothing. -/
theorem State.locLoad_of_reads {s : State} {a : Nat} {w : BitVec 64} (ha : a % 8 = 0) (h : s.locReads (a / 8) w.toNat) :
    s.locLoad a 8 = (s, some w) := by
  unfold State.locReads at h
  have hb : bitsN w.toNat 0 64 = w.toNat := Nat.mod_eq_of_lt w.isLt
  simp [State.locLoad, State.locTake, h, ha, hb]

/-- The operand words of a state stand where the body of the instruction runs. -/
theorem RunKept.operands {s u : State} (k : RunKept s u) {r : Nat} {ea : BitVec 64} {ws : List (BitVec 64)}
    (h : s.operands r ea ws) : u.operands r ea ws := fun i hi => by
  obtain ⟨a, ha, hr⟩ := h i hi
  exact ⟨a, k.access_loc ha, k.kept.loc _ _ hr⟩

/-- The operand words that stand in the local store are read in turn, and the operation is issued with them. -/
theorem ezOperand_reads {u : State} {r opc d : Nat} {ea : BitVec 64} {ws : List (BitVec 64)} (h : u.operands r ea ws)
    (hlt : ∀ j, j < ws.length → j < opTotal opc (ws.take j)) (hle : opTotal opc ws ≤ ws.length) :
    ∀ k j, ws.length + 1 ≤ j + k → ezOperand k u r opc d ea (ws.take j) = u.opIssue r opc d ws := by
  intro k
  induction k with
  | zero => intro j hj; rw [ezOperand, List.take_of_length_le (by omega)]
  | succ k ih =>
    intro j hj
    rw [ezOperand]
    by_cases hw : j < ws.length
    · obtain ⟨a, ha, hr⟩ := h j hw
      have hl : (ws.take j).length = j := List.length_take_of_le hw.le
      rw [hl, if_neg (by have := hlt j hw; omega), ha]
      simp only [State.locLoad_of_reads (State.access_loc_aligned ha) hr]
      rw [List.getD_eq_getElem _ _ hw, List.take_append_getElem hw]
      exact ih (j + 1) (by omega)
    · rw [List.take_of_length_le (by omega), if_pos hle]

/-! ### Issue where no other operation runs -/

theorem State.atEasel_of_live {s : State} (h : s.live) (f : State → State) : s.atEasel f = .next (f s) := by
  rw [State.atEasel, State.whenLive_of_open s f h.1 h.2]

/-- An operation as its turn comes. -/
def MOp.begun (s : State) (o : MOp) : MOp := { o with started := true, startK := s.kclk, startC := s.clk.cyc }

/-- The state in which an operation issued by a ring begins, where it is the only one: it has begun, and its ring is blocked. -/
structure Begins (s u : State) (o : MOp) (r : Nat) (ws : List (BitVec 64)) : Prop where
  base : SameBase s u
  pins : SamePins s u
  tree : SameTree s u
  homes : SameHomes s u
  prof : u.host.prof = s.host.prof
  locks : u.host.locks = s.host.locks
  asks : u.ez.asks = s.ez.asks
  ops : u.ez.ops = [o]
  ring : o.ring = r
  words : o.words = ws

/-- The operation of `o`'s ring alone, at its end with status `st`. -/
def MOp.ended (o : MOp) (st : Nat) : MOp := { o with status := some st }

theorem State.modOp_alone {s : State} {o : MOp} (h : s.ez.ops = [o]) (f : MOp → MOp) : (s.modOp o.ring f).ez.ops = [f o] := by
  simp [State.modOp, h]

theorem State.opDone_alone {s : State} {o : MOp} (h : s.ez.ops = [o]) (st : Nat) : (s.opDone o.ring st).ez.ops = [o.ended st] :=
  State.modOp_alone h _

/-- An operation alone begins at once unless it is an ECLIPSE, and one that ends as it begins is not looked at again. -/
theorem State.opMove_alone {s : State} {o : MOp} (h : s.ez.ops = [o]) (hs : o.started = false) (hc : o.opc ≠ 0x2D) {e : MOp}
    (he : (s.opBegin o).ez.ops = [e]) (hst : e.status.isSome = true) : s.opMove o.ring = s.opBegin o := by
  have hof : s.opOf o.ring = some o := by simp [State.opOf, h]
  have hmay : mayBegin s s.ez.ops o = true := by simp [h, mayBegin]
  have hbr : s.branchFree o = true := by simp [State.branchFree, hc]
  unfold State.opMove
  simp only [hof]
  rw [if_pos ⟨by simp [hs], hmay, hbr⟩]
  split
  · rfl
  · rename_i e' he'
    have hmem : e' ∈ (s.opBegin o).ez.ops := List.mem_of_find?_eq_some he'
    rw [he, List.mem_singleton] at hmem
    subst hmem
    rw [if_neg (by simp only [Option.isNone_iff_eq_none, ← Option.not_isSome_iff_eq_none]; exact fun h => h.2 hst)]

/-! ### Requests to the panels -/

/-- What a move of the Easel's requests into the root's buffers leaves as it was. -/
theorem State.fillOne_kept (s : State) : s.fillOne.host = s.host ∧ s.fillOne.ez.ops = s.ez.ops := by
  unfold State.fillOne
  simp only
  split
  · exact ⟨rfl, rfl⟩
  · split <;> exact ⟨rfl, rfl⟩

theorem State.fillMgt_host (s : State) : s.fillMgt.host = s.host := by
  simp only [State.fillMgt, State.fillOne_kept]

theorem State.fillMgt_ops (s : State) : s.fillMgt.ez.ops = s.ez.ops := by
  simp only [State.fillMgt, State.fillOne_kept]

theorem State.fillMgt_of_noAsks {s : State} (h : s.ez.asks = []) : s.fillMgt = s := by
  have h1 : s.fillOne = s := by
    unfold State.fillOne
    simp [h]
  simp only [State.fillMgt, h1]

/-- An operation of rings 0 to 7 that finds its operand words in the local store, where no other runs, begins in a state `u` that
differs from the one before by nothing that it meets. Here one that ends at once with status `code`, once `act` is done. -/
theorem ezMgmt_alone {s : State} {r opc : Nat} {f : Fld} {ws : List (BitVec 64)} {act : State → MOp → State} {code : State → MOp → Nat}
    (h : s.runs r opc f) (hr : r < 8) (hops : s.ez.ops = []) (hw : s.operands r (iterEa (s.ctx r) f 8) ws)
    (hopc : opc < 64) (hec : opc ≠ 0x2D) (hd : stepsDisp opc = true) (ht : ∀ l, opTotal opc l = ws.length) (hlen : ws.length ≤ 4)
    (hbegin : ∀ (t : State) (o : MOp), o.opc = opc → t.opBegin o = 
      (act (t.modOp o.ring (MOp.begun t)) (o.begun t)).opDone o.ring (code (t.modOp o.ring (MOp.begun t)) (o.begun t)))
    (hez : ∀ (t : State) (o : MOp), (act t o).ez = t.ez) :
    ∃ u o, Begins s u o r ws ∧
      s.ezMgmt opc (fun _ => true) f = ((act u o).opDone o.ring (code u o)).fillMgt.ezBegin := by
  obtain ⟨u, k, e⟩ := ezRun_body h hopc (fun s r c disp => ezOperand 5 s r opc f.d.toNat (c.ea f.b.toNat disp 8) [])
  have hread := ezOperand_reads (opc := opc) (d := f.d.toNat) (k.operands hw) (fun j hj => by rw [ht]; exact hj) (ht ws).le 5 0 (by omega)
  rw [List.take_zero] at hread
  simp only [k.ea hopc hd, hread] at e
  have hmgmt : s.ezMgmt opc (fun _ => true) f = (u.opIssue r opc f.d.toNat ws).ezBegin := by
    rw [← e, State.ezMgmt, if_neg]
    split
    · dsimp only
      split <;> simp
    · simp
  obtain ⟨⟨hbase, hpins, htree, hhomes, -, hprof, hlocks, -, hkops⟩, -, -⟩ := k.kept
  let o : MOp := { ring := r, opc := opc, d := f.d.toNat, words := ws, mark := u.ez.opSeq + 3 }
  let v : State := ({ u with ez := { u.ez with opSeq := u.ez.opSeq + 1, ops := u.ez.ops ++ [o] } } : State).modCtx r
    fun c => { c with wait := .op, ibuf := [] }
  have hv : v.ez.ops = [o] := by change u.ez.ops ++ [o] = [o]; rw [hkops, hops]; rfl
  have hbegun : (v.modOp r (MOp.begun v)).ez.ops = [o.begun v] := State.modOp_alone hv (MOp.begun v)
  have hmove : v.opMove r = v.opBegin o := by
    refine State.opMove_alone (e := (o.begun v).ended (code (v.modOp r (MOp.begun v)) (o.begun v))) hv rfl hec ?_ rfl
    rw [hbegin v o rfl]
    exact State.opDone_alone (o := o.begun v) (by rw [hez]; exact hbegun) _
  have hissue : u.opIssue r opc f.d.toNat ws = (v.opMove r).fillMgt := by
    unfold State.opIssue
    rw [if_neg (by omega), if_neg (by omega)]
    change v.opsPump = _
    rw [State.opsPump, hv]; rfl
  refine ⟨v.modOp r (MOp.begun v), o.begun v, ⟨hbase, hpins, htree, hhomes, hprof, hlocks, k.asks, hbegun, rfl, rfl⟩, ?_⟩
  rw [hmgmt, hissue, hmove, hbegin v o rfl]; rfl

/-- What stands after an operation alone that has ended at once: its status, and what it has done to the machine. -/
theorem Begins.ended {s u v : State} {o : MOp} {r st : Nat} {ws : List (BitVec 64)} (b : Begins s u o r ws) (hez : v.ez = u.ez) :
    let t := (v.opDone o.ring st).fillMgt.ezBegin
    t.ez.ops = [o.ended st] ∧ t.host.prof = v.host.prof ∧ t.host.locks = v.host.locks ∧
      (s.ez.asks = [] → SameTree v t ∧ SameHomes v t ∧ SamePins v t) := by
  obtain ⟨⟨-, hpins, htree, hhomes, -, hprof, hlocks, -, hops⟩, -, -⟩ := EzKept.ezBegin (v.opDone o.ring st).fillMgt
  have hv : (v.opDone o.ring st).ez.ops = [o.ended st] := State.opDone_alone (by rw [hez]; exact b.ops) st
  refine ⟨by rw [hops, State.fillMgt_ops, hv], by rw [hprof, State.fillMgt_host]; rfl,
    by rw [hlocks, State.fillMgt_host]; rfl, fun ha => ?_⟩
  have hasks : (v.opDone o.ring st).ez.asks = [] := by change v.ez.asks = []; rw [hez, b.asks, ha]
  rw [State.fillMgt_of_noAsks hasks] at hpins htree hhomes ⊢
  exact ⟨htree, hhomes, hpins⟩

/-! ### PROFILE -/

/-- The status of a PROFILE (R37, R384). -/
def State.profileCode (s : State) (o : MOp) : Nat :=
  if s.host.prof ≠ 0 then 2
  else if o.word 0 % 4 ≠ 1 ∧ o.word 0 % 4 ≠ 2 then 3
  else if o.word 0 % 4 = 1 ∧ 896 < bitsN (o.word 0) 16 10 then 4
  else 1

/-- What a PROFILE does to the machine (R37). -/
def State.profiled (s : State) (o : MOp) : State :=
  if s.profileCode o = 1 then
    (List.range s.build.panels).foldl
      (fun (s : State) p => s.modPanel p fun x => { x with bhtc := if o.word 0 % 4 = 1 then bitsN (o.word 0) 16 10 else 0 })
      { s with
        host := { s.host with prof := BitVec.ofNat 2 (o.word 0 % 4) },
        ep := { s.ep with profSince := some s.clk.cyc, lastPeriod := s.clk.cyc } }
  else s

theorem State.profileStart_eq (s : State) (o : MOp) : s.profileStart o = (s.profiled o).opDone o.ring (s.profileCode o) := by
  unfold State.profileStart State.profiled State.profileCode
  simp only
  split
  · rfl
  split
  · rfl
  split <;> rfl

theorem State.opBegin_profile (s : State) (o : MOp) (h : o.opc = 0x34) :
    s.opBegin o = ((s.modOp o.ring (MOp.begun s)).profiled (o.begun s)).opDone o.ring
      ((s.modOp o.ring (MOp.begun s)).profileCode (o.begun s)) := by
  refine Eq.trans ?_ (State.profileStart_eq _ _)
  simp only [State.opBegin, h]; rfl

/-- Changing panels changes nothing else. -/
theorem State.foldl_modPanel_eq (l : List Nat) (f : Panel → Panel) (s : State) :
    ∃ x, l.foldl (fun (s : State) p => s.modPanel p f) s = { s with panels := x } := by
  induction l generalizing s with
  | nil => exact ⟨_, rfl⟩
  | cons p l ih => exact ih (s.modPanel p f)

/-- The panels below a number are changed, each once. -/
theorem State.panel_foldl_modPanel (f : Panel → Panel) (s : State) {n p : Nat} (h : p < n) :
    ((List.range n).foldl (fun (s : State) p => s.modPanel p f) s).panel p = f (s.panel p) := by
  have hout (n p : Nat) (h : n ≤ p) : ((List.range n).foldl (fun (s : State) p => s.modPanel p f) s).panel p = s.panel p := by
    induction n with
    | zero => rfl
    | succ n ih =>
      rw [List.range_succ, List.foldl_append, List.foldl_cons, List.foldl_nil, State.panel_modPanel_ne _ _ (by omega)]
      exact ih (by omega)
  induction n with
  | zero => omega
  | succ n ih =>
    rw [List.range_succ, List.foldl_append, List.foldl_cons, List.foldl_nil]
    by_cases hp : p = n
    · subst hp
      rw [State.panel_modPanel, hout p p le_rfl]
    · rw [State.panel_modPanel_ne _ _ hp]
      exact ih (by omega)

theorem State.profiled_ez (s : State) (o : MOp) : (s.profiled o).ez = s.ez := by
  unfold State.profiled
  split
  · obtain ⟨x, hx⟩ := State.foldl_modPanel_eq (List.range s.build.panels)
      (fun x => { x with bhtc := if o.word 0 % 4 = 1 then bitsN (o.word 0) 16 10 else 0 })
      { s with
        host := { s.host with prof := BitVec.ofNat 2 (o.word 0 % 4) },
        ep := { s.ep with profSince := some s.clk.cyc, lastPeriod := s.clk.cyc } }
    rw [hx]
  · rfl

theorem State.profiled_of_failed {s : State} {o : MOp} (h : s.profileCode o ≠ 1) : s.profiled o = s := if_neg h

/-- PROFILE where no other operation runs. -/
theorem execEzProfile_alone {s : State} {r : Nat} {f : Fld} {w : BitVec 64} (h : s.runs r 0x34 f) (hr : r < 8) (hops : s.ez.ops = [])
    (hw : s.operands r (iterEa (s.ctx r) f 8) [w]) :
    ∃ u o, Begins s u o r [w] ∧
      exec (.ezProfile f) s = .next ((u.profiled o).opDone o.ring (u.profileCode o)).fillMgt.ezBegin := by
  obtain ⟨u, o, b, e⟩ := ezMgmt_alone h hr hops hw (by decide) (by decide) rfl (fun _ => rfl) (by simp) State.opBegin_profile
    State.profiled_ez
  exact ⟨u, o, b, (State.atEasel_of_live h.1 _).trans (congrArg _ e)⟩

end Sys2Proof.Machine
end

section
/-! Obligation O7: what is set stays set until the next block reset, and PROFILE acts once. -/

open Sys2Proof Sys2Proof.Machine

/-- Settles O7: every other command and an HCLK keep what stays set (`exec_lasts`), and a later PROFILE only ends its operation with
status 2. -/
theorem onlyBlockResetClearsStickyState : Obligations.OnlyBlockResetClearsStickyState := by
  refine ⟨fun c s t hc e => ((exec_lasts c hc s).keeps e).sticky, fun s t hp e => (step_keeps_of_idle hp e).sticky, ?_⟩
  intro f s r w h hr hops hw hprof
  obtain ⟨u, o, b, e⟩ := execEzProfile_alone h hr hops hw
  have hcode : u.profileCode o = 2 := if_pos (by rw [b.prof]; exact hprof)
  have hfail : u.profiled o = u := State.profiled_of_failed (by rw [hcode]; decide)
  rw [hcode, hfail] at e
  obtain ⟨htops, htprof, -⟩ := b.ended (v := u) (st := 2) rfl
  exact ⟨_, _, e, htprof.trans b.prof, htops, b.ring, rfl⟩
end

section
/-! SUPPORT. LOCK and ADMIT where no other operation runs. -/

namespace Sys2Proof.Machine

/-! ### Fields of operand words -/

theorem bitsN_toNat (w : BitVec 64) (lo len : Nat) : bitsN w.toNat lo len = (w.extractLsb' lo len).toNat :=
  (BitVec.extractLsb'_toNat lo len w).symm

theorem toNat_mod_two_pow (w : BitVec 64) (len : Nat) : w.toNat % 2 ^ len = (w.extractLsb' 0 len).toNat := by
  rw [← bitsN_toNat]; rfl

theorem bitN_toNat (w : BitVec 64) (i : Nat) : bitN w.toNat i = w.getLsbD i := rfl

theorem MOp.word_of_words {o : MOp} {ws : List (BitVec 64)} (h : o.words = ws) (i : Nat) : o.word i = (ws.getD i 0).toNat := by
  rw [MOp.word, h]

/-! ### LOCK -/

/-- What a LOCK does to the machine (R392). -/
def State.lockedBy (s : State) (o : MOp) : State :=
  { s with host := { s.host with locks := s.host.locks ||| BitVec.ofNat 6 (o.word 0) } }

theorem State.opBegin_lock (s : State) (o : MOp) (h : o.opc = 0x35) :
    s.opBegin o = ((s.modOp o.ring (MOp.begun s)).lockedBy (o.begun s)).opDone o.ring 1 := by
  simp only [State.opBegin, h]; rfl

/-- LOCK where no other operation runs. -/
theorem execEzLock_alone {s : State} {r : Nat} {f : Fld} {w : BitVec 64} (h : s.runs r 0x35 f) (hr : r < 8) (hops : s.ez.ops = [])
    (hw : s.operands r (iterEa (s.ctx r) f 8) [w]) :
    ∃ u o, Begins s u o r [w] ∧ exec (.ezLock f) s = .next ((u.lockedBy o).opDone o.ring 1).fillMgt.ezBegin := by
  obtain ⟨u, o, b, e⟩ := ezMgmt_alone (code := fun _ _ => 1) h hr hops hw (by decide) (by decide) rfl (fun _ => rfl) (by simp)
    State.opBegin_lock (fun _ _ => rfl)
  exact ⟨u, o, b, (State.atEasel_of_live h.1 _).trans (congrArg _ e)⟩

/-! ### ADMIT -/

/-- The status of an ADMIT (R384, R386). -/
def State.admitCode (s : State) (o : MOp) : Nat :=
  let x := s.port (o.word 0 % 256)
  let limit := bitsN (o.word 0) 32 13
  if s.host.prof = 0 then 2
  else if x.lstate ≠ .ready then 3
  else if ¬ s.capacityOk (o.word 0 % 256) then 4
  else if (s.slotOfAgent (bitsN (o.word 0) 8 8)).isSome then 5
  else if bitsN (o.word 1) 0 32 < x.maxSit then 6
  else if limit < 8 ∨ 4096 < limit then 7
  else 1

/-- A port as ADMIT leaves it (R291, R386). -/
def State.admittedPort (s : State) (o : MOp) : Port :=
  { s.port (o.word 0 % 256) with
    lstate := .admitted, agent := bitsN (o.word 0) 8 8, part := bitsN (o.word 0) 16 6, nsOnly := bitN (o.word 0) 24,
    limit := bitsN (o.word 0) 32 13, sitCyc := bitsN (o.word 1) 0 32, hbCyc := bitsN (o.word 1) 32 32, cause := 0, held := false,
    hbStart := s.kclk, reqs := [], psnp := [], reclaimed := false, rstSince := false, stored := none }

/-- What an ADMIT does to the machine (R291, R384, R386, R518). -/
def State.admittedBy (s : State) (o : MOp) : State :=
  let n := o.word 0 % 256
  let a := bitsN (o.word 0) 8 8
  if s.admitCode o = 1 then
    (((List.range s.build.panels).foldl (fun (s : State) p => s.modPanel p fun y => { y with
      dead := y.dead &&& ~~~(vbit a), errs := y.errs &&& ~~~(vbit a) }) (s.setPort n (s.admittedPort o))).stage
        (0x200 + 8 * (n / 2)) (if n % 2 = 0 then 1 else 2 ^ 32)).sendAdmit n
  else s

theorem State.admitStart_eq (s : State) (o : MOp) : s.admitStart o = (s.admittedBy o).opDone o.ring (s.admitCode o) := by
  unfold State.admitStart State.admittedBy State.admitCode
  simp only
  split
  · rfl
  split
  · rfl
  split
  · rfl
  split
  · rfl
  split
  · rfl
  split <;> rfl

theorem State.opBegin_admit (s : State) (o : MOp) (h : o.opc = 0x28) :
    s.opBegin o = ((s.modOp o.ring (MOp.begun s)).admittedBy (o.begun s)).opDone o.ring
      ((s.modOp o.ring (MOp.begun s)).admitCode (o.begun s)) := by
  refine Eq.trans ?_ (State.admitStart_eq _ _)
  simp only [State.opBegin, h]; rfl

theorem State.admittedBy_of_failed {s : State} {o : MOp} (h : s.admitCode o ≠ 1) : s.admittedBy o = s := if_neg h

/-- An ADMIT that passes its checks changes its port, the panels' records of its agent and the ledger, and sends STATE and its record. -/
theorem State.admittedBy_eq {s : State} {o : MOp} (h : s.admitCode o = 1) : ∃ x, s.admittedBy o =
    ((({ s with panels := x }.setPort (o.word 0 % 256) (s.admittedPort o)).stage (0x200 + 8 * (o.word 0 % 256 / 2))
      (if o.word 0 % 256 % 2 = 0 then 1 else 2 ^ 32)).sendAdmit (o.word 0 % 256)) := by
  obtain ⟨x, hx⟩ := State.foldl_modPanel_eq (List.range s.build.panels)
    (fun y => { y with dead := y.dead &&& ~~~(vbit (bitsN (o.word 0) 8 8)), errs := y.errs &&& ~~~(vbit (bitsN (o.word 0) 8 8)) })
    (s.setPort (o.word 0 % 256) (s.admittedPort o))
  refine ⟨x, ?_⟩
  simp only [State.admittedBy, if_pos h]
  rw [hx]; rfl

theorem State.admittedBy_ez (s : State) (o : MOp) : (s.admittedBy o).ez = s.ez := by
  by_cases h : s.admitCode o = 1
  · obtain ⟨x, hx⟩ := State.admittedBy_eq h
    rw [hx]; rfl
  · rw [State.admittedBy_of_failed h]

/-- ADMIT where no other operation runs. -/
theorem execEzAdmit_alone {s : State} {r : Nat} {f : Fld} {w v : BitVec 64} (h : s.runs r 0x28 f) (hr : r < 8) (hops : s.ez.ops = [])
    (hw : s.operands r (iterEa (s.ctx r) f 8) [w, v]) :
    ∃ u o, Begins s u o r [w, v] ∧
      exec (.ezAdmit f) s = .next ((u.admittedBy o).opDone o.ring (u.admitCode o)).fillMgt.ezBegin := by
  obtain ⟨u, o, b, e⟩ := ezMgmt_alone h hr hops hw (by decide) (by decide) rfl (fun _ => rfl) (by simp) State.opBegin_admit
    State.admittedBy_ez
  exact ⟨u, o, b, (State.atEasel_of_live h.1 _).trans (congrArg _ e)⟩

/-- The agent ID `a` is in use: a port in ADMITTED, ECLIPSED or DEAD has it (R386). -/
theorem State.slotOfAgent_isSome (s : State) (a : Nat) : (s.slotOfAgent a).isSome = true ↔ ∃ m, m < 256 ∧ (s.port m).agent = a ∧
    ((s.port m).lstate = .admitted ∨ (s.port m).lstate = .eclipsed ∨ (s.port m).lstate = .dead) := by
  simp [State.slotOfAgent, List.find?_isSome]

/-- What an ADMIT leaves as it was, whether it passes its checks or not. -/
theorem State.admittedBy_kept (s : State) (o : MOp) : (s.admittedBy o).net = s.net ∧ (s.admittedBy o).routers = s.routers ∧
    (s.admittedBy o).mps = s.mps ∧ (s.admittedBy o).host = s.host ∧
    ∀ m, m ≠ o.word 0 % 256 → (s.admittedBy o).port m = s.port m := by
  by_cases h : s.admitCode o = 1
  · obtain ⟨x, hx⟩ := State.admittedBy_eq h
    rw [hx]
    exact ⟨rfl, rfl, rfl, rfl, fun m hm => State.port_setPort_ne _ _ hm⟩
  · rw [State.admittedBy_of_failed h]
    exact ⟨rfl, rfl, rfl, rfl, fun _ _ => rfl⟩

/-- STATE leaves before the ADMIT record. -/
theorem State.sendAdmit_outs {s : State} (n : Nat) (ho : s.clk.cellsOpen = true) : (s.sendAdmit n).outs =
    s.outs ++ [.link n (linkWords [BitVec.ofNat 32 (0x84000000 + lsCode (s.port n).lstate)]),
      .link n (linkWords (s.port n).admitRecord)] := by
  have hs : (s.sendState n).clk.cellsOpen = true := ho
  rw [State.sendAdmit, State.out_outs_open _ _ hs, State.sendState, State.out_outs_open _ _ ho, List.append_assoc]; rfl

/-- An ADMIT that passes gives its port what it names, and sends STATE and its record. -/
theorem State.admittedBy_passed {s : State} {o : MOp} (h : s.admitCode o = 1) (ho : s.clk.cellsOpen = true) :
    (s.admittedBy o).port (o.word 0 % 256) = s.admittedPort o ∧
    (s.admittedBy o).outs = s.outs ++ [.link (o.word 0 % 256) (linkWords [0x84000003#32]),
      .link (o.word 0 % 256) (linkWords (s.admittedPort o).admitRecord)] := by
  obtain ⟨x, hx⟩ := State.admittedBy_eq h
  generalize hu : State.stage _ _ _ = u at hx
  have hp : u.port (o.word 0 % 256) = s.admittedPort o := by subst hu; exact State.port_setPort ..
  have hclk : u.clk.cellsOpen = true := by subst hu; exact ho
  have houts : u.outs = s.outs := by subst hu; rfl
  rw [hx, State.sendAdmit_outs _ hclk, hp, houts]
  exact ⟨hp, rfl⟩

theorem Begins.port {s u : State} {o : MOp} {r : Nat} {ws : List (BitVec 64)} (b : Begins s u o r ws) (n : Nat) : u.port n = s.port n := by
  rw [State.port, State.port, b.tree.1]

theorem Begins.slotOfAgent {s u : State} {o : MOp} {r : Nat} {ws : List (BitVec 64)} (b : Begins s u o r ws) (a : Nat) :
    u.slotOfAgent a = s.slotOfAgent a := by
  simp only [State.slotOfAgent, b.port]

theorem Begins.capacityOk {s u : State} {o : MOp} {r : Nat} {ws : List (BitVec 64)} (b : Begins s u o r ws) (n : Nat) :
    u.capacityOk n = s.capacityOk n := by
  simp only [State.capacityOk, b.port, b.tree.1, b.base.2.1]

end Sys2Proof.Machine
end

section
/-! Obligation O52: LOCK, PROFILE and ADMIT. -/

namespace Sys2Proof.Machine

theorem SameTree.trans {s t u : State} (h : SameTree s t) (k : SameTree t u) : SameTree s u :=
  ⟨k.1.trans h.1, k.2.1.trans h.2.1, k.2.2.trans h.2.2⟩

theorem SameHomes.trans {s t u : State} (h : SameHomes s t) (k : SameHomes t u) : SameHomes s u :=
  ⟨k.1.trans h.1, k.2.1.trans h.2.1, k.2.2.trans h.2.2⟩

theorem SamePins.trans {s t u : State} (h : SamePins s t) (k : SamePins t u) : SamePins s u := ⟨k.1.trans h.1, k.2.trans h.2⟩

/-- LOCK sets the locks that its operand names and nothing else (R392). -/
theorem execEzLock_locks (f : Fld) (s : State) (r : Nat) (w : BitVec 64) (h : s.runs r 0x35 f) (hr : r < 8) (hn : s.noOps)
    (hw : s.operands r (iterEa (s.ctx r) f 8) [w]) :
    ∃ t o, exec (.ezLock f) s = .next t ∧ t.host.locks = s.host.locks ||| w.setWidth 6 ∧ t.host.prof = s.host.prof ∧
      SameTree s t ∧ SameHomes s t ∧ SamePins s t ∧ t.ez.ops = [o] ∧ o.ring = r ∧ o.status = some 1 := by
  obtain ⟨u, o, b, e⟩ := execEzLock_alone h hr hn.1 hw
  obtain ⟨hops, hprof, hlocks, hsame⟩ := b.ended (v := u.lockedBy o) (st := 1) rfl
  obtain ⟨htree, hhomes, hpins⟩ := hsame hn.2
  have hl : (u.lockedBy o).host.locks = s.host.locks ||| w.setWidth 6 := by
    rw [State.lockedBy, b.locks, MOp.word_of_words b.words 0]
    exact congrArg (s.host.locks ||| ·) (BitVec.ofNat_toNat 6 w)
  exact ⟨_, _, e, hlocks.trans hl, hprof.trans b.prof, b.tree.trans htree, b.homes.trans hhomes, b.pins.trans hpins, hops, b.ring, rfl⟩

/-- A PROFILE keeps the tree, the pins and the locks, whether it passes its checks or not. -/
theorem State.profiled_kept (s : State) (o : MOp) :
    SameTree s (s.profiled o) ∧ SamePins s (s.profiled o) ∧ (s.profiled o).host.locks = s.host.locks := by
  by_cases h : s.profileCode o = 1
  · rw [State.profiled, if_pos h]
    obtain ⟨x, hx⟩ := State.foldl_modPanel_eq (List.range s.build.panels)
      (fun x => { x with bhtc := if o.word 0 % 4 = 1 then bitsN (o.word 0) 16 10 else 0 })
      { s with
        host := { s.host with prof := BitVec.ofNat 2 (o.word 0 % 4) },
        ep := { s.ep with profSince := some s.clk.cyc, lastPeriod := s.clk.cyc } }
    rw [hx]
    exact ⟨⟨rfl, rfl, rfl⟩, ⟨rfl, rfl⟩, rfl⟩
  · rw [State.profiled_of_failed h]
    exact ⟨⟨rfl, rfl, rfl⟩, ⟨rfl, rfl⟩, rfl⟩

/-- A PROFILE that passes sets the profile and every panel's Bounded reserve (R37). -/
theorem State.profiled_passed {s : State} {o : MOp} (h : s.profileCode o = 1) :
    (s.profiled o).host.prof = BitVec.ofNat 2 (o.word 0 % 4) ∧
    ∀ p, p < s.build.panels → ((s.profiled o).panel p).bhtc = if o.word 0 % 4 = 1 then bitsN (o.word 0) 16 10 else 0 := by
  rw [State.profiled, if_pos h]
  refine ⟨?_, fun p hp => by rw [State.panel_foldl_modPanel _ _ hp]⟩
  obtain ⟨x, hx⟩ := State.foldl_modPanel_eq (List.range s.build.panels)
    (fun x => { x with bhtc := if o.word 0 % 4 = 1 then bitsN (o.word 0) 16 10 else 0 })
    { s with
      host := { s.host with prof := BitVec.ofNat 2 (o.word 0 % 4) },
      ep := { s.ep with profSince := some s.clk.cyc, lastPeriod := s.clk.cyc } }
  rw [hx]

end Sys2Proof.Machine
end

section
/-! Obligation O52, settled. -/

namespace Sys2Proof.Machine

/-- The checks of PROFILE in the fields of its operand (R37, R384). -/
theorem Begins.profileCode {s u : State} {o : MOp} {r : Nat} {w : BitVec 64} (b : Begins s u o r [w]) : u.profileCode o =
    if s.host.prof ≠ 0 then 2
    else if w.extractLsb' 0 2 ≠ 1 ∧ w.extractLsb' 0 2 ≠ 2 then 3
    else if w.extractLsb' 0 2 = 1 ∧ 896 < (w.extractLsb' 16 10).toNat then 4
    else 1 := by
  have hw : o.word 0 = w.toNat := MOp.word_of_words b.words 0
  have hm : w.toNat % 4 = (w.extractLsb' 0 2).toNat := toNat_mod_two_pow w 2
  have h1 : w.toNat % 4 = 1 ↔ w.extractLsb' 0 2 = 1 := by rw [hm, ← BitVec.toNat_inj]; rfl
  have h2 : w.toNat % 4 = 2 ↔ w.extractLsb' 0 2 = 2 := by rw [hm, ← BitVec.toNat_inj]; rfl
  simp only [State.profileCode, hw, bitsN_toNat, b.prof, ne_eq, h1, h2]

/-- What a PROFILE that passes sets, in the fields of its operand (R37). -/
theorem Begins.profiled {s u : State} {o : MOp} {r : Nat} {w : BitVec 64} (b : Begins s u o r [w]) (hc : u.profileCode o = 1) :
    (u.profiled o).host.prof = w.extractLsb' 0 2 ∧ ∀ p, p < s.build.panels →
      ((u.profiled o).panel p).bhtc = if w.extractLsb' 0 2 = 1 then (w.extractLsb' 16 10).toNat else 0 := by
  have hw : o.word 0 = w.toNat := MOp.word_of_words b.words 0
  have hm : w.toNat % 4 = (w.extractLsb' 0 2).toNat := toNat_mod_two_pow w 2
  have h1 : w.toNat % 4 = 1 ↔ w.extractLsb' 0 2 = 1 := by rw [hm, ← BitVec.toNat_inj]; rfl
  obtain ⟨hp, hb⟩ := State.profiled_passed hc
  refine ⟨by rw [hp, hw, hm, BitVec.ofNat_toNat, BitVec.setWidth_eq], fun p hpp => ?_⟩
  rw [hb p (by rw [b.base.2.1]; exact hpp), hw, bitsN_toNat]
  simp only [h1]

/-- A PROFILE that fails leaves the profile and the panels (R37). -/
theorem Begins.profiled_failed {s u : State} {o : MOp} {r : Nat} {w : BitVec 64} (b : Begins s u o r [w]) {k : Nat}
    (hc : u.profileCode o = k) (hk : k ≠ 1) : (u.profiled o).host.prof = s.host.prof ∧ (u.profiled o).panels = s.panels := by
  rw [State.profiled_of_failed (hc ▸ hk)]
  exact ⟨b.prof, b.homes.1⟩

/-- The checks of ADMIT in the fields of its operand words (R384, R386). -/
theorem Begins.admitCode {s u : State} {o : MOp} {r : Nat} {w v : BitVec 64} (b : Begins s u o r [w, v]) : u.admitCode o =
    let x := s.port (w.extractLsb' 0 8).toNat
    let limit := (w.extractLsb' 32 13).toNat
    if s.host.prof = 0 then 2
    else if x.lstate ≠ .ready then 3
    else if ¬ s.capacityOk (w.extractLsb' 0 8).toNat then 4
    else if (s.slotOfAgent (w.extractLsb' 8 8).toNat).isSome then 5
    else if (v.extractLsb' 0 32).toNat < x.maxSit then 6
    else if limit < 8 ∨ 4096 < limit then 7
    else 1 := by
  have hw : o.word 0 = w.toNat := MOp.word_of_words b.words 0
  have hv : o.word 1 = v.toNat := MOp.word_of_words b.words 1
  have hslot : w.toNat % 256 = (w.extractLsb' 0 8).toNat := toNat_mod_two_pow w 8
  simp only [State.admitCode, b.prof, b.port, b.capacityOk, b.slotOfAgent, hw, hv, hslot, bitsN_toNat]

/-- What an ADMIT that passes gives its port and sends, in the fields of its operand words (R291, R386). -/
theorem Begins.admitted {s u : State} {o : MOp} {r : Nat} {w v : BitVec 64} (b : Begins s u o r [w, v]) (hl : s.live)
    (hc : u.admitCode o = 1) {n : Nat} (hn : (w.extractLsb' 0 8).toNat = n) : ∃ y, (u.admittedBy o).port n = y ∧
      y.lstate = .admitted ∧ y.agent = (w.extractLsb' 8 8).toNat ∧ y.limit = (w.extractLsb' 32 13).toNat ∧
      y.part = (w.extractLsb' 16 6).toNat ∧ y.nsOnly = w.getLsbD 24 ∧ y.sitCyc = (v.extractLsb' 0 32).toNat ∧
      y.hbCyc = (v.extractLsb' 32 32).toNat ∧ y.mode = (s.port n).mode ∧ y.prio = (s.port n).prio ∧
      (u.admittedBy o).outs = s.outs ++ [.link n (linkWords [0x84000003#32]), .link n (linkWords y.admitRecord)] := by
  have hw : o.word 0 = w.toNat := MOp.word_of_words b.words 0
  have hv : o.word 1 = v.toNat := MOp.word_of_words b.words 1
  have hslot : w.toNat % 256 = n := hn ▸ toNat_mod_two_pow w 8
  obtain ⟨hport, houts⟩ := State.admittedBy_passed hc (by rw [b.pins.1]; exact hl.2)
  rw [hw, hslot] at hport houts
  refine ⟨_, hport, ?_⟩
  rw [houts, b.pins.2]
  simp only [State.admittedPort, hslot, hw, hv, bitsN_toNat, bitN_toNat, b.port, and_self]

end Sys2Proof.Machine

open Sys2Proof Sys2Proof.Machine

/-- Settles O52: each operation runs alone (`ezMgmt_alone`), its status is the first failed check of its code, and only one that passes
acts. -/
theorem easelLockProfileAndAdmit : Obligations.EaselLockProfileAndAdmit := by
  refine ⟨⟨execEzLock_locks, fun f s r w h hr hn hw => ?_⟩, fun f s r w v h hr hn hw => ?_⟩
  · obtain ⟨u, o, b, e⟩ := execEzProfile_alone h hr hn.1 hw
    obtain ⟨hops, hprof, hlocks, hsame⟩ := b.ended (v := u.profiled o) (st := u.profileCode o) (State.profiled_ez _ _)
    obtain ⟨htree, ⟨hpanels, -, -⟩, hpins⟩ := hsame hn.2
    obtain ⟨hktree, hkpins, hklocks⟩ := State.profiled_kept u o
    refine ⟨_, _, e, hlocks.trans (hklocks.trans b.locks), b.tree.trans (hktree.trans htree), b.pins.trans (hkpins.trans hpins), hops,
      b.ring, ?_⟩
    simp only [State.panel, hpanels, hprof, MOp.ended]
    refine ⟨fun hp => ?_, fun hp h1 h2 => ?_, fun hp h1 hx => ?_, fun hp h1 hx => ?_, fun hp h2 => ?_⟩
    · have hc : u.profileCode o = 2 := by rw [b.profileCode, if_pos hp]
      exact ⟨congrArg some hc, b.profiled_failed hc (by decide)⟩
    · have hc : u.profileCode o = 3 := by rw [b.profileCode, if_neg (not_not.2 hp), if_pos ⟨h1, h2⟩]
      exact ⟨congrArg some hc, hp ▸ b.profiled_failed hc (by decide)⟩
    · have hc : u.profileCode o = 4 := by rw [b.profileCode, if_neg (not_not.2 hp), if_neg (by simp [h1]), if_pos ⟨h1, hx⟩]
      exact ⟨congrArg some hc, hp ▸ b.profiled_failed hc (by decide)⟩
    · have hc : u.profileCode o = 1 := by rw [b.profileCode, if_neg (not_not.2 hp), if_neg (by simp [h1]), if_neg (by omega)]
      obtain ⟨hset, hres⟩ := b.profiled hc
      simp only [h1, if_true] at hset hres
      exact ⟨congrArg some hc, hset, hres⟩
    · have hc : u.profileCode o = 1 := by rw [b.profileCode, if_neg (not_not.2 hp), if_neg (by simp [h2]), if_neg (by simp [h2])]
      obtain ⟨hset, hres⟩ := b.profiled hc
      rw [h2, if_neg (by decide)] at hres
      exact ⟨congrArg some hc, hset.trans h2, hres⟩
  · intro n a limit sit x used
    obtain ⟨u, o, b, e⟩ := execEzAdmit_alone h hr hn.1 hw
    obtain ⟨hops, hprof, hlocks, hsame⟩ := b.ended (v := u.admittedBy o) (st := u.admitCode o) (State.admittedBy_ez _ _)
    obtain ⟨⟨hports, hrouters, hnet⟩, ⟨hpanels, hmps, -⟩, ⟨-, houts⟩⟩ := hsame hn.2
    obtain ⟨hknet, hkrouters, hkmps, hkhost, hkport⟩ := State.admittedBy_kept u o
    have hslot : o.word 0 % 256 = n := by rw [MOp.word_of_words b.words 0]; exact toNat_mod_two_pow w 8
    have hused : (s.slotOfAgent a).isSome = true ↔ used := s.slotOfAgent_isSome a
    have hport (m : Nat) : (((u.admittedBy o).opDone o.ring (u.admitCode o)).fillMgt.ezBegin).port m = (u.admittedBy o).port m := by
      rw [State.port, hports]; rfl
    refine ⟨_, _, e, hops, b.ring, fun m hm => ?_, hnet.trans (hknet.trans b.tree.2.2), hrouters.trans (hkrouters.trans b.tree.2.1),
      hmps.trans (hkmps.trans b.homes.2.1), ?_, ?_, fun st hst hne => ?_, ?_⟩
    · rw [hport, hkport m (hslot ▸ hm), b.port]
    · rw [hprof, hkhost, b.prof]
    · rw [hlocks, hkhost, b.locks]
    · have hu : u.admittedBy o = u := State.admittedBy_of_failed (Option.some.inj hst ▸ hne)
      rw [hport, houts, hpanels, hu]
      exact ⟨b.port n, b.pins.2, b.homes.1⟩
    simp only [hport, houts, MOp.ended, ← hused]
    have hcode : u.admitCode o = if s.host.prof = 0 then 2 else if x.lstate ≠ .ready then 3 else if ¬ s.capacityOk n then 4
        else if (s.slotOfAgent a).isSome then 5 else if sit < x.maxSit then 6 else if limit < 8 ∨ 4096 < limit then 7 else 1 :=
      b.admitCode
    refine ⟨fun hp => ?_, fun hp hx => ?_, fun hp hx hk => ?_, fun hp hx hk hu => ?_, fun hp hx hk hu hs => ?_,
      fun hp hx hk hu hs hm => ?_, fun hp hx hk hu hs hm hM => ?_⟩
    · rw [hcode, if_pos hp]
    · rw [hcode, if_neg hp, if_pos hx]
    · rw [hcode, if_neg hp, if_neg (not_not.2 hx), if_pos (by simp [hk])]
    · rw [hcode, if_neg hp, if_neg (not_not.2 hx), if_neg (by simp [hk]), if_pos hu]
    · rw [hcode, if_neg hp, if_neg (not_not.2 hx), if_neg (by simp [hk]), if_neg hu, if_pos hs]
    · rw [hcode, if_neg hp, if_neg (not_not.2 hx), if_neg (by simp [hk]), if_neg hu, if_neg (by omega), if_pos hm]
    · have hc : u.admitCode o = 1 := by
        rw [hcode, if_neg hp, if_neg (not_not.2 hx), if_neg (by simp [hk]), if_neg hu, if_neg (by omega), if_neg (by omega)]
      obtain ⟨y, hy, h'⟩ := b.admitted h.1 hc (n := n) rfl
      rw [hy]
      exact ⟨congrArg some hc, h'⟩
end

section
/-! Obligation O24, refuted. A panel decodes with the first lookaside entry that holds an address, and moves the entry it used to the
front (R256). The statement takes any lookaside, also one with two entries that hold the same address; there the decode of a request
changes what its victim's line decodes to, and the victim is written at another port than the one its region named before. -/

namespace Sys2Proof.Machine

/-- A port of a caching agent of partition 3. -/
def overlapPort : Port := { lstate := .admitted, agent := 5, part := 3, limit := 100, mode := { kind := 1 }, rst := false }

/-- A coherent region from address 0, served by memory port 1. -/
def wideRegion : Attr :=
  { idx := 0, base := 0, size := 40, kind := 0, home := 0, ports := 2, gran := 0, code := false, nospec := false, world := 1 }

/-- A RdS for line 28, and the HTC that has taken it to D2. -/
def overlapRdS : Packet := { hdr := { cls := cREQ, opc := oRdS, prio := 2, src := 5, tag := 9, addr := 28, part := 3, size := 6 } }

def overlapHtc : Htc := { job := .req, pool := 0, phase := .decide, seq := 3, acc := 9, start := 79998, pkt := overlapRdS, line := 28 }

/-- A full set of lines at the home; the one in way 9 is the oldest. -/
def overlapSet (w : Nat) : Ent := if w = 9 then { tag := 3, st := 8, agent := 3, age := 1 } else { tag := 10 + w, st := 8, agent := 20 }

/-- The block at work, panel 0 as given. -/
def overlapBlock (n : Panel) : State :=
  { build := { p := 2, setsK := 16, psets := 0, memPorts := 2, leaves := some (0, 8) :: List.replicate 31 none }
    clk := { cyc := 80000, initBusy := false }, ports := [(0, overlapPort)], panels := [(0, n)] }

/-- The line of way 9. -/
def overlapLine : Nat := (overlapBlock {}).unhash 0 7 3

/-- Its proxy slot. -/
def overlapProxy : Proxy := { line := overlapLine, data := 55 }

/-- A region of 64 KiB around that line inside the other one, served by memory port 0. -/
def narrowRegion : Attr := { wideRegion with idx := 1, base := overlapLine * 64 / 65536 * 65536, size := 16, ports := 1 }

/-- Panel 0 with both regions in its lookaside, and a RdS of the wide one at its D2. -/
def overlapState : State := overlapBlock
  { dir := (List.range 16).map fun w => (7 * 16 + w, (overlapSet w).enc), look := [narrowRegion, wideRegion],
    htcs := [(4, overlapHtc)], proxy := [(3, overlapProxy)] }

theorem overlapState_decides : overlapState.takes 0 ∧ overlapState.decides 0 4 overlapHtc overlapRdS wideRegion overlapSet := by
  unfold State.takes State.acts State.decides State.atD2 Panel.calm State.setReads
  decide +kernel

theorem overlapSet_sooner : ∀ v, v < 16 → v ≠ 9 → Sooner (overlapSet 9) (overlapSet v) 9 v := by
  simp only [Sooner]; decide +kernel

theorem overlapState_chooses : overlapState.chooses 0 4 overlapRdS overlapSet 9 overlapLine := by
  have hfull : ∀ v, v < 16 → (overlapSet v).st ≠ 0 ∧ (overlapSet v).tag ≠ (overlapState.hash overlapRdS.hdr.addr).tag := by decide +kernel
  refine ⟨fun v hv => .inl (hfull v hv), by decide +kernel, fun v hne hmay => overlapSet_sooner v hmay.1 hne, by decide +kernel⟩

theorem overlapState_holds : overlapState.holds 0 (overlapSet 9) 0 := by
  refine ⟨fun h => absurd h (by decide), fun _ => rfl, fun h => absurd h (by decide)⟩

/-- Before the decision the victim's line is in the narrow region. -/
theorem overlapState_region : (overlapState.px 0 {}).regOf overlapLine = some narrowRegion ∧ narrowRegion.port (overlapLine * 64) = 0 := by
  decide +kernel

/-- Memory port 0 gets nothing of the decision: the victim is written at port 1. -/
theorem overlapState_run {t : State} (h : exec (.htcStartQueued 0 4 {}) overlapState = .next t) :
    smGet [] (t.panel 0).memOut 0 = [] := by
  have hrun : (match exec (.htcStartQueued 0 4 {}) overlapState with
    | .next u => smGet [] (u.panel 0).memOut 0
    | _ => []) = [] := by decide +kernel
  rwa [h] at hrun

end Sys2Proof.Machine

open Sys2Proof Sys2Proof.Machine

/-- Refutes O24: at a lookaside with two entries that hold the victim's line, a RdS of the second entry's region moves that entry to the
front, and the victim in H is written at its port, not at the port of the region that the line decoded to before. -/
theorem not_requestsAcceptedAndDecided : ¬ Obligations.RequestsAcceptedAndDecided := by
  rintro ⟨-, -, hrows⟩
  obtain ⟨htakes, hdecides⟩ := overlapState_decides
  obtain ⟨-, -, hvictim⟩ := hrows _ _ _ _ _ _ _ htakes hdecides
  obtain ⟨-, hhome⟩ := hvictim 9 0 overlapLine overlapState_chooses (by decide) overlapState_holds (by decide) (by decide)
  obtain ⟨hregion, hport⟩ := overlapState_region
  obtain ⟨t, qs, q, q2, ⟨⟨hrun, -⟩, -⟩, -, -, -, -, -, hout⟩ :=
    hhome overlapProxy narrowRegion rfl (by decide) rfl rfl rfl hregion
  have h0 := hout 0
  rw [overlapState_run hrun, hport] at h0
  simp at h0
end

section
/-! SUPPORT. A command that takes one message from a panel's input: what it leaves as it was, and where the panel stands after it. The
panel's own step is a function of its context (`PX`), so that what a message does is a fact about that function alone. -/

namespace Sys2Proof.Machine

variable {s : State} {p cls opc : Nat} {k : Packet}

/-! ### Effects that only count -/

/-- The effect only counts a panel event (R502). -/
def Eff.counts : Eff → Prop
  | .event _ _ _ => True
  | _ => False

theorem PanelFrame.refl (s : State) (p : Nat) : PanelFrame s s p := by simp [PanelFrame, SameBase, SamePins]

theorem PanelFrame.trans {t u : State} (h : PanelFrame s t p) (g : PanelFrame t u p) : PanelFrame s u p := by
  simp only [PanelFrame, SameBase, SamePins] at *
  simp_all

/-- From `s` to `t` nothing changes but the counters of space 0x4. -/
structure Counted (s t : State) : Prop where
  frame : ∀ p, PanelFrame s t p
  net : t.net = s.net
  panels : t.panels = s.panels

theorem Counted.refl (s : State) : Counted s s := ⟨.refl s, rfl, rfl⟩

theorem Counted.trans {t u : State} (h : Counted s t) (g : Counted t u) : Counted s u :=
  ⟨fun p => (h.frame p).trans (g.frame p), g.net.trans h.net, g.panels.trans h.panels⟩

theorem Counted.ctr4 (s : State) (off n : Nat) : Counted s (s.ctr4 off n) := by
  refine ⟨fun p => ?_, by simp, by simp⟩
  simp [PanelFrame, SameBase, SamePins, State.panel]

theorem Counted.foldl {α : Type} {f : State → α → State} (hf : ∀ s a, Counted s (f s a)) (l : List α) (s : State) :
    Counted s (l.foldl f s) := by
  induction l generalizing s with
  | nil => exact .refl s
  | cons a l ih => exact (hf s a).trans (ih _)

theorem Counted.ite {t u : State} {c : Prop} [Decidable c] (ht : Counted s t) (hu : Counted s u) : Counted s (if c then t else u) := by
  split
  · exact ht
  · exact hu

theorem Counted.pnEvent (s : State) (p code n : Nat) (w : Option (Nat × Nat)) : Counted s (s.pnEvent p code n w) :=
  .foldl (fun s _ => .ite (.ctr4 s _ _) (.refl s)) _ s

theorem Counted.effs {es : List Eff} (h : ∀ e ∈ es, e.counts) (s : State) : Counted s (es.foldl (applyEff p) s) := by
  induction es generalizing s with
  | nil => exact .refl s
  | cons e es ih =>
    obtain ⟨he, hes⟩ := List.forall_mem_cons.mp h
    cases e with
    | event code n w => exact (Counted.pnEvent s p code n w).trans (ih hes _)
    | _ => exact he.elim

/-- A step that only counts events puts its panel back, and leaves the rest. -/
theorem State.commitPx_counts (s : State) (p : Nat) {x : PX} (h : ∀ e ∈ x.effs, e.counts) :
    PanelFrame s (s.commitPx p x) p ∧ (s.commitPx p x).net = s.net ∧ (s.commitPx p x).panel p = x.pn := by
  obtain ⟨hf, hn, hp⟩ := Counted.effs (p := p) h { s with panels := smSet s.panels p x.pn }
  refine ⟨PanelFrame.trans ?_ (hf p), hn, ?_⟩
  · simp only [PanelFrame, SameBase, SamePins, and_self, true_and]
    exact fun q hq => smGet_smSet_ne _ _ _ hq
  · rw [State.commitPx, State.panel, hp, smGet_smSet_self]

/-! ### Taking a message -/

theorem State.atPanel_of_acts (h : s.acts p) (t : State) : s.atPanel p t = .next t := by
  obtain ⟨hp, ⟨hr, ho⟩, hf⟩ := h
  simp [State.atPanel, Clk.shut_of_open _ hr ho, hf, hp]

theorem State.atInput_of_takes (h : s.takes p) (t : State) : s.atInput p t = .next t := by
  simp [State.atInput, State.atPanel_of_acts h.1, h.2]

theorem State.took_take (s : State) (l : Loc) (c : Nat) : Took s (s.take l c) l c :=
  ⟨s.q_take l c, s.owed_take l c, fun _ _ h => ⟨s.q_take_ne h, State.owed_owe_ne _ h⟩⟩

/-- The context in which panel `p` acts on the message that it takes from its input of class `cls`. -/
def State.inputPx (s : State) (p cls : Nat) : PX := (s.take (.panelIn p) cls).px p {}

@[simp] theorem State.inputPx_pn (s : State) (p cls : Nat) : (s.inputPx p cls).pn = s.panel p := rfl
@[simp] theorem State.inputPx_p (s : State) (p cls : Nat) : (s.inputPx p cls).p = p := rfl
@[simp] theorem State.inputPx_effs (s : State) (p cls : Nat) : (s.inputPx p cls).effs = [] := rfl
@[simp] theorem State.inputPx_clk (s : State) (p cls : Nat) : (s.inputPx p cls).s.clk = s.clk := rfl
@[simp] theorem State.inputPx_hash (s : State) (p cls l : Nat) : (s.inputPx p cls).s.hash l = s.hash l := rfl
@[simp] theorem State.inputPx_dh (s : State) (p cls a : Nat) : (s.inputPx p cls).s.dh a = s.dh a := rfl

/-- A panel that takes the message at the head of an input, and in acting on it only counts events, stands as its step leaves it; its
buffer's credit is owed (R186). -/
theorem State.onHead_acts (ht : s.takes p) (hk : (s.q (.panelIn p) cls).head? = some k) (ho : k.hdr.opc = opc) {f : Packet → PX → PX}
    {x : PX} (hx : f k (s.inputPx p cls) = x) (he : ∀ e ∈ x.effs, e.counts) :
    ∃ t, s.atInput p (s.onHead p cls opc {} f) = .next t ∧ PanelFrame s t p ∧ Took s t (.panelIn p) cls ∧ t.panel p = x.pn := by
  obtain ⟨hf, hn, hp⟩ := (s.take (.panelIn p) cls).commitPx_counts p he
  have hrun : s.onHead p cls opc {} f = (s.take (.panelIn p) cls).commitPx p x := by
    simp only [State.onHead, State.headIs, hk, Option.filter, ho, decide_true, if_true, ← hx]
    rfl
  refine ⟨_, (State.atInput_of_takes ht _).trans (congrArg _ hrun), hf, ?_, hp⟩
  obtain ⟨hq, ho, hother⟩ := s.took_take (.panelIn p) cls
  simp only [Took, State.q, State.owed, hn] at hq ho hother ⊢
  exact ⟨hq, ho, hother⟩

/-! ### The HTC that a message names -/

theorem mem_smSet {α : Type} {m : SMap α} {i : Nat} {a : α} {e : Nat × α} (h : e ∈ smSet m i a) : e = (i, a) ∨ e ∈ m :=
  (mem_smIns i a _ e h).imp_right fun h => (List.mem_filter.mp h).1

theorem PX.named_of_find {x : PX} {i : Nat} {h : Htc} (hp : k.hdr.htc / 1024 = x.p) (hi : k.hdr.htc % 1024 = i)
    (hh : smFind x.pn.htcs i = some h) : x.named k = some (i, h) := by
  simp [PX.named, PX.htc?, hp, hi, hh]

@[simp] theorem PX.setHtc_effs (x : PX) (i : Nat) (h : Htc) : (x.setHtc i h).effs = x.effs := rfl
@[simp] theorem PX.setHtc_pn (x : PX) (i : Nat) (h : Htc) : (x.setHtc i h).pn = { x.pn with htcs := smSet x.pn.htcs i h } := rfl
@[simp] theorem PX.eff_effs (x : PX) (e : Eff) : (x.eff e).effs = x.effs ++ [e] := rfl
@[simp] theorem PX.eff_pn (x : PX) (e : Eff) : (x.eff e).pn = x.pn := rfl
@[simp] theorem PX.eff_s (x : PX) (e : Eff) : (x.eff e).s = x.s := rfl

/-- The HTC is neither a set sweep that waits for other HTCs nor a barrier copy in COLLECT. -/
def Htc.calm (h : Htc) : Prop := ¬ (h.job = .sweep ∧ h.phase = .decide) ∧ ¬ (h.job = .ebar ∧ h.phase = .collect)

theorem Panel.calm.setHtc {n : Panel} (hn : n.calm) {i : Nat} {h : Htc} (hh : h.calm) :
    Panel.calm { n with htcs := smSet n.htcs i h } := by
  intro e he
  rcases mem_smSet he with rfl | he
  · exact hh
  · exact hn e he

theorem PX.pumpSweeps_of_calm {x : PX} (h : x.pn.calm) : x.pumpSweeps = x := by
  have hnone : (x.pn.htcs.filter fun e => e.2.job = .sweep ∧ e.2.phase = .decide) = [] :=
    List.filter_eq_nil_iff.mpr fun e he => by simpa using (h e he).1
  rw [PX.pumpSweeps, hnone, List.foldl_nil]

theorem PX.pumpEbar_of_calm {x : PX} (h : x.pn.calm) : x.pumpEbar = x := by
  have hnone : (x.pn.htcs.filter fun e => e.2.job = .ebar ∧ e.2.phase = .collect) = [] :=
    List.filter_eq_nil_iff.mpr fun e he => by simpa using (h e he).2
  rw [PX.pumpEbar, hnone, List.foldl_nil]

/-- At a calm panel nothing follows an HTC that ends its step calm. -/
theorem PX.pumps_setHtc {x : PX} (hx : x.pn.calm) (i : Nat) {h : Htc} (hh : h.calm) :
    (x.setHtc i h).pumpSweeps.pumpEbar = x.setHtc i h := by
  have hc : (x.setHtc i h).pn.calm := hx.setHtc hh
  rw [PX.pumpSweeps_of_calm hc, PX.pumpEbar_of_calm hc]

/-- A panel whose step ends by storing one HTC: the arrays, what it sends and what it asks of memory stay, and so do the other HTCs. -/
theorem panel_setHtc {t : State} {x : PX} {i : Nat} {h : Htc} (ht : t.panel p = (x.setHtc i h).pn) (hx : x.pn = s.panel p) :
    SameArrays s t p ∧ OtherHtcs s t p i ∧ Sent s t p [] ∧ (t.panel p).memOut = (s.panel p).memOut ∧
      smFind (t.panel p).htcs i = some h := by
  rw [PX.setHtc_pn, hx] at ht
  simp only [SameArrays, OtherHtcs, Sent, ht, List.append_nil, smFind_smSet_self, and_self, true_and, and_true]
  exact fun j hj => smFind_smSet_ne _ _ hj

end Sys2Proof.Machine
end

section
/-! SUPPORT. Reading a directory set whose words are free of errors (R49 to R51, R407). -/

namespace Sys2Proof.Machine

/-- Way `w` of a set reads, free of errors, as `e`, whose STATE is not reserved. -/
def PX.wayClean (x : PX) (set w : Nat) (e : Ent) : Prop :=
  ∃ d, strongDec 56 (x.rawWay set w).toNat = .ok d ∧ Ent.ofPay d = e ∧ e.st ≤ 8

@[simp] theorem Ent.canon_st (e : Ent) : e.canon.st = e.st := rfl
@[simp] theorem Ent.canon_tag (e : Ent) : e.canon.tag = e.tag := rfl

theorem PX.readWay_clean {x : PX} {set w : Nat} {e : Ent} (h : x.wayClean set w e) (me : Nat) (wp : Option (Nat × Nat))
    (l : List (Nat × Ent)) :
    x.readWay me set wp (x, { ents := l, bad := false }) w = (x, { ents := l ++ [(w, e.canon)], bad := false }) := by
  obtain ⟨d, hd, rfl, hst⟩ := h
  simp only [PX.readWay, hd, if_neg (Nat.not_lt.mpr hst)]

/-- A read that finds no error changes nothing, and delivers every way. -/
theorem PX.readSet_clean {x : PX} {set : Nat} {es : Nat → Ent} (h : ∀ w, w < 16 → x.wayClean set w (es w)) (me : Nat)
    (wp : Option (Nat × Nat)) :
    x.readSet me set wp = (x, { ents := (List.range 16).map fun w => (w, (es w).canon), bad := false }) := by
  have hfold : ∀ l : List Nat, (∀ w ∈ l, w < 16) → ∀ acc,
      l.foldl (fun r way => x.readWay me set wp r way) (x, { ents := acc, bad := false }) =
        (x, { ents := acc ++ l.map fun w => (w, (es w).canon), bad := false }) := by
    intro l
    induction l with
    | nil => simp
    | cons w l ih =>
      intro hl acc
      obtain ⟨hw, hl⟩ := List.forall_mem_cons.mp hl
      rw [List.foldl_cons, PX.readWay_clean (h w hw), ih hl]
      simp
  exact hfold _ (fun w hw => List.mem_range.mp hw) []

/-- The first way of a set that passes a test. -/
theorem find?_ways {f : Nat → Ent} {P : Nat × Ent → Bool} {w : Nat} (hw : w < 16) (hP : P (w, f w) = true)
    (hfirst : ∀ v, v < w → P (v, f v) = false) : ((List.range 16).map fun v => (v, f v)).find? P = some (w, f w) := by
  have hfind : (List.range 16).find? (P ∘ fun v => (v, f v)) = some w :=
    List.find?_range_eq_some.mpr ⟨hP, List.mem_range.mpr hw, fun v hv => by simp [hfirst v hv]⟩
  rw [List.find?_map, hfind, Option.map_some]

/-- The context of a message's step reads the directory as the state does. -/
theorem State.setReads.inputPx {s : State} {p set : Nat} {es : Nat → Ent} (h : s.setReads p set es) (cls w : Nat) (hw : w < 16) :
    (s.inputPx p cls).wayClean set w (es w) := by
  obtain ⟨hway, hst⟩ := h w hw
  have hraw : (s.inputPx p cls).rawWay set w = smGet (Config.freeDir s.nonce p (wayIdx set w)) (s.panel p).dir (wayIdx set w) :=
    BitVec.xor_zero
  unfold State.wayOf at hway
  split at hway
  case h_1 d hd => exact ⟨d, by rw [hraw, hd], Option.some.inj hway, hst⟩
  case h_2 => cases hway

end Sys2Proof.Machine
end

section
/-! SUPPORT. What a panel does with a DirtyHint, a SnpAck and a CompAck (R99, R114 to R116, R130, R133): the HTC, or the way, that it
stores, and that it does nothing else. -/

namespace Sys2Proof.Machine

variable {s : State} {p i : Nat} {k : Packet} {h : Htc} {x : PX}

/-! ### A set of one agent -/

theorem onesN_two_pow (n a : Nat) : onesN n (2 ^ a) = if a < n then 1 else 0 := by
  induction n generalizing a with
  | zero => rfl
  | succ n ih =>
    cases a with
    | zero =>
      have hzero : ∀ m, onesN m 0 = 0 := fun m => by induction m <;> simp_all [onesN]
      simp [onesN, hzero]
    | succ a => simp [onesN, Nat.pow_succ, ih]

theorem popc_vbit {a : Nat} (ha : a < 256) : popc (vbit a) = 1 := by
  have hnat : (vbit a).toNat = 2 ^ a := by
    rw [vbit, BitVec.toNat_shiftLeft, Nat.mod_eq_of_lt]
    · simp [Nat.shiftLeft_eq]
    · simpa [Nat.shiftLeft_eq] using Nat.pow_lt_pow_right (by decide) ha
  rw [popc, hnat, onesN_two_pow, if_pos ha]

theorem getLsbD_vbit {a b : Nat} (hb : b < 256) : (vbit a).getLsbD b = decide (b = a) := by
  simp only [vbit, BitVec.getLsbD_shiftLeft, BitVec.getLsbD_one, hb]
  by_cases hba : b = a
  · simp [hba]
  · simp [hba]; omega

theorem lowest_vbit {a : Nat} (ha : a < 256) : lowest (vbit a) = some a :=
  List.find?_range_eq_some.mpr ⟨by simp [getLsbD_vbit ha], List.mem_range.mpr ha, fun v hv => by
    simp [getLsbD_vbit (Nat.lt_trans hv ha), Nat.ne_of_lt hv]⟩

/-! ### DirtyHint -/

theorem PX.headOf_of_idle {l : Nat} (hidle : ∀ e ∈ x.pn.htcs, e.2.onLine l = false) : x.headOf l = none := by
  have hnone (P : Nat × Htc → Bool) (hP : ∀ e, e.2.onLine l = false → P e = false) : x.pn.htcs.find? P = none :=
    List.find?_eq_none.mpr fun e he => by simp [hP e (hidle e he)]
  rw [PX.headOf, hnone _ fun e he => by simp [he], hnone _ fun e he => by simp [he]]
  rfl

/-- The hint of the holder makes U-clean U-dirty; that of another agent changes nothing (R130). -/
theorem PX.hint_clean {es : Nat → Ent} {w : Nat} (hidle : ∀ e ∈ x.pn.htcs, e.2.onLine k.hdr.addr = false)
    (hread : ∀ v, v < 16 → x.wayClean (x.s.hash k.hdr.addr).set v (es v)) (hw : w < 16) (hst : (es w).st = 2)
    (htag : (es w).tag = (x.s.hash k.hdr.addr).tag)
    (hone : ∀ v, v < 16 → v ≠ w → ¬ ((es v).st = 2 ∧ (es v).tag = (x.s.hash k.hdr.addr).tag)) :
    x.hint k = if (es w).agent = k.hdr.src then x.setWay (x.s.hash k.hdr.addr).set w { es w with st := 3 } else x := by
  have hfind := find?_ways (f := fun v => (es v).canon)
    (P := fun e => decide (e.2.st = 2) && decide (e.2.tag = (x.s.hash k.hdr.addr).tag)) hw (by simp [hst, htag])
    fun v hv => by
      simp only [Bool.and_eq_false_iff, decide_eq_false_iff_not]
      exact not_and_or.mp (hone v (by omega) (by omega))
  have hagent : (es w).canon.agent = (es w).agent := by simp [Ent.canon, hst]
  have hcanon : ({ (es w).canon with st := 3 } : Ent).canon = ({ es w with st := 3 } : Ent).canon := by simp [Ent.canon, hst]
  have hset : x.setWay (x.s.hash k.hdr.addr).set w { (es w).canon with st := 3 } =
      x.setWay (x.s.hash k.hdr.addr).set w { es w with st := 3 } := by rw [PX.setWay, PX.setWay, hcanon]
  simp only [PX.hint, PX.headOf_of_idle hidle, Bool.false_eq_true, if_false, PX.readSet_clean hread, hfind]
  exact if_congr (by rw [hagent]) hset rfl

/-! ### SnpAck -/

/-- HTC `h` after an acknowledgement that answers no owner snoop and does not exceed its EXPECT, in HCLK `cyc` (R133, R507). -/
def Htc.addAck (h : Htc) (k : Packet) (cyc : Nat) : Htc :=
  { h with sum := min (h.sum + k.hdr.tag % 512) h.expect, acked := h.acked ||| k.vec }.stamp 5 cyc true

theorem Htc.addAck_eq (h : Htc) (k : Packet) (cyc : Nat) (hle : h.sum + k.hdr.tag % 512 ≤ h.expect) :
    h.addAck k cyc = { h with sum := h.sum + k.hdr.tag % 512, acked := h.acked ||| k.vec, stamps := smSet h.stamps 5 cyc } := by
  simp [Htc.addAck, Htc.stamp, hle]

/-- An acknowledgement that does not exceed its HTC's EXPECT is counted as an event, and added to the sum (R133). -/
theorem PX.snpAck_counts (hn : x.named k = some (i, h)) (hc : h.counting = true) (how : ¬ (h.ow = some k.hdr.src ∧ h.owAck = false))
    (hle : h.sum + k.hdr.tag % 512 ≤ h.expect) :
    x.snpAck k = (x.eff (.event 0x0D (k.hdr.tag % 512) h.wp)).advance i (h.addAck k x.s.clk.cyc) := by
  have how' : ¬ (h.ow = some k.hdr.src ∧ ¬ h.owAck = true) := by simpa using how
  have hno : ¬ (h.expect < h.sum + k.hdr.tag % 512 ∧ k.hdr.src < 256) := fun hx => by omega
  simp only [PX.snpAck, hn, hc, not_true_eq_false, if_false, if_neg how', if_neg hno]
  rfl

/-- A request in COLLECT waits for the rest of its acknowledgements (R113). -/
theorem PX.advance_waits (hx : x.pn.calm) (hj : h.job = .req) (hp : h.phase = .collect) (ht : h.tabled = true) (hm : h.multi = false) :
    x.advance i h = x.setHtc i h := by
  have hstep : x.collectStep i h = x.setHtc i h := by simp [PX.collectStep, hm]
  simp only [PX.advance, hj, hp, ht, if_true, hstep]
  exact PX.pumps_setHtc hx i (by simp [Htc.calm, hj])

/-- The last acknowledgement of a narrowing restarts the time of its CLOSE (R112). -/
theorem PX.advance_close {g : Htc} (hx : x.pn.calm) (hj : h.job ≠ .sweep) (hp : h.phase = .close) (hm : h.multi = true)
    (hg : smFind x.pn.htcs i = some g) (hgm : g.multi = false) : x.advance i h = x.setHtc i { h with closeAt := x.s.clk.cyc } := by
  have hlate : (h.multi && (x.htc? i).any fun g : Htc => !g.multi) = true := by simp [PX.htc?, hm, hg, hgm]
  have hadvance : x.advance i h = (x.setHtc i { h with closeAt := x.s.clk.cyc }).pumpSweeps.pumpEbar := by
    unfold PX.advance
    cases hjob : h.job with
    | sweep => exact absurd hjob hj
    | _ => simp only [hp, hlate, if_true]
  rw [hadvance, PX.pumps_setHtc hx i (by simp [Htc.calm, hp])]

/-! ### CompAck -/

/-- A CompAck that its request waits for moves the request on (R114). -/
theorem PX.compAck_granted (hn : x.named k = some (i, h)) (hj : h.job = .req) (hp : h.phase = .grant) (ho : h.pkt.hdr.opc ≤ 3)
    (hsrc : h.pkt.hdr.src = k.hdr.src) (hc : h.cack = none) (hm : k.hdr.marks ∈ [1, 2, 3, 4]) :
    x.compAck k = x.advance i { h with cack := some k.hdr.marks } := by
  simp [PX.compAck, hn, hj, hp, hsrc, hc, hm, Nat.not_lt.mpr ho]

theorem PX.advance_granted (hj : h.job = .req) (hp : h.phase = .grant) : x.advance i h = (x.grantStep i h).pumpSweeps.pumpEbar := by
  simp only [PX.advance, hj, hp]

/-- GRANT ends when the CompAck is here and nothing is owed (R114). -/
theorem PX.grantStep_ends (hd : h.plan.dsrc ≠ 2) (hdone : h.owDone = true) (hc : h.cack.isSome = true) (ht : h.tabled = true) :
    x.grantStep i h = x.closeReq i h := by
  have howes : h.owes = false := by simp [Htc.owes, hd]
  simp [PX.grantStep, howes, hdone, hc, ht]

/-- The entry of a line whose only holder is the requester of `h`, by the part that its CompAck gives it (R116). -/
def PX.soleEnt (x : PX) (h : Htc) : Ent :=
  { st := if h.rqPart = 3 then x.rqState h else if h.rqPart = 2 then 6 else 4, agent := h.pkt.hdr.src }

/-- HTC `h` in CLOSE from HCLK `cyc` on, with the entry it is to write and nobody to invalidate (R112). -/
def Htc.closed (h : Htc) (fin : Ent) (cyc : Nat) : Htc :=
  { h with bufs := 0, ow := none, owAck := true, expect := 0, sum := 0, tset := 0, acked := 0, phase := .close, fin := fin, closeAt := cyc }

theorem PX.startClose_quiet (fin : Ent) : x.startClose i h fin 0 = x.setHtc i (h.closed fin x.s.clk.cyc) := rfl

theorem Htc.rqPart_cases (h : Htc) : h.rqPart = 0 ∨ h.rqPart = 1 ∨ h.rqPart = 2 ∨ h.rqPart = 3 := by
  unfold Htc.rqPart
  grind

/-- CLOSE of a request at an untracked line, whose requester takes a part in it: the entry names the requester alone (R116). -/
theorem PX.closeReq_sole {comp : Nat} (hd : h.deadRq = false) (how : h.ow = none) (he : h.ent = {}) (hpal : h.oldPal = none)
    (hplan : h.plan = { comp := comp, dsrc := 0 }) (hrq : h.rqPart ≠ 0) (hsrc : h.pkt.hdr.src < 256) :
    x.closeReq i h = x.startClose i h (x.soleEnt h) 0 := by
  have hown : (if comp = 0 then Ent.owner {} else Option.none.or (Ent.owner {})) = none := by simp [Ent.owner, isU, isO]
  have hform (o : Option Nat) : x.formEnt none o (vbit h.pkt.hdr.src) (x.setOf h.line) h.wp =
      (x, { st := if o.isSome then 6 else 4, agent := h.pkt.hdr.src }, 0) := by
    simp [PX.formEnt, popc_vbit hsrc, lowest_vbit hsrc]
  unfold PX.closeReq PX.soleEnt
  simp only [hd, how, he, hpal, hplan, hown]
  rcases h.rqPart_cases with h0 | h1 | h2 | h3
  · exact absurd h0 hrq
  · simp [h1, hform, -BitVec.reduceNot, -BitVec.reduceAllOnes]
  · simp [h2, hform, -BitVec.reduceNot, -BitVec.reduceAllOnes]
  · simp [h3]

end Sys2Proof.Machine
end

section
/-! Obligation O28: DirtyHint, SnpAck and CompAck at the home. -/

namespace Sys2Proof.Machine

variable {s : State} {p : Nat} {k : Packet} {h : Htc}

/-- A DirtyHint at an idle line whose set reads free of errors (R130). -/
theorem execDirtyhint_clean {es : Nat → Ent} {w : Nat} (ht : s.takes p) (hk : (s.q (.panelIn p) cRSP).head? = some k)
    (ho : k.hdr.opc = oDirtyHint) (hidle : ∀ e ∈ (s.panel p).htcs, e.2.onLine k.hdr.addr = false)
    (hread : s.setReads p (s.hash k.hdr.addr).set es) (hw : w < 16) (hst : (es w).st = 2) (htag : (es w).tag = (s.hash k.hdr.addr).tag)
    (hone : ∀ v, v < 16 → v ≠ w → ¬ ((es v).st = 2 ∧ (es v).tag = (s.hash k.hdr.addr).tag)) :
    ∃ t, exec (.dirtyhint p {}) s = .next t ∧ PanelFrame s t p ∧ Took s t (.panelIn p) cRSP ∧
      t.panel p = if (es w).agent = k.hdr.src then
          { s.panel p with dir := smSet (s.panel p).dir ((s.hash k.hdr.addr).set * 16 + w) ({ es w with st := 3 } : Ent).canon.enc }
        else s.panel p := by
  have hhint := PX.hint_clean (x := s.inputPx p cRSP) hidle (hread.inputPx cRSP) hw hst htag hone
  obtain ⟨t, hrun, hframe, htook, hpanel⟩ := State.onHead_acts (f := fun k x => x.hint k) ht hk ho hhint
    (by split <;> exact List.forall_mem_nil _)
  exact ⟨t, hrun, hframe, htook, hpanel.trans (apply_ite PX.pn ..)⟩

/-- A SnpAck that adds to the sum of its HTC, where the HTC then only stores itself as `g` (R133). -/
theorem execSnpack_counts {mgt : Bool} {g : Htc} (ht : s.takes p) (hk : (s.q (.panelIn p) (if mgt then cMGT else cRSP)).head? = some k)
    (ho : k.hdr.opc = (if mgt then 32 + oSnpAck else oSnpAck)) (hp : k.hdr.htc / 1024 = p)
    (hh : smFind (s.panel p).htcs (k.hdr.htc % 1024) = some h) (hc : h.counting = true)
    (how : ¬ (h.ow = some k.hdr.src ∧ h.owAck = false)) (hle : h.sum + k.hdr.tag % 512 ≤ h.expect)
    (hadvance : ∀ x : PX, x.pn = s.panel p → x.s.clk = s.clk →
      x.advance (k.hdr.htc % 1024) (h.addAck k s.clk.cyc) = x.setHtc (k.hdr.htc % 1024) g) :
    ∃ t, exec (.snpack p mgt {}) s = .next t ∧ (PanelFrame s t p ∧ Took s t (.panelIn p) (if mgt then cMGT else cRSP) ∧
      SameArrays s t p ∧ OtherHtcs s t p (k.hdr.htc % 1024) ∧ Sent s t p [] ∧ (t.panel p).memOut = (s.panel p).memOut) ∧
      smFind (t.panel p).htcs (k.hdr.htc % 1024) = some g := by
  let x := (s.inputPx p (if mgt then cMGT else cRSP)).eff (.event 0x0D (k.hdr.tag % 512) h.wp)
  have hstep : (s.inputPx p (if mgt then cMGT else cRSP)).snpAck k = x.setHtc (k.hdr.htc % 1024) g :=
    (PX.snpAck_counts (PX.named_of_find hp rfl hh) hc how hle).trans (hadvance x rfl rfl)
  obtain ⟨t, hrun, hframe, htook, hpanel⟩ := State.onHead_acts (f := fun k x => x.snpAck k) ht hk ho hstep (by simp [x, Eff.counts])
  obtain ⟨harr, hother, hsent, hmem, hg⟩ := panel_setHtc hpanel rfl
  exact ⟨t, hrun, ⟨hframe, htook, harr, hother, hsent, hmem⟩, hg⟩

/-- The requester's part in its line, by the MARKS of its CompAck (R116). -/
theorem Htc.rqPart_of_cack {m : Nat} (hd : h.deadRq = false) (hc : h.cack = some m) (hm : m ∈ [1, 2, 3, 4]) :
    h.rqPart = if m = 4 then 2 else if m = 1 then 1 else 3 := by
  simp only [List.mem_cons, List.not_mem_nil, or_false] at hm
  rcases hm with rfl | rfl | rfl | rfl <;> simp [Htc.rqPart, hd, hc]

/-- The entry that a CompAck gives its line's only holder, by its MARKS (R100, R116). -/
theorem PX.soleEnt_of_cack (x : PX) {m st : Nat} (hd : h.deadRq = false) (hc : h.cack = some m) (hhint : h.hint = false)
    (hclean : h.plan.wasDirty = false)
    (hm : (m, st) ∈ [(1, 4), (2, if x.s.dh h.pkt.hdr.src then 2 else 1), (3, if x.s.dh h.pkt.hdr.src then 3 else 1), (4, 6)]) :
    (x.soleEnt h).st = st := by
  have hpart := Htc.rqPart_of_cack hd hc
  simp only [List.mem_cons, List.not_mem_nil, or_false, Prod.mk.injEq] at hm
  rcases hm with ⟨rfl, rfl⟩ | ⟨rfl, rfl⟩ | ⟨rfl, rfl⟩ | ⟨rfl, rfl⟩ <;>
    simp [PX.soleEnt, hpart, PX.rqState, PX.uState, hc, hhint, hclean]

/-- HTC `h` waits in GRANT for the CompAck of a request whose line nobody held, and for nothing else (R114). -/
structure Htc.SoleGrant (h : Htc) : Prop where
  job : h.job = .req
  phase : h.phase = .grant
  tabled : h.tabled = true
  opc : h.pkt.hdr.opc ≤ 3
  cack : h.cack = none
  alive : h.deadRq = false
  ow : h.ow = none
  done : h.owDone = true
  ent : h.ent = {}
  oldPal : h.oldPal = none
  hint : h.hint = false
  plan : ∃ comp, h.plan = { comp := comp, dsrc := 0 }

/-- The CompAck of the only holder of a line ends GRANT (R114, R116). -/
theorem execCompack_sole {i : Nat} (ht : s.takes p) (hcalm : (s.panel p).calm) (hk : (s.q (.panelIn p) cRSP).head? = some k)
    (ho : k.hdr.opc = oCompAck) (hsrc : k.hdr.src < 256) (hhtc : k.hdr.htc = p * 1024 + i) (hi : i < 1024)
    (hh : smFind (s.panel p).htcs i = some h) (hg : h.SoleGrant) (hrq : h.pkt.hdr.src = k.hdr.src) (hm : k.hdr.marks ∈ [1, 2, 3, 4]) :
  let g : Htc := { h with cack := some k.hdr.marks }
    ∃ t, exec (.compack p {}) s = .next t ∧ PanelFrame s t p ∧ Took s t (.panelIn p) cRSP ∧ SameArrays s t p ∧ OtherHtcs s t p i ∧
      Sent s t p [] ∧ (t.panel p).memOut = (s.panel p).memOut ∧
      smFind (t.panel p).htcs i = some (g.closed ((s.inputPx p cRSP).soleEnt g) s.clk.cyc) := by
  intro g
  obtain ⟨comp, hplan⟩ := hg.plan
  let x := s.inputPx p cRSP
  have hnamed : x.named k = some (i, h) := PX.named_of_find (by simp [x]; omega) (by omega) hh
  have hgrant : x.grantStep i g = x.closeReq i g :=
    PX.grantStep_ends (h := g) (by simp [g, hplan]) hg.done rfl hg.tabled
  have hpart : g.rqPart ≠ 0 := by
    rw [Htc.rqPart_of_cack (h := g) hg.alive rfl hm]
    split_ifs <;> decide
  have hclose : x.closeReq i g = x.setHtc i (g.closed (x.soleEnt g) s.clk.cyc) :=
    PX.closeReq_sole (h := g) hg.alive hg.ow hg.ent hg.oldPal hplan hpart (by simpa [g, hrq] using hsrc)
  have hstep : x.compAck k = x.setHtc i (g.closed (x.soleEnt g) s.clk.cyc) := by
    rw [PX.compAck_granted hnamed hg.job hg.phase hg.opc hrq hg.cack hm, PX.advance_granted (h := g) hg.job hg.phase, hgrant, hclose,
      PX.pumps_setHtc hcalm i (by simp [Htc.calm, Htc.closed])]
  obtain ⟨t, hrun, hframe, htook, hpanel⟩ := State.onHead_acts (f := fun k x => x.compAck k) ht hk ho hstep (List.forall_mem_nil _)
  exact ⟨t, hrun, hframe, htook, panel_setHtc hpanel rfl⟩

end Sys2Proof.Machine

open Sys2Proof Sys2Proof.Machine

/-- Settles O28: each of the three messages acts in one step of its panel, which stores one way (`PX.hint_clean`), or its HTC
(`PX.snpAck_counts`, `PX.closeReq_sole`), and nothing else. -/
theorem acknowledgementsAtTheHome : Obligations.AcknowledgementsAtTheHome := by
  intro s p i k h ht hcalm
  refine ⟨?_, ?_, ?_⟩
  · intro es w hm hk ho hidle hread hw hst htag hone
    obtain ⟨t, hrun, hframe, htook, hpanel⟩ := execDirtyhint_clean ht hk ho hidle hread hw hst htag hone
    refine ⟨t, hrun, hframe, htook, ?_⟩
    by_cases ha : (es w).agent = k.hdr.src
    · rw [if_pos ha] at hpanel
      simp only [hpanel, Sent, List.append_nil, smFind_smSet_self, hm, true_and, ha, not_true_eq_false, false_implies, and_true,
        ne_eq, forall_const]
      exact fun x hx => smFind_smSet_ne _ _ hx
    · rw [if_neg ha] at hpanel
      simp [hpanel, Sent, ha]
  · intro mgt cls hk ho hp hh how sum counts
    refine ⟨fun hj hph htab hlt => ?_, fun hj hph hlt heq => ?_⟩
    · have hadd := h.addAck_eq k s.clk.cyc hlt.le
      obtain ⟨t, hrun, hcounts, hg⟩ := execSnpack_counts (g := h.addAck k s.clk.cyc) ht hk ho hp hh
        (by simp [Htc.counting, hph]) how hlt.le
        fun x hx hclk => PX.advance_waits (hx ▸ hcalm) (by rw [hadd, hj]) (by rw [hadd, hph]) (by rw [hadd, htab])
          (by simpa [hadd, Htc.multi] using hlt)
      exact ⟨t, _, hrun, hcounts, hg, by simp [hadd, hph, sum]⟩
    · have hadd := h.addAck_eq k s.clk.cyc heq.le
      obtain ⟨t, hrun, hcounts, hg⟩ := execSnpack_counts (g := { h.addAck k s.clk.cyc with closeAt := s.clk.cyc }) ht hk ho hp hh
        (by simp [Htc.counting, hph, hlt]) how heq.le
        fun x hx hclk => by
          have hclose := PX.advance_close (x := x) (h := h.addAck k s.clk.cyc) (hx ▸ hcalm) (by rw [hadd]; exact hj) (by rw [hadd, hph])
            (by simpa [hadd, Htc.multi] using heq.ge) (hx ▸ hh) (by simpa [Htc.multi] using hlt)
          rwa [hclk] at hclose
      exact ⟨t, _, hrun, hcounts, hg, by simpa [hadd] using heq, by simp [hadd, hph], rfl, by simp [hadd]⟩
  · intro hk ho hsrc hhtc hi hh hj hph htab _ hopc hrq hc hd how hack hneed hevict he hpal hhint hplan marks st hm hmarks
    subst hmarks
    have hgrant : h.SoleGrant := ⟨hj, hph, htab, hopc, hc, hd, how, by simp [Htc.owDone, hack, hneed, hevict], he, hpal, hhint, hplan⟩
    have hmem : k.hdr.marks ∈ [1, 2, 3, 4] := by
      simp only [List.mem_cons, List.not_mem_nil, or_false, Prod.mk.injEq] at hm ⊢
      omega
    obtain ⟨t, hrun, hframe, htook, harr, hother, hsent, hmo, hg⟩ := execCompack_sole ht hcalm hk ho hsrc hhtc hi hh hgrant hrq hmem
    obtain ⟨comp, hplan⟩ := hplan
    refine ⟨t, _, hrun, hframe, htook, harr, hother, hsent, hmo, hg, rfl, rfl, rfl, ?_, hrq⟩
    exact PX.soleEnt_of_cack _ hd rfl hhint (by simp [hplan]) (by simpa [hrq] using hm)
end

section
/-! Obligation O29, refuted. The home discards a DataFwd whose sender's port has entered DEAD, also before the sender's death marker has
reached the panel (R445, R446, `PX.isDead`). The statement only asks that the panel does not hold the owner as dead, so it takes a state
in which the port is dead and the marker under way; there the line that the owner has announced is not written. -/

namespace Sys2Proof.Machine

/-- A DataFwd of an agent that is dead to the panel is taken, and changes nothing there. -/
theorem execDatafwdToHome_dead {s : State} {p : Nat} {k : Packet} (ht : s.takes p) (hk : (s.q (.panelIn p) cDAT).head? = some k)
    (ho : k.hdr.opc = oDataFwd) (hd : (s.inputPx p cDAT).isDead k.hdr.src = true) :
    ∃ t, exec (.datafwdToHome p {}) s = .next t ∧ t.panel p = s.panel p := by
  have hstep : (s.inputPx p cDAT).dataFwd k = s.inputPx p cDAT := by simp [PX.dataFwd, hd]
  obtain ⟨t, hrun, -, -, hpanel⟩ := State.onHead_acts (f := fun k x => x.dataFwd k) ht hk ho hstep (List.forall_mem_nil _)
  exact ⟨t, hrun, hpanel⟩

/-- An Upg of agent 6 for line 28 in O-pal, whose owner, agent 5, has announced its line; a sharer has still to answer. -/
def awaitingUpg : Htc :=
  { job := .req, pool := 0, phase := .collect, seq := 2, acc := 9, line := 28, reg := some wideRegion, tabled := true, way := some 3,
    pkt := { hdr := { cls := cREQ, opc := oUpg, prio := 2, src := 6, tag := 9, addr := 28, part := 3, size := 6 } },
    ent := { st := 7, agent := 5 }, plan := { comp := oCompU, dsrc := 3, wasDirty := true },
    expect := 2, sum := 1, ow := some 5, owSnp := 5, owNeed := true }

/-- That line. -/
def announcedLine : Packet :=
  { hdr := { cls := cDAT, opc := oDataFwd, prio := 2, src := 5, dst := nPanel0, htc := 4, addr := 28, part := 3, marks := 8, size := 6 },
    data := 77 }

/-- The line stands at the input of panel 0; the port of agent 5 has died behind it. -/
def deadOwnerState : State :=
  { overlapBlock { look := [wideRegion], htcs := [(4, awaitingUpg)] } with
    ports := [(0, { overlapPort with lstate := .dead })], net := { qs := [(locKey (.panelIn 0) cDAT, [announcedLine])] } }

theorem deadOwnerState_takes : deadOwnerState.takes 0 ∧ (deadOwnerState.panel 0).calm := by
  unfold State.takes State.acts Panel.calm
  decide +kernel

theorem deadOwnerState_dead : (deadOwnerState.panel 0).dead.getLsbD 5 = false ∧ (deadOwnerState.inputPx 0 cDAT).isDead 5 = true := by
  decide +kernel

end Sys2Proof.Machine

open Sys2Proof Sys2Proof.Machine

/-- Refutes O29: with the owner's port in DEAD and its death marker not yet at the panel, the DataFwd that the owner's SnpAck announced is
discarded, and the HTC of the Upg goes on waiting for it. -/
theorem not_dirtyDataAtTheHome : ¬ Obligations.DirtyDataAtTheHome := by
  rintro ⟨hdata, -, -⟩
  obtain ⟨htakes, hcalm⟩ := deadOwnerState_takes
  obtain ⟨hmark, hdead⟩ := deadOwnerState_dead
  obtain ⟨hannounced, -⟩ := hdata deadOwnerState 0 4 announcedLine awaitingUpg wideRegion htakes hcalm rfl (by decide) rfl rfl rfl rfl
  obtain ⟨t, g, q, hrun, -, -, -, -, -, -, hhtc, -, hneed, -⟩ :=
    hannounced rfl rfl rfl rfl (by decide) rfl (by decide) hmark rfl rfl rfl rfl (by decide) rfl
  obtain ⟨u, hrun', hpanel⟩ := execDatafwdToHome_dead htakes rfl rfl hdead
  obtain rfl : t = u := Host.Outcome.next.inj (hrun.symm.trans hrun')
  have hwaits : smFind (t.panel 0).htcs 4 = some awaitingUpg := by rw [hpanel]; rfl
  obtain rfl : awaitingUpg = g := Option.some.inj (hwaits.symm.trans hhtc)
  exact absurd hneed (by decide)
end

section
/-! Obligation O27, refuted. A line that a scan for dead agents skipped, because an HTC held it, is settled as that HTC is freed: with no way of
its own the HTC reads the line's set and leaves the dead agents out of the entry that names it (R112, R449, R450, `PX.lastEnt`,
`PX.settle`). The statement has such an HTC leave the directory as it was, and of the agents asks life only of the one in the entry that the
HTC formed, which says nothing where it formed none. -/

namespace Sys2Proof.Machine

/-- The writeback HTC of an EvC by agent 5 for line 28, which it does not hold: answered, without a way, its 8 HCLK over. -/
def staleEvict : Htc :=
  { job := .wbk, pool := 1, phase := .close, seq := 3, acc := 79000, start := 79000, line := 28, closeAt := 79000,
    pkt := { hdr := { cls := cWBK, opc := oEvC, prio := 2, src := 5, tag := 9, addr := 28, part := 3 } } }

/-- The line's set: way 3 names agent 6 as its only sharer, and no other way a line. -/
def skippedSet (w : Nat) : Ent := if w = 3 then { st := 4, agent := 6 } else {}

/-- That set at panel 0, where agent 6 has died. -/
def skippedLine : State :=
  overlapBlock { dir := (List.range 16).map fun w => (7 * 16 + w, (skippedSet w).enc), htcs := [(900, staleEvict)], dead := vbit 6 }

theorem skippedLine_acts : skippedLine.acts 0 ∧ (skippedLine.panel 0).calm := by
  unfold State.acts Panel.calm
  decide +kernel

/-- The HTC is the only one at its panel, and forms no entry. -/
theorem skippedLine_alone : (∀ e ∈ (skippedLine.panel 0).htcs, e.1 ≠ 900 → e.2.onLine staleEvict.line = false) ∧
    (skippedLine.panel 0).dead.getLsbD staleEvict.fin.agent = false := by decide +kernel

/-- Its release empties the way of the line. -/
theorem skippedLine_run {t : State} (h : exec (.wbkLineRelease 0 900 {}) skippedLine = .next t) :
    (t.panel 0).dir ≠ (skippedLine.panel 0).dir := by
  have hrun : (match exec (.wbkLineRelease 0 900 {}) skippedLine with
    | .next u => decide ((u.panel 0).dir = (skippedLine.panel 0).dir)
    | _ => true) = false := by decide +kernel
  rw [h] at hrun
  exact of_decide_eq_false hrun

end Sys2Proof.Machine

open Sys2Proof Sys2Proof.Machine

/-- Refutes O27: a writeback HTC without a way, released at a line whose only sharer has died since, sets the line's way to I. -/
theorem not_htcEndWritesItsEntry : ¬ Obligations.HtcEndWritesItsEntry := by
  intro hends
  obtain ⟨hacts, hcalm⟩ := skippedLine_acts
  obtain ⟨hothers, hlives⟩ := skippedLine_alone
  obtain ⟨-, -, hrelease, -⟩ := hends skippedLine 0 900 staleEvict hacts hcalm rfl
  have halone : staleEvict.fin.st = 5 ∨ staleEvict.fin.st = 7 → False := by decide
  obtain ⟨t, hrun, -, -, -, -, -, -, -, -, hdir, -⟩ :=
    hrelease ⟨⟨rfl, by decide⟩, rfl, by decide⟩ ⟨hothers, rfl, hlives, by decide, fun h => (halone h).elim⟩
  exact skippedLine_run hrun (hdir rfl)
end

section
/-! SUPPORT. A memory port in service takes the sound answer to a request of a panel, and the panel acts on it: what the port leaves as it
was, and where the panel stands after its step (R316, R320, R328). -/

namespace Sys2Proof.Machine

variable {s : State} {m p : Nat} {r : MemResp} {q : MemReq}

/-- The port has taken answer `r` from its queue and its MTAG is free; a data flit that fails parity is counted (R316, R320, R328). -/
def State.answered (s : State) (m : Nat) (r : MemResp) : State :=
  let t := (s.takeIn m (decide (r.mopc = 4))).modMp m fun x => { x with tags := smErase x.tags r.mtag }
  if r.mopc = 4 ∧ r.dataPerr = true then t.ctr6 (mpBase m + 0x30) 1 else t

theorem State.answered_eq (s : State) (m : Nat) (r : MemResp) : ∃ v, s.answered m r =
    { (s.takeIn m (decide (r.mopc = 4))).modMp m (fun x => { x with tags := smErase x.tags r.mtag }) with w6 := v } := by
  unfold State.answered
  dsimp only
  split
  · exact ⟨_, rfl⟩
  · exact ⟨_, rfl⟩

@[simp] theorem State.answered_panels (s : State) (m : Nat) (r : MemResp) : (s.answered m r).panels = s.panels := by
  obtain ⟨v, hv⟩ := s.answered_eq m r
  rw [hv]; rfl

@[simp] theorem State.answered_panel (s : State) (m : Nat) (r : MemResp) (n : Nat) : (s.answered m r).panel n = s.panel n := by
  simp [State.panel]

@[simp] theorem State.answered_clk (s : State) (m : Nat) (r : MemResp) : (s.answered m r).clk = s.clk := by
  obtain ⟨v, hv⟩ := s.answered_eq m r
  rw [hv]; rfl

theorem State.answered_w6 (s : State) (m : Nat) (r : MemResp) (h : r.mopc = 4) :
    (r.dataPerr = true → (s.answered m r).w6g (mpBase m + 0x30) = ctrAdd (s.w6g (mpBase m + 0x30)) 1) ∧
    (r.dataPerr = false → (s.answered m r).w6 = s.w6) := by
  unfold State.answered
  refine ⟨fun hp => ?_, fun hp => ?_⟩
  · simp only [h, hp, true_and, if_true, State.ctr6, State.w6g_w6s]; rfl
  · simp only [h, hp, Bool.false_eq_true, and_false, if_false]; rfl

/-- Taking the answer is all that the port does. -/
theorem State.returned_answered (ha : s.awaits m r q) : Returned s (s.answered m r) m r := by
  obtain ⟨⟨-, ⟨-, hopen⟩, -⟩, -⟩ := ha
  obtain ⟨v, hv⟩ := s.answered_eq m r
  generalize s.answered m r = t at hv
  have htags : (t.mp m).tags = smErase (s.mp m).tags r.mtag := by
    subst hv
    simp only [State.mp, State.modMp, State.takeIn, smGet_smSet_self, State.out_mps]
  refine ⟨by rw [htags, smFind_smErase_self], fun j hj => by rw [htags, smFind_smErase_ne _ hj], fun n hn => ?_, ?_, ?_⟩
  · subst hv
    simp only [State.mp, State.modMp, State.takeIn, State.out_mps, smGet_smSet_ne _ _ _ hn]
  · subst hv
    exact State.out_outs_open _ _ hopen
  · subst hv
    exact ⟨⟨rfl, rfl, rfl⟩, ⟨rfl, rfl, rfl⟩, rfl, rfl⟩

/-- A panel's step that only counts events leaves what the port has done. -/
theorem Returned.panelFrame {t u : State} (h : Returned s u m r) (hf : PanelFrame u t p) (hn : t.net = u.net) : Returned s t m r := by
  obtain ⟨hfree, hkept, hmps, houts, hbase, ⟨hports, hrouters, hnet⟩, hrgn, hclk⟩ := h
  obtain ⟨⟨hp, hb, hnc⟩, ⟨hc, ho⟩, -, -, hr, hpo, hro, -, -, hmp, -⟩ := hf
  obtain ⟨hsp, hsb, hsn⟩ := hbase
  have hmpt (n : Nat) : t.mp n = u.mp n := by rw [State.mp, State.mp, hmp]
  simp only [Returned, hmpt]
  exact ⟨hfree, hkept, hmps, ho.trans houts, ⟨hp.trans hsp, hb.trans hsb, hnc.trans hsn⟩,
    ⟨hpo.trans hports, hro.trans hrouters, hn.trans hnet⟩, hr.trans hrgn, hc.trans hclk⟩

/-- A port whose request `q` has the sound answer `r` delivers it where the command's row says so. -/
theorem State.memInbound_delivers {u : Upset} {row : Nat → MOwner → Bool} (ha : s.awaits m r q) (hdat : r.dat = .ok)
    (hop : r.mopc = 4 ∧ q.mopc = 1 ∨ r.mopc = 5 ∧ q.mopc ≠ 1) (hrow : row r.mopc q.own = true) :
    s.memInbound m r u row =
      if r.mopc = 4 then (s.answered m r).readDone q.own { data := r.data, poison := r.poison || r.dataPerr, err := r.err } u
      else (s.answered m r).writeDone q.own (q.compErr r.err) := by
  obtain ⟨-, hsvc, hperr, hgap, hhd, hfind⟩ := ha
  have hmopc : ¬ (r.mopc ≠ 4 ∧ r.mopc ≠ 5) := by omega
  have hkind : ¬ (decide (r.mopc = 4) ≠ decide (q.mopc = 1)) := by
    rcases hop with ⟨h4, h1⟩ | ⟨h5, h1⟩
    · simp [h4, h1]
    · simp [h5, h1]
  unfold State.memInbound State.answered
  simp only [hsvc, hperr, hgap, Bool.false_eq_true, or_self, if_false, not_true_eq_false, if_neg hmopc, hfind, if_neg hkind, hrow, hhd,
    hdat, State.mpChecks, State.bucket, ite_self, reduceCtorEq, decide_false, Bool.or_false, decide_eq_true_eq]

/-- A panel that acts on an answer, and in its step only counts events, stands as its step leaves it. -/
theorem State.panelStep_answered {f : PX → PX} {x : PX} (ha : s.awaits m r q) (hx : f ((s.answered m r).px p {}) = x)
    (he : ∀ e ∈ x.effs, e.counts) :
    let t := (s.answered m r).panelStep p {} f
    Returned s t m r ∧ (∀ n, n ≠ p → t.panel n = s.panel n) ∧ t.panel p = x.pn ∧ t.w6 = (s.answered m r).w6 := by
  intro t
  have ht : t = (s.answered m r).commitPx p x := by rw [← hx]; rfl
  obtain ⟨hf, hnet, hpanel⟩ := (s.answered m r).commitPx_counts p he
  rw [← ht] at hf hnet hpanel
  have hret := (State.returned_answered ha).panelFrame hf hnet
  obtain ⟨-, -, -, -, -, -, -, -, -, -, -, -, -, hw6, hother⟩ := hf
  exact ⟨hret, fun n hn => (hother n hn).trans (s.answered_panel m r n), hpanel, hw6⟩

theorem State.atMp_of_acts (h : s.mpActs m) (t : State) : s.atMp m t = .next t := by
  obtain ⟨hm, ⟨hr, ho⟩, hroot, hstop⟩ := h
  simp [State.atMp, Clk.shut_of_open _ hr ho, hroot, hstop, hm]

/-- MDATA of an HTC's read is a step of its panel. -/
theorem execMdata_acts {sq : Nat} {x y : PX} {b : Buf} (ha : s.awaits m r q) (hdat : r.dat = .ok) (hp : s.acts p) (hop : r.mopc = 4) (hq : q.mopc = 1)
    (hown : q.own = .htc p sq)
    (hx : x = (s.answered m r).px p {}) (hb : b = { data := r.data, poison := r.poison || r.dataPerr, err := r.err })
    (hy : x.mData sq b = y) (he : ∀ e ∈ y.effs, e.counts) :
    ∃ t, exec (.mdata m r {}) s = .next t ∧ Returned s t m r ∧ (∀ n, n ≠ p → t.panel n = s.panel n) ∧ t.panel p = y.pn ∧
      t.w6 = (s.answered m r).w6 := by
  subst hx hb
  have hfrozen : (s.answered m r).panelFrozen p = false := by
    rw [State.panelFrozen, State.answered_clk]; exact hp.2.2
  have hrun : exec (.mdata m r {}) s = .next ((s.answered m r).panelStep p {} fun x =>
      x.mData sq { data := r.data, poison := r.poison || r.dataPerr, err := r.err }) := by
    refine (State.atMp_of_acts ha.1 _).trans (congrArg _ ?_)
    rw [State.memInbound_delivers ha hdat (.inl ⟨hop, hq⟩) (by simp [hop, hown]), if_pos hop, hown, State.readDone, hfrozen]
    rfl
  exact ⟨_, hrun, State.panelStep_answered ha hy he⟩

/-- MWRCMP of a panel's write is a step of that panel. -/
theorem execMwrcmp_acts {wid : Nat} {x y : PX} (ha : s.awaits m r q) (hdat : r.dat = .ok) (hp : s.acts p) (hop : r.mopc = 5)
    (hq : q.mopc ≠ 1) (hown : q.own = .wr p wid) (hx : x = (s.answered m r).px p {})
    (hy : x.wrDone wid r.err = y) (he : ∀ e ∈ y.effs, e.counts) :
    ∃ t, exec (.mwrcmp m r) s = .next t ∧ Returned s t m r ∧ (∀ n, n ≠ p → t.panel n = s.panel n) ∧ t.panel p = y.pn := by
  subst hx
  have hfrozen : (s.answered m r).panelFrozen p = false := by
    rw [State.panelFrozen, State.answered_clk]; exact hp.2.2
  have hrun : exec (.mwrcmp m r) s = .next ((s.answered m r).panelStep p {} fun x => x.wrDone wid r.err) := by
    refine (State.atMp_of_acts ha.1 _).trans (congrArg _ ?_)
    rw [State.memInbound_delivers ha hdat (.inr ⟨hop, hq⟩) (by simp [hop]), if_neg (by omega), hown, State.writeDone, hfrozen,
      MemReq.compErr, hown]
    rfl
  obtain ⟨hret, hother, hpanel, -⟩ := State.panelStep_answered (f := fun x => x.wrDone wid r.err) ha hy he
  exact ⟨_, hrun, hret, hother, hpanel⟩

end Sys2Proof.Machine
end

section
/-! SUPPORT. What a panel sends, and how a request that waits for memory alone goes on when its line is here (R91, R92, R113). -/

namespace Sys2Proof.Machine

variable {x : PX} {i : Nat} {h : Htc}

/-! ### What a panel sends -/

@[simp] theorem PX.send_pn (x : PX) (k : Packet) : (x.send k).pn = { x.pn with outq := x.pn.outq ++ [{ k with capt := x.s.clk.cyc }] } := rfl
@[simp] theorem PX.send_effs (x : PX) (k : Packet) : (x.send k).effs = x.effs := rfl
@[simp] theorem PX.send_s (x : PX) (k : Packet) : (x.send k).s = x.s := rfl
@[simp] theorem PX.send_p (x : PX) (k : Packet) : (x.send k).p = x.p := rfl
@[simp] theorem PX.send_u (x : PX) (k : Packet) : (x.send k).u = x.u := rfl
@[simp] theorem PX.eff_p (x : PX) (e : Eff) : (x.eff e).p = x.p := rfl
@[simp] theorem PX.eff_u (x : PX) (e : Eff) : (x.eff e).u = x.u := rfl

/-- A response without data (R76). -/
def PX.rspMsg (x : PX) (i : Nat) (h : Hdr) (opc size err : Nat) : Packet :=
  { hdr := { x.rspHdr i h cRSP opc with
      size := size, err := err, htc := if decide (3 ≤ opc) && decide (opc ≤ 6) then (x.rspHdr i h cRSP opc).htc else 0 } }

theorem PX.sendRsp_eq (x : PX) (i : Nat) (h : Hdr) (opc size err : Nat) :
    x.sendRsp i h opc size err = x.send (x.rspMsg i h opc size err) := rfl

theorem PX.rspMsg_answers (x : PX) (i : Nat) (h : Hdr) (opc size err : Nat) : Answers (x.rspMsg i h opc size err) h cRSP opc :=
  ⟨rfl, rfl, rfl, rfl, rfl, rfl, rfl⟩

/-- A line for a requester (R85). -/
def PX.dataMsg (x : PX) (i : Nat) (h : Hdr) (opc : Nat) (b : Buf) : Packet :=
  { hdr := { x.rspHdr i h cDAT opc with size := 6, poison := b.poison, err := b.err }, data := b.data }

theorem PX.dataMsg_answers (x : PX) (i : Nat) (h : Hdr) (opc : Nat) (b : Buf) : Answers (x.dataMsg i h opc b) h cDAT opc :=
  ⟨rfl, rfl, rfl, rfl, rfl, rfl, rfl⟩

theorem PX.bufCheck_of_ok (hu : x.u.dat = .ok) (buf : Bool) : x.bufCheck buf = .ok := by cases buf <;> simp [PX.bufCheck, hu]

/-- Data without a finding in the data buffer leave as they stand. -/
theorem PX.sendData_of_ok (hu : x.u.dat = .ok) (h : Hdr) (opc : Nat) (b : Buf) (buf : Bool) :
    x.sendData i h opc b buf = x.send (x.dataMsg i h opc b) := by
  simp [PX.sendData, PX.bufCount, PX.bufCheck_of_ok hu, PX.dataMsg]

@[simp] theorem Htc.stamp_again (h : Htc) (k cyc : Nat) : h.stamp k cyc true = { h with stamps := smSet h.stamps k cyc } := by
  simp [Htc.stamp]

/-- HTC `h` after its line has gone to its requester (R507, R509). -/
def Htc.lineSent (h : Htc) (poison : Bool) (cyc : Nat) : Htc :=
  { h with stamps := smSet h.stamps 6 cyc, sentData := true, tflags := if poison then h.tflags ||| 2 else h.tflags }

theorem PX.sendLine_of_ok (hu : x.u.dat = .ok) (ho : h.pkt.hdr.opc ≠ oRdO) (opc : Nat) (b : Buf) :
    x.sendLine i h opc b = (x.send (x.dataMsg i h.pkt.hdr opc b), h.lineSent b.poison x.s.clk.cyc) := by
  simp [PX.sendLine, ho, PX.bufCheck_of_ok hu, PX.sendData_of_ok hu, Htc.lineSent]

/-- A stamp changes the stamps alone. -/
theorem Htc.stamp_eq (h : Htc) (k cyc : Nat) (again : Bool) : ∃ v, h.stamp k cyc again = { h with stamps := v } := by
  unfold Htc.stamp
  split
  · exact ⟨h.stamps, rfl⟩
  · exact ⟨_, rfl⟩

/-! ### A request whose line has come from memory -/

/-- Request `h` under the decision rows has all its answers, `b` the line that memory returned, and has sent nothing (R113). -/
structure Htc.HasMemory (h : Htc) (b : Buf) : Prop where
  job : h.job = .req
  phase : h.phase = .collect
  tabled : h.tabled = true
  sum : h.expect ≤ h.sum
  ow : h.ow = none
  owAck : h.owAck = true
  owNeed : h.owNeed = false
  owEvict : h.owEvict = false
  buf : h.buf = none
  md : h.md = some b
  cack : h.cack = none
  deadRq : h.deadRq = false

variable {b : Buf}

theorem Htc.HasMemory.owDone (hm : h.HasMemory b) : h.owDone = true := by
  simp [Htc.owDone, hm.owAck, hm.owNeed, hm.owEvict]

theorem Htc.HasMemory.multi (hm : h.HasMemory b) : h.multi = true := by simpa [Htc.multi] using hm.sum

/-- The line that the home has is memory's (R92, R332). -/
theorem PX.homeData_memory (hm : h.HasMemory b) (hd : h.plan.dsrc ≠ 1) : x.homeData h = some (oDataMem, x.ofMem h b) := by
  simp [PX.homeData, hm.buf, hm.md, hd]

theorem PX.advance_collect (hj : h.job = .req) (hp : h.phase = .collect) (ht : h.tabled = true) :
    x.advance i h = (x.collectStep i h).pumpSweeps.pumpEbar := by
  simp only [PX.advance, hj, hp, ht, if_true]

/-- The first line from memory for a request is noted, and the request goes on in COLLECT (R128). -/
theorem PX.mData_first {sq : Nat} (hf : (x.pn.htcs.find? fun e => decide (e.2.seq = sq) && e.2.rd) = some (i, h))
    (hs : h.sentData = false) (hn : h.md = none) (hm : ({ h with md := some b } : Htc).HasMemory b) :
    x.mData sq b = (x.collectStep i { h with md := some b }).pumpSweeps.pumpEbar := by
  simp only [PX.mData, hf, hs, hn, Option.isSome_none, Bool.false_eq_true, or_self, if_false]
  exact PX.advance_collect hm.job hm.phase hm.tabled

/-- HTC `h` in GRANT, its Comp sent (R91). -/
def Htc.compSent (h : Htc) (cyc : Nat) : Htc :=
  { h.stamp 6 cyc false with sentComp := true, plan := { h.plan with oComp := false }, phase := .grant }

/-- A Comp for a line that nobody owns grants what its row says (R91, R125). -/
theorem PX.sendComp_memory (hd : h.plan.dsrc = 0) :
    x.sendComp i h = (x.send (x.rspMsg i h.pkt.hdr h.plan.comp 0 0), h.compSent x.s.clk.cyc) := by
  simp [PX.sendComp, hd, PX.sendRsp_eq, Htc.compSent]

/-- A RdS, RdU or Upg in GRANT that owes no line waits for its CompAck (R114). -/
theorem PX.grantStep_waits (ho : h.pkt.hdr.opc ≤ 3) (hd : h.plan.dsrc ≠ 2) (hc : h.cack = none) (hq : h.deadRq = false) :
    x.grantStep i h = x.setHtc i h := by
  have howes : h.owes = false := by simp [Htc.owes, hd]
  simp [PX.grantStep, howes, ho, hc, hq]

/-- A RdS, RdU or Upg whose line is memory's sends its Comp and the line, and waits in GRANT for its CompAck (R91, R113, R114). -/
theorem PX.collectStep_memory (hu : x.u.dat = .ok) (hm : h.HasMemory b) (ho : h.pkt.hdr.opc ≤ 3) (hd : h.plan.dsrc = 0) :
    x.collectStep i h =
      ((x.send (x.rspMsg i h.pkt.hdr h.plan.comp 0 0)).send (x.dataMsg i h.pkt.hdr oDataMem (x.ofMem h b))).setHtc i
        ((h.compSent x.s.clk.cyc).lineSent (x.ofMem h b).poison x.s.clk.cyc) := by
  obtain ⟨v, hv⟩ := h.stamp_eq 6 x.s.clk.cyc false
  have hrdo : (h.compSent x.s.clk.cyc).pkt.hdr.opc ≠ oRdO := by
    rw [Htc.compSent, hv]
    exact Nat.ne_of_lt (Nat.lt_of_le_of_lt ho (by decide))
  simp only [PX.collectStep, hm.multi, not_true_eq_false, if_false, ho, if_true, hd, OfNat.zero_ne_ofNat, hm.owDone,
    PX.homeData_memory hm (hd ▸ zero_ne_one), PX.sendComp_memory hd, PX.sendLine_of_ok (x := x.send _) hu hrdo]
  rw [PX.grantStep_waits]
  · rw [Htc.compSent, hv]; rfl
  · simpa [Htc.lineSent, Htc.compSent, hv] using ho
  · simp [Htc.lineSent, Htc.compSent, hv, hd]
  · simpa [Htc.lineSent, Htc.compSent, hv] using hm.cack
  · simpa [Htc.lineSent, Htc.compSent, hv] using hm.deadRq

end Sys2Proof.Machine
end

section
/-! SUPPORT. An atomic on a line, and the AtP of a line outside H that has its line from memory (R101, R103, R123). -/

namespace Sys2Proof.Machine

/-! ### Atomics -/

theorem toNat_bitsN {w : Nat} (v : BitVec w) (lo n : Nat) : bitsN v.toNat lo n = (v.extractLsb' lo n).toNat :=
  (BitVec.extractLsb'_toNat lo n v).symm

theorem signed_toNat {n : Nat} (hn : 0 < n) (v : BitVec n) : signed n v.toNat = v.toInt := by
  have h2 : 2 ^ n = 2 * 2 ^ (n - 1) := by rw [← Nat.pow_succ', Nat.succ_eq_add_one, Nat.sub_add_cancel hn]
  rw [signed, BitVec.toInt_eq_toNat_cond]
  refine ite_congr (propext (by omega)) (fun _ => rfl) fun _ => by push_cast; rfl

/-- The atomics on numbers are those on words (R101). -/
theorem atpResult_toNat {n : Nat} (hn : 0 < n) (op : Nat) (old opd cmp : BitVec n) :
    atpResult op n old.toNat opd.toNat cmp.toNat = (atpRule op old opd cmp).toNat := by
  unfold atpResult atpRule
  split
  · rfl
  · simp only [BitVec.toNat_inj, apply_ite BitVec.toNat]
  · simp
  · simp
  · simp
  · simp
  · simp only [signed_toNat hn, apply_ite BitVec.toNat, BitVec.slt_iff_toInt_lt]
  · simp only [signed_toNat hn, apply_ite BitVec.toNat, BitVec.slt_iff_toInt_lt]
  · simp only [BitVec.ult_iff_lt, BitVec.lt_def, apply_ite BitVec.toNat]
    split <;> omega
  · simp only [BitVec.ult_iff_lt, BitVec.lt_def, apply_ite BitVec.toNat]
    split <;> omega

theorem getLsbD_byteSpan (off n b : Nat) (hb : b < 512) :
    (byteSpan off n).getLsbD b = decide (8 * off ≤ b ∧ b < 8 * off + 8 * n) := by
  simp only [byteSpan, BitVec.getLsbD_ofNat, hb, decide_true, Bool.true_and, Nat.testBit_shiftLeft, Nat.testBit_two_pow_sub_one]
  by_cases h : 8 * off ≤ b
  · simp [h]; omega
  · simp [h]

/-- An atomic on naturally aligned bytes gives them their new value, leaves the others, and answers with the old value (R101, R103). -/
theorem atpLine_atomic (k : Packet) (l : BitVec 512) (hs : k.hdr.size ≤ 3) (ha : k.hdr.htc % 64 % 2 ^ k.hdr.size = 0) :
    Atomic k l (atpLine k.hdr k.data l).1 (atpLine k.hdr k.data l).2 := by
  have hend : 8 * (k.hdr.htc % 64) + 8 * 2 ^ k.hdr.size ≤ 512 := by
    have hoff : k.hdr.htc % 64 < 64 := Nat.mod_lt _ (by decide)
    have hsize : k.hdr.size = 0 ∨ k.hdr.size = 1 ∨ k.hdr.size = 2 ∨ k.hdr.size = 3 := by omega
    rcases hsize with h | h | h | h <;> simp only [h, Nat.reducePow] at ha ⊢ <;> omega
  have hpos : 0 < 8 * 2 ^ k.hdr.size := by positivity
  obtain ⟨new, hnew⟩ : ∃ v, v = atpRule (k.hdr.htc / 1024) (l.extractLsb' (8 * (k.hdr.htc % 64)) (8 * 2 ^ k.hdr.size))
      (k.data.extractLsb' 0 (8 * 2 ^ k.hdr.size)) (k.data.extractLsb' 64 (8 * 2 ^ k.hdr.size)) := ⟨_, rfl⟩
  have hbit (b : Nat) (hb : b < 512) : (atpLine k.hdr k.data l).1.getLsbD b =
      if 8 * (k.hdr.htc % 64) ≤ b ∧ b < 8 * (k.hdr.htc % 64) + 8 * 2 ^ k.hdr.size then new.getLsbD (b - 8 * (k.hdr.htc % 64))
      else l.getLsbD b := by
    simp only [atpLine, toNat_bitsN, atpResult_toNat hpos, ← hnew, BitVec.getLsbD_or, BitVec.getLsbD_and, BitVec.getLsbD_not,
      getLsbD_byteSpan _ _ _ hb, BitVec.getLsbD_ofNat, Nat.testBit_shiftLeft, hb, decide_true, Bool.true_and]
    rw [BitVec.testBit_toNat]
    split
    case isTrue hin => simp [hin]
    case isFalse hout =>
      have hhigh : 8 * (k.hdr.htc % 64) ≤ b → new.getLsbD (b - 8 * (k.hdr.htc % 64)) = false := fun hle =>
        BitVec.getLsbD_of_ge _ _ (by omega)
      simp only [hout, decide_false, Bool.not_false, Bool.and_true]
      by_cases hle : 8 * (k.hdr.htc % 64) ≤ b
      · simp [hhigh hle]
      · simp [hle]
  refine ⟨?_, fun b hb hout => ?_, ?_⟩
  · rw [← hnew]
    refine BitVec.eq_of_getLsbD_eq fun j hj => ?_
    rw [BitVec.getLsbD_extractLsb', hbit _ (by omega), if_pos (by omega), Nat.add_sub_cancel_left]
    simp [hj]
  · rw [hbit b hb, if_neg (by omega)]
  · simp only [atpLine, toNat_bitsN, BitVec.ofNat_toNat]

/-! ### The AtP of a line outside H -/

variable {x : PX} {i : Nat} {h : Htc} {b : Buf}

/-- The proxy slot that an AtP leaves: the line with its new value, and its writer (R103, R104, R244). -/
def PX.atpSlot (x : PX) (h : Htc) (k : Nat) (b : Buf) : Proxy :=
  { line := h.line, data := (atpLine h.pkt.hdr h.pkt.data b.data).1,
    who := ((smFind x.pn.proxy k).map (·.who)).getD [] ++ [(h.pkt.hdr.src, h.seq)] }

/-- What an AtP answers: the old value (R103). -/
def Htc.atpOld (h : Htc) (b : Buf) : Buf := { data := (atpLine h.pkt.hdr h.pkt.data b.data).2 }

/-- The panel once the AtP has been performed (R103, R502). -/
def PX.atpDone (x : PX) (h : Htc) (k : Nat) (b : Buf) : PX :=
  (x.mod fun n => { n with proxy := smSet n.proxy k (x.atpSlot h k b) }).eff (.event 0x15 1 (wpOf h.pkt))

/-- An AtP on a sound line is performed in its proxy slot, and answered with the old value (R103, R104). -/
theorem PX.doAtP_of_ok (hu : x.u.dat = .ok) (ho : h.pkt.hdr.opc = oAtP) (hb : b.poison = false) (k : Nat) :
    x.doAtP i h k b =
      ((x.atpDone h k b).send (x.dataMsg i h.pkt.hdr oDataHome (h.atpOld b)), h.lineSent false x.s.clk.cyc) := by
  have hrdo : h.pkt.hdr.opc ≠ oRdO := by rw [ho]; decide
  simp only [PX.doAtP, hb, PX.bufCheck_of_ok hu, reduceCtorEq, decide_false, Bool.or_self, Bool.false_eq_true, if_false]
  exact PX.sendLine_of_ok (x := x.atpDone h k b) hu hrdo _ _

/-- A request that sends no Comp is over in GRANT when it owes no line (R114). -/
theorem PX.grantStep_noComp (ho : 3 < h.pkt.hdr.opc) (hd : h.plan.dsrc ≠ 2) (hdone : h.owDone = true) (ht : h.tabled = true) :
    x.grantStep i h = x.closeReq i h := by
  have howes : h.owes = false := by simp [Htc.owes, hd]
  simp [PX.grantStep, howes, hdone, ht, Nat.not_le.mpr ho]

/-- An AtP closes with its line in H, in its proxy slot (R103, R123). -/
theorem PX.closeReq_toH {dirty : Bool} {k : Nat} (hd : h.deadRq = false) (hplan : h.plan = { toH := true, wasDirty := dirty })
    (hpal : h.oldPal = none) (hk : h.pslot = some k) :
    x.closeReq i h = x.setHtc i (h.closed { st := 8, agent := k } x.s.clk.cyc) := by
  simp only [PX.closeReq, hd, hplan, hpal, hk, Bool.false_eq_true, false_and, if_false, if_true, Option.or]
  exact PX.startClose_quiet _

/-- An AtP whose line is memory's performs it in the proxy slot that it holds, answers, and closes (R103, R113, R123). -/
theorem PX.collectStep_atp {dirty : Bool} {k : Nat} (hu : x.u.dat = .ok) (hm : h.HasMemory b) (ho : h.pkt.hdr.opc = oAtP)
    (hplan : h.plan = { toH := true, wasDirty := dirty }) (hlost : h.owLost = false) (hpal : h.oldPal = none) (hk : h.pslot = some k)
    (hb : (x.ofMem h b).poison = false) :
    x.collectStep i h =
      ((x.atpDone h k (x.ofMem h b)).send (x.dataMsg i h.pkt.hdr oDataHome (h.atpOld (x.ofMem h b)))).setHtc i
        (Htc.closed { h.lineSent false x.s.clk.cyc with phase := .grant } { st := 8, agent := k } x.s.clk.cyc) := by
  have hhome := PX.homeData_memory (x := x) hm (by simp [hplan])
  have hcomp : ¬ oAtP ≤ 3 := by decide
  have hrdo : oAtP ≠ oRdO := by decide
  have hwru : oAtP ≠ oWrU := by decide
  simp only [PX.collectStep, hm.multi, not_true_eq_false, if_false, ho, hcomp, hrdo, hwru, hm.owDone, hlost,
    Bool.false_eq_true, hhome, hk, PX.doAtP_of_ok hu ho hb]
  rw [PX.grantStep_noComp, PX.closeReq_toH (dirty := dirty) (k := k)]
  · rfl
  · exact hm.deadRq
  · exact hplan
  · exact hpal
  · exact hk
  · exact ho ▸ (by decide : 3 < oAtP)
  · show h.plan.dsrc ≠ 2
    simp [hplan]
  · exact hm.owDone
  · exact hm.tabled

end Sys2Proof.Machine
end

section
/-! Obligation O36: memory answers a panel's read, AtP and writes. -/

namespace Sys2Proof.Machine

variable {s : State} {m p : Nat} {r : MemResp} {q : MemReq}

/-- The agents of a list, as a set. -/
theorem getLsbD_foldl_vbit (l : List (Nat × Nat)) (v : Vec) {a : Nat} (ha : a < 256) :
    (l.foldl (fun v e => v ||| vbit e.1) v).getLsbD a = (v.getLsbD a || l.any fun e => decide (e.1 = a)) := by
  induction l generalizing v with
  | nil => simp
  | cons e l ih =>
    rw [List.foldl_cons, ih, BitVec.getLsbD_or, getLsbD_vbit ha, List.any_cons, Bool.or_assoc]
    simp only [eq_comm (a := a)]

/-- The panel once write `wid` is complete: an ERR is remembered for the agents that it covers (R243, R245). -/
def PX.wrEnd (x : PX) (wid err : Nat) (w : Wr) : PX :=
  x.mod fun n => { n with
    wrs := smErase n.wrs wid, errs := if err = 1 then n.errs ||| w.who.foldl (fun v a => v ||| vbit a.1) 0 else n.errs }

theorem PX.wrEnd_errs (x : PX) (wid err : Nat) (w : Wr) {a : Nat} (ha : a < 256) : (x.wrEnd wid err w).pn.errs.getLsbD a =
    (x.pn.errs.getLsbD a || (decide (err = 1) && w.who.any fun e => decide (e.1 = a))) := by
  by_cases he : err = 1
  · simp [PX.wrEnd, PX.mod, he, getLsbD_foldl_vbit _ _ ha]
  · simp [PX.wrEnd, PX.mod, he]

/-- The end of a write that no WrAcc waits for (R243, R245). -/
theorem PX.wrDone_line {x : PX} {wid err : Nat} {w : Wr} (hx : x.pn.calm) (hw : smFind x.pn.wrs wid = some w) (hd : w.dev = none) :
    x.wrDone wid err = x.wrEnd wid err w := by
  simp only [PX.wrDone, hw, hd]
  exact PX.pumpEbar_of_calm (x := x.wrEnd wid err w) hx

/-- The end of a Device write sends the WrAcc that waited for it, and closes its request (R239). -/
theorem PX.wrDone_device {x : PX} {wid err sq i : Nat} {w : Wr} {h : Htc} (hx : x.pn.calm) (hw : smFind x.pn.wrs wid = some w)
    (hd : w.dev = some sq)
    (hf : (x.pn.htcs.find? fun e => decide (e.2.seq = sq) && decide (e.2.job = .req) && decide (e.2.phase = .collect)) = some (i, h)) :
    ∃ g, x.wrDone wid err = ((x.wrEnd wid err w).send (x.rspMsg i h.pkt.hdr oWrAcc 0 err)).setHtc i g ∧ g.phase = .close := by
  obtain ⟨v, hv⟩ := h.stamp_eq 6 x.s.clk.cyc false
  let y := (x.wrEnd wid err w).send (x.rspMsg i h.pkt.hdr oWrAcc 0 err)
  refine ⟨Htc.closed { h with stamps := v } {} x.s.clk.cyc, ?_, rfl⟩
  have hstep : x.wrDone wid err = (y.setHtc i (Htc.closed { h with stamps := v } {} x.s.clk.cyc)).pumpEbar := by
    unfold PX.wrDone
    simp only [hw, hd, PX.mod]
    rw [hf]
    dsimp only
    rw [hv]
    rfl
  have hy : y.pn.calm := hx
  exact hstep.trans (PX.pumpEbar_of_calm (hy.setHtc (by simp [Htc.calm, Htc.closed])))

theorem Htc.calm_of_phase {h : Htc} {k : Phase} (hk : h.phase = k) (hd : k ≠ .decide) (hc : k ≠ .collect) : h.calm :=
  ⟨fun ⟨_, hp⟩ => hd (hk ▸ hp), fun ⟨_, hp⟩ => hc (hk ▸ hp)⟩

end Sys2Proof.Machine

open Sys2Proof Sys2Proof.Machine

/-- Settles O36: the port takes the answer (`State.answered`) and its panel acts on it in one step, which moves the HTC on
(`PX.collectStep_memory`, `PX.collectStep_atp`) or ends the write (`PX.wrDone_line`, `PX.wrDone_device`). -/
theorem memoryAnswersAPanel : Obligations.MemoryAnswersAPanel := by
  intro s m p r q ha hdat hp hcalm
  obtain ⟨x, hx⟩ : ∃ x : PX, x = (s.answered m r).px p {} := ⟨_, rfl⟩
  have hpn : x.pn = s.panel p := hx ▸ s.answered_panel m r p
  have hxcalm : x.pn.calm := hpn ▸ hcalm
  have hu : x.u.dat = .ok := hx ▸ rfl
  have heff : x.effs = [] := hx ▸ rfl
  have hof (h : Htc) (b : Buf) : (x.ofMem h b).poison = (b.poison || (s.panel p).llt.any fun e => decide (e.2 = h.line)) := by
    rw [← hpn]; rfl
  refine ⟨?_, ?_, ?_, ?_⟩
  · intro i h sq hop hq hown hfind hj hph ht h1 h3 hdsrc hsum how hack hneed hev hbuf hmd hsd hcack hdead
    obtain ⟨b, hb⟩ : ∃ b : Buf, b = { data := r.data, poison := r.poison || r.dataPerr, err := r.err } := ⟨_, rfl⟩
    have hm : Htc.HasMemory { h with md := some b } b := ⟨hj, hph, ht, hsum, how, hack, hneed, hev, hbuf, rfl, hcack, hdead⟩
    have hstep := (PX.mData_first (hpn ▸ hfind) hsd hmd hm).trans
      (congrArg (fun y => y.pumpSweeps.pumpEbar) (PX.collectStep_memory (i := i) hu hm h3 hdsrc))
    rw [PX.pumps_setHtc (x := (x.send _).send _) hxcalm i (Htc.calm_of_phase (k := .grant) rfl (by decide) (by decide))] at hstep
    obtain ⟨t, hrun, hret, hother, hpanel, hw6⟩ := execMdata_acts ha hdat hp hop hq hown hx hb hstep (by simp [heff])
    obtain ⟨hcount, hquiet⟩ := s.answered_w6 m r hop
    have hctr : mpBase m + 0x30 = 0x80030 + 0x800 * m := by unfold mpBase; omega
    rw [hctr] at hcount
    refine ⟨t, { x.rspMsg i h.pkt.hdr h.plan.comp 0 0 with capt := x.s.clk.cyc },
      { x.dataMsg i h.pkt.hdr oDataMem (x.ofMem { h with md := some b } b) with capt := x.s.clk.cyc },
      (Htc.compSent { h with md := some b } x.s.clk.cyc).lineSent (x.ofMem { h with md := some b } b).poison x.s.clk.cyc,
      hrun, hret, hother, ?_, fun j hj => ?_, ?_, PX.rspMsg_answers x i h.pkt.hdr h.plan.comp 0 0, rfl,
      PX.dataMsg_answers x i h.pkt.hdr oDataMem (x.ofMem { h with md := some b } b), hb ▸ rfl, hb ▸ rfl, ?_, ?_, rfl, rfl, rfl,
      fun he => ?_, fun he => ?_⟩
    · rw [SameArrays, hpanel, ← hpn]; exact ⟨rfl, rfl⟩
    · rw [hpanel, ← hpn]; exact smFind_smSet_ne _ _ hj
    · rw [Sent, hpanel, ← hpn]; exact List.append_assoc _ _ _
    · exact (hof _ b).trans (hb ▸ rfl)
    · rw [hpanel]; exact smFind_smSet_self _ _ _
    · rw [State.w6g, hw6]; exact hcount he
    · rw [hw6, hquiet he]
  · intro i h sq n b hop hq hown hfind hj hph ht ho hsize halign hatp ⟨dirty, hplan⟩ hsum how hack hneed hev hlost hbuf hmd hsd hcack hdead
      hst hpal hslot hproxy hpoison hperr herr hllt
    obtain ⟨c, hc⟩ : ∃ c : Buf, c = { data := r.data, poison := r.poison || r.dataPerr, err := r.err } := ⟨_, rfl⟩
    have hm : Htc.HasMemory { h with md := some c } c := ⟨hj, hph, ht, hsum, how, hack, hneed, hev, hbuf, rfl, hcack, hdead⟩
    have hsound : (x.ofMem { h with md := some c } c).poison = false := by
      rw [hof]; simp [hc, hpoison, hperr, hllt]
    have hstep := (PX.mData_first (hpn ▸ hfind) hsd hmd hm).trans
      (congrArg (fun y => y.pumpSweeps.pumpEbar) (PX.collectStep_atp (i := i) hu hm ho hplan hlost hpal hslot hsound))
    rw [PX.pumps_setHtc (x := (PX.atpDone _ _ _ _).send _) hxcalm i (Htc.calm_of_phase (k := .close) rfl (by decide) (by decide))] at hstep
    obtain ⟨t, hrun, hret, hother, hpanel, -⟩ := execMdata_acts ha hdat hp hop hq hown hx hc hstep
      (by simp [PX.atpDone, PX.mod, heff, Eff.counts])
    have hold := hof { h with md := some c } c
    refine ⟨t, { x.dataMsg i h.pkt.hdr oDataHome (h.atpOld (x.ofMem { h with md := some c } c)) with capt := x.s.clk.cyc },
      Htc.closed { ({ h with md := some c } : Htc).lineSent false x.s.clk.cyc with phase := .grant }
        { st := 8, agent := n } x.s.clk.cyc, x.atpSlot h n (x.ofMem { h with md := some c } c),
      hrun, hret, hother, ?_, fun j hj => ?_, ?_, ?_, PX.dataMsg_answers x i h.pkt.hdr oDataHome (h.atpOld (x.ofMem { h with md := some c } c)),
      rfl, ?_, rfl, rfl, ?_, ?_, fun j hj => ?_, ?_, rfl, rfl, rfl, rfl⟩
    · rw [SameArrays, hpanel, ← hpn]; exact ⟨rfl, rfl⟩
    · rw [hpanel, ← hpn]; exact smFind_smSet_ne _ _ hj
    · rw [hpanel, ← hpn]; rfl
    · rw [Sent, hpanel, ← hpn]; rfl
    · rw [hpanel]; exact smFind_smSet_self _ _ _
    · rw [PX.atpSlot, hpn, hproxy]; rfl
    · exact hc ▸ atpLine_atomic h.pkt r.data hsize halign
    · rw [hpanel, ← hpn]; exact smFind_smSet_ne _ _ hj
    · rw [hpanel]; exact smFind_smSet_self _ _ _
  · intro wid w hop hq hown hw hd
    have hstep := PX.wrDone_line (err := r.err) hxcalm (hpn ▸ hw) hd
    obtain ⟨t, hrun, hret, hother, hpanel⟩ := execMwrcmp_acts ha hdat hp hop hq hown hx hstep (by simp [PX.wrEnd, PX.mod, heff])
    have hwrs : (t.panel p).wrs = smErase (s.panel p).wrs wid := by rw [hpanel, PX.wrEnd, PX.mod, hpn]
    refine ⟨t, hrun, hret, hother, ?_, ?_, ?_, ?_, fun j hj => ?_, fun a ha => ?_⟩
    · simp [SameArrays, hpanel, PX.wrEnd, PX.mod, hpn]
    · simp [hpanel, PX.wrEnd, PX.mod, hpn]
    · simp [Sent, hpanel, PX.wrEnd, PX.mod, hpn]
    · rw [hwrs, smFind_smErase_self]
    · rw [hwrs, smFind_smErase_ne _ hj]
    · rw [hpanel, PX.wrEnd_errs _ _ _ _ ha, hpn]
  · intro wid w sq i h hop hq hown hw hd hfind
    obtain ⟨g, hstep, hg⟩ := PX.wrDone_device (err := r.err) hxcalm (hpn ▸ hw) hd (hpn ▸ hfind)
    obtain ⟨t, hrun, hret, hother, hpanel⟩ := execMwrcmp_acts ha hdat hp hop hq hown hx hstep (by simp [PX.wrEnd, PX.mod, heff])
    refine ⟨t, { x.rspMsg i h.pkt.hdr oWrAcc 0 r.err with capt := x.s.clk.cyc }, g, hrun, hret, hother, ?_, ?_,
      PX.rspMsg_answers x i h.pkt.hdr oWrAcc 0 r.err, rfl, ?_, hg⟩
    · simp [SameArrays, hpanel, PX.wrEnd, PX.mod, hpn]
    · simp [Sent, hpanel, PX.wrEnd, PX.mod, hpn]
    · simp [hpanel, smFind_smSet_self]
end

section
/-! SUPPORT. The strong code reads back what it stores (R408, R409): a stored word is a multiple of the generator polynomial, so that its
syndromes are zero and its weight is even. Both are linear in the data, so that they are checked for the 64 words of one bit. -/

namespace Sys2Proof.Machine

theorem testBit_top {n d : Nat} (hlow : 2 ^ n ≤ d) (hhigh : d < 2 ^ (n + 1)) : d.testBit n = true := by
  have hone : d / 2 ^ n = 1 := Nat.div_eq_of_lt_le (by omega) (by rw [Nat.pow_succ] at hhigh; omega)
  rw [Nat.testBit_eq_decide_div_mod_eq, hone]
  rfl

theorem two_pow_xor_mod {n d : Nat} (hlow : 2 ^ n ≤ d) (hhigh : d < 2 ^ (n + 1)) : 2 ^ n ^^^ d % 2 ^ n = d := by
  refine Nat.eq_of_testBit_eq fun i => ?_
  rw [Nat.testBit_xor, Nat.testBit_two_pow, Nat.testBit_mod_two_pow]
  rcases Nat.lt_trichotomy i n with hi | rfl | hi
  · simp [hi, hi.ne']
  · simp [testBit_top hlow hhigh]
  · have hd : d.testBit i = false := Nat.testBit_lt_two_pow (hhigh.trans_le (Nat.pow_le_pow_right (by decide) hi))
    simp [hd, hi.ne]

/-- A property of 0 and of the powers of two that passes to exclusive-ors is one of every number. -/
theorem xor_induction {P : Nat → Prop} {n : Nat} (hzero : P 0) (hxor : ∀ a b, P a → P b → P (a ^^^ b)) (hbit : ∀ i, i < n → P (2 ^ i)) :
    ∀ d, d < 2 ^ n → P d := by
  induction n with
  | zero => intro d hd; rwa [Nat.lt_one_iff.mp hd]
  | succ n ih =>
    intro d hd
    have ih := ih fun i hi => hbit i (by omega)
    by_cases htop : d < 2 ^ n
    · exact ih d htop
    · rw [← two_pow_xor_mod (Nat.not_lt.mp htop) hd]
      exact hxor _ _ (hbit n (by omega)) (ih _ (Nat.mod_lt _ (by positivity)))

/-! ### The parts of the code are linear -/

theorem gfA_lt : ∀ x, x < 128 → gfA x < 128 := by decide

theorem xor_mul_two (a b : Nat) : (a ^^^ b) * 2 = a * 2 ^^^ b * 2 := by
  simpa [Nat.shiftLeft_eq] using Nat.shiftLeft_xor_distrib (i := 1) (a := a) (b := b)

theorem gfA_eq : ∀ x, x < 128 → gfA x = x * 2 ^^^ (if x.testBit 6 then 0x89 else 0) := by decide

theorem ite_xor_ite (a b : Bool) (v : Nat) :
    (if (a ^^ b) = true then v else 0) = (if a = true then v else 0) ^^^ (if b = true then v else 0) := by
  cases a <;> cases b <;> simp

theorem gfA_xor {x y : Nat} (hx : x < 128) (hy : y < 128) : gfA (x ^^^ y) = gfA x ^^^ gfA y := by
  rw [gfA_eq _ (Nat.xor_lt_two_pow (n := 7) hx hy), gfA_eq x hx, gfA_eq y hy, Nat.testBit_xor, xor_mul_two, ite_xor_ite]
  ac_rfl

theorem gfA3_lt {x : Nat} (hx : x < 128) : gfA3 x < 128 := gfA_lt _ (gfA_lt _ (gfA_lt _ hx))

theorem gfA3_xor {x y : Nat} (hx : x < 128) (hy : y < 128) : gfA3 (x ^^^ y) = gfA3 x ^^^ gfA3 y := by
  simp only [gfA3]
  rw [gfA_xor hx hy, gfA_xor (gfA_lt x hx) (gfA_lt y hy), gfA_xor (gfA_lt _ (gfA_lt x hx)) (gfA_lt _ (gfA_lt y hy))]

theorem syndromes_lt (n c : Nat) : (syndromes n c).1 < 128 ∧ (syndromes n c).2 < 128 := by
  induction n generalizing c with
  | zero => simp [syndromes]
  | succ n ih =>
    have hbit : c % 2 < 2 ^ 7 := by omega
    exact ⟨Nat.xor_lt_two_pow (n := 7) (gfA_lt _ (ih _).1) hbit, Nat.xor_lt_two_pow (n := 7) (gfA3_lt (ih _).2) hbit⟩

theorem xor_mod_two (a b : Nat) : (a ^^^ b) % 2 = a % 2 ^^^ b % 2 := Nat.xor_mod_two_pow (n := 1)

theorem syndromes_xor (n a b : Nat) :
    syndromes n (a ^^^ b) = ((syndromes n a).1 ^^^ (syndromes n b).1, (syndromes n a).2 ^^^ (syndromes n b).2) := by
  induction n generalizing a b with
  | zero => simp [syndromes]
  | succ n ih =>
    simp only [syndromes, Nat.xor_div_two, ih, xor_mod_two, gfA_xor (syndromes_lt n _).1 (syndromes_lt n _).1,
      gfA3_xor (syndromes_lt n _).2 (syndromes_lt n _).2, Prod.mk.injEq]
    exact ⟨by ac_rfl, by ac_rfl⟩

theorem onesN_xor (n a b : Nat) : onesN n (a ^^^ b) % 2 = (onesN n a + onesN n b) % 2 := by
  induction n generalizing a b with
  | zero => rfl
  | succ n ih =>
    have ih := ih (a / 2) (b / 2)
    have hbit : (a ^^^ b) % 2 = (a + b) % 2 := Nat.xor_mod_two_eq
    simp only [onesN, Nat.xor_div_two]
    omega

/-- One step of the division by the generator (R408). -/
def remStep (r : Nat) (b : Bool) : Nat :=
  let v := r * 2 ^^^ (if b then 0x8000 else 0)
  v ^^^ (if v.testBit 15 then 0xC599 else 0)

theorem remStep_xor (r q : Nat) (a b : Bool) : remStep (r ^^^ q) (a ^^ b) = remStep r a ^^^ remStep q b := by
  simp only [remStep, xor_mul_two, ite_xor_ite, Nat.testBit_xor]
  ac_rfl

theorem polyRem_succ {k r d : Nat} (hr : r < 2 ^ 15) :
    polyRem (k + 1) r d = polyRem k (remStep r (d.testBit k)) d ∧ remStep r (d.testBit k) < 2 ^ 15 := by
  have hv : r * 2 ^^^ (if d.testBit k then 0x8000 else 0) < 2 ^ 16 := Nat.xor_lt_two_pow (by omega) (by split <;> decide)
  obtain ⟨v, hdef⟩ : ∃ v, v = r * 2 ^^^ (if d.testBit k then 0x8000 else 0) := ⟨_, rfl⟩
  rw [← hdef] at hv
  simp only [polyRem, remStep, ← hdef]
  by_cases htop : 0x8000 ≤ v
  · have hrest : v ^^^ 0xC599 = v % 2 ^ 15 ^^^ 0x4599 :=
      calc v ^^^ 0xC599 = (2 ^ 15 ^^^ v % 2 ^ 15) ^^^ (2 ^ 15 ^^^ 0x4599) := by rw [two_pow_xor_mod (n := 15) htop hv]; rfl
        _ = v % 2 ^ 15 ^^^ 0x4599 := by rw [Nat.xor_comm (2 ^ 15), Nat.xor_assoc, ← Nat.xor_assoc (2 ^ 15), Nat.xor_self, Nat.zero_xor]
    rw [if_pos htop, if_pos (testBit_top (n := 15) htop hv), hrest]
    exact ⟨rfl, Nat.xor_lt_two_pow (Nat.mod_lt _ (by decide)) (by decide)⟩
  · have hbit : v.testBit 15 = false := Nat.testBit_lt_two_pow (Nat.not_le.mp htop)
    rw [if_neg htop, hbit, if_neg Bool.false_ne_true, Nat.xor_zero]
    exact ⟨rfl, Nat.not_le.mp htop⟩

theorem polyRem_xor (k : Nat) {r q a b : Nat} (hr : r < 2 ^ 15) (hq : q < 2 ^ 15) :
    polyRem k (r ^^^ q) (a ^^^ b) = polyRem k r a ^^^ polyRem k q b := by
  induction k generalizing r q with
  | zero => rfl
  | succ k ih =>
    obtain ⟨ha, hra⟩ := polyRem_succ (k := k) (d := a) hr
    obtain ⟨hb, hqb⟩ := polyRem_succ (k := k) (d := b) hq
    rw [ha, hb, (polyRem_succ (Nat.xor_lt_two_pow hr hq)).1, Nat.testBit_xor, remStep_xor, ih hra hqb]

theorem polyRem_lt (k : Nat) {r d : Nat} (hr : r < 2 ^ 15) : polyRem k r d < 2 ^ 15 := by
  induction k generalizing r with
  | zero => exact hr
  | succ k ih =>
    obtain ⟨ha, hra⟩ := polyRem_succ (k := k) (d := d) hr
    rw [ha]
    exact ih hra

/-! ### What is stored reads back -/

/-- The coded bits of the stored word of `d`: `x^15 d(x) + r(x)` (R408). -/
def strongPoly (d : Nat) : Nat := d <<< 15 ^^^ strongCheck 64 d

theorem strongPoly_xor (a b : Nat) : strongPoly (a ^^^ b) = strongPoly a ^^^ strongPoly b := by
  have hrem : strongCheck 64 (a ^^^ b) = strongCheck 64 a ^^^ strongCheck 64 b := polyRem_xor (r := 0) (q := 0) 64 (by decide) (by decide)
  rw [strongPoly, hrem, Nat.shiftLeft_xor_distrib, strongPoly, strongPoly]
  ac_rfl

theorem strongPoly_codeword : ∀ d, d < 2 ^ 64 → syndromes 79 (strongPoly d) = (0, 0) ∧ onesN 79 (strongPoly d) % 2 = 0 := by
  refine xor_induction (by decide +kernel) (fun a b ⟨hsa, hpa⟩ ⟨hsb, hpb⟩ => ?_) (by decide +kernel)
  rw [strongPoly_xor]
  exact ⟨by rw [syndromes_xor, hsa, hsb]; rfl, by rw [onesN_xor]; omega⟩

theorem shiftLeft_xor_of_lt {r i : Nat} (hr : r < 2 ^ i) (d : Nat) : d <<< i ^^^ r = d <<< i ||| r := by
  refine Nat.eq_of_testBit_eq fun j => ?_
  rw [Nat.testBit_xor, Nat.testBit_or, Nat.testBit_shiftLeft]
  by_cases hj : i ≤ j
  · rw [Nat.testBit_lt_two_pow (hr.trans_le (Nat.pow_le_pow_right (by decide) hj)), Bool.xor_false, Bool.or_false]
  · simp [hj]

theorem strongEnc_parts {d : Nat} (hd : d < 2 ^ 64) :
    strongEnc 64 d < 2 ^ 80 ∧ codedBits 64 (strongEnc 64 d) = strongPoly d ∧
      (strongEnc 64 d).testBit 79 = decide (onesN 64 d % 2 = 1) := by
  have hr : strongCheck 64 d < 2 ^ 15 := polyRem_lt (r := 0) 64 (by decide)
  have hword : strongEnc 64 d = (onesN 64 d % 2) * 2 ^ 79 + (strongCheck 64 d * 2 ^ 64 + d) := by
    have hlow := Nat.shiftLeft_add_eq_or_of_lt hd (strongCheck 64 d)
    have hall := Nat.shiftLeft_add_eq_or_of_lt (b := strongCheck 64 d * 2 ^ 64 + d) (i := 79) (by omega) (onesN 64 d % 2)
    rw [Nat.shiftLeft_eq] at hlow hall
    rw [strongEnc, Nat.lor_comm d, Nat.shiftLeft_eq (strongCheck 64 d), ← hlow, Nat.lor_comm,
      Nat.shiftLeft_eq, hall]
  have hpar : onesN 64 d % 2 < 2 := Nat.mod_lt _ (by decide)
  refine ⟨by omega, ?_, ?_⟩
  · have hcheck : bitsN (strongEnc 64 d) 64 15 = strongCheck 64 d := by rw [bitsN, Nat.shiftRight_eq_div_pow, hword]; omega
    have hdata : strongEnc 64 d % 2 ^ 64 = d := by omega
    rw [codedBits, hcheck, hdata, strongPoly, shiftLeft_xor_of_lt hr]
  · have htop : strongEnc 64 d / 2 ^ 79 % 2 = onesN 64 d % 2 := by omega
    rw [Nat.testBit_eq_decide_div_mod_eq, htop]

/-- What is stored under the strong code reads free of errors, as itself. -/
theorem decW_encW (d : BitVec 64) : decW (encW d) = .ok d.toNat := by
  obtain ⟨hlt, hcode, hbit⟩ := strongEnc_parts d.isLt
  obtain ⟨hsyn, hpar⟩ := strongPoly_codeword _ d.isLt
  have hdata : strongPoly d.toNat >>> 15 = d.toNat := by
    have hcheck : strongCheck 64 d.toNat / 2 ^ 15 = 0 := Nat.div_eq_of_lt (polyRem_lt (r := 0) 64 (by decide))
    rw [strongPoly, Nat.shiftRight_xor_distrib, Nat.shiftRight_eq_div_pow (strongCheck _ _), hcheck, Nat.xor_zero, Nat.shiftLeft_shiftRight]
  have hq : (b2n (decide (onesN 64 d.toNat % 2 = 1)) + onesN 64 d.toNat) % 2 = 0 := by
    simp only [b2n, decide_eq_true_eq]
    split
    · omega
    · omega
  rw [decW, encW, BitVec.toNat_ofNat, Nat.mod_eq_of_lt hlt]
  simp only [strongDec, hcode, hsyn, hpar, hbit, hdata, hq, and_self, if_true]

end Sys2Proof.Machine
end

section
/-! SUPPORT. Sets of agents: how many they name, and one agent less (R57, R62). -/

namespace Sys2Proof.Machine

theorem onesN_eq_card (n v : Nat) : onesN n v = ((Finset.range n).filter fun i => v.testBit i = true).card := by
  rw [Finset.card_filter]
  induction n generalizing v with
  | zero => rfl
  | succ n ih =>
    have hbit : v % 2 = if v.testBit 0 = true then 1 else 0 := by
      simp only [Nat.testBit_zero, decide_eq_true_eq]
      split
      · assumption
      · omega
    simp only [onesN, ih, hbit, Finset.sum_range_succ', Nat.testBit_succ]
    omega

/-- The agents of a set. -/
def agents (v : Vec) : Finset Nat := (Finset.range 256).filter fun a => v.getLsbD a = true

theorem mem_agents {v : Vec} {a : Nat} : a ∈ agents v ↔ v.getLsbD a = true := by
  rw [agents, Finset.mem_filter, Finset.mem_range, and_iff_right_iff_imp]
  exact BitVec.lt_of_getLsbD

theorem popc_eq_card (v : Vec) : popc v = (agents v).card := by
  rw [popc, onesN_eq_card]
  rfl

theorem agents_without (v : Vec) (a : Nat) : agents (v &&& ~~~(vbit a)) = (agents v).erase a := by
  ext b
  rw [Finset.mem_erase, mem_agents, mem_agents, BitVec.getLsbD_and, BitVec.getLsbD_not]
  by_cases hb : b < 256
  · rw [getLsbD_vbit hb]
    simp [hb, and_comm]
  · simp [BitVec.getLsbD_of_ge v b (by omega)]

theorem popc_without {v : Vec} {a : Nat} (ha : v.getLsbD a = true) : popc (v &&& ~~~(vbit a)) = popc v - 1 := by
  rw [popc_eq_card, popc_eq_card, agents_without, Finset.card_erase_of_mem (mem_agents.mpr ha)]

theorem getLsbD_of_lowest {v : Vec} {a : Nat} (h : lowest v = some a) : v.getLsbD a = true := (List.find?_range_eq_some.mp h).1

theorem lowest_of_popc {v : Vec} (h : 1 ≤ popc v) : ∃ a, lowest v = some a := by
  rw [popc_eq_card, Nat.one_le_iff_ne_zero, Finset.card_ne_zero] at h
  obtain ⟨a, ha⟩ := h
  have ha := mem_agents.mp ha
  exact Option.isSome_iff_exists.mp (List.find?_isSome.mpr ⟨a, List.mem_range.mpr (BitVec.lt_of_getLsbD ha), ha⟩)

/-- A set of one agent names its lowest one. -/
theorem lowest_of_single {v : Vec} {a : Nat} (h : popc v = 1) (ha : v.getLsbD a = true) : lowest v = some a := by
  obtain ⟨b, hb⟩ := lowest_of_popc h.ge
  obtain ⟨c, hc⟩ := Finset.card_eq_one.mp ((popc_eq_card v).symm.trans h)
  have hbc : b = c := by simpa [hc] using mem_agents.mpr (getLsbD_of_lowest hb)
  have hac : a = c := by simpa [hc] using mem_agents.mpr ha
  rw [hb, hbc, hac]

end Sys2Proof.Machine
end

section
/-! SUPPORT. Palette slots: what a write of one leaves in the array, and what a read of one that is free of errors delivers (R57, R60 to
R63, R70). -/

namespace Sys2Proof.Machine

variable {x : PX} {k : Nat} {v : PSlot}

/-! ### Writing a slot -/

/-- Word `cw` of a slot (R57). -/
def PSlot.word (v : PSlot) (cw : Nat) : BitVec 64 := if cw = 4 then v.word4 else BitVec.ofNat 64 (bitsN v.vec.toNat (64 * cw) 64)

/-- A Palette array once slot `k` is written as `v`. -/
def palPut (pal : SMap (BitVec 80)) (k : Nat) (v : PSlot) : SMap (BitVec 80) :=
  (List.range 5).foldl (fun m cw => smSet m (k * 8 + cw) (encW (v.word cw))) pal

theorem palPut_at (pal : SMap (BitVec 80)) (k : Nat) (v : PSlot) {cw : Nat} (hcw : cw < 5) :
    smFind (palPut pal k v) (k * 8 + cw) = some (encW (v.word cw)) := by
  have hcases : cw = 0 ∨ cw = 1 ∨ cw = 2 ∨ cw = 3 ∨ cw = 4 := by omega
  rcases hcases with rfl | rfl | rfl | rfl | rfl <;> simp [palPut, List.range_succ, smFind_smSet_ne]

theorem palPut_other (pal : SMap (BitVec 80)) (v : PSlot) {k i : Nat} (h : i / 8 ≠ k ∨ 5 ≤ i % 8) :
    smFind (palPut pal k v) i = smFind pal i := by
  have hne (cw : Nat) (hcw : cw < 5) : i ≠ k * 8 + cw := by omega
  simp [palPut, List.range_succ, smFind_smSet_ne _ _ (hne _ _)]
  exact smFind_smSet_ne _ _ (hne 0 (by decide))

/-- The panel's Palette array and its merge table replaced. -/
def PX.putPal (x : PX) (pal : SMap (BitVec 80)) (m : List (Nat × Nat)) : PX := x.mod fun n => { n with pal := pal, merges := m }

/-- Beside its slot, a write touches at most the pairs that wait to be merged (R423). -/
theorem PX.setSlot_eq (x : PX) (k : Nat) (v : PSlot) : ∃ m, x.setSlot k v = x.putPal (palPut x.pn.pal k v) m := by
  have hdrop : ∃ m, (if x.pn.merges = [] then x else x.dropPairs k v) = x.putPal x.pn.pal m := by
    split
    · exact ⟨x.pn.merges, rfl⟩
    · unfold PX.dropPairs
      split
      · exact ⟨x.pn.merges, rfl⟩
      · exact ⟨_, rfl⟩
  obtain ⟨m, hm⟩ := hdrop
  exact ⟨m, by rw [PX.setSlot, hm]; rfl⟩

/-- The fields of a slot fit their places in its words (R57). -/
structure PSlot.Fit (v : PSlot) : Prop where
  ref : v.ref < 2 ^ 20
  part : v.part < 64
  fresh : v.fresh = false

theorem testBit_of_div {n i : Nat} {b : Bool} (h : n / 2 ^ i % 2 = b2n b) : n.testBit i = b := by
  rw [Nat.testBit_eq_decide_div_mod_eq, h]
  cases b <;> rfl

/-- The words of a slot read as the slot (R57). -/
theorem PSlot.ofWords_word (hv : v.Fit) : PSlot.ofWords (fun cw => (v.word cw).toNat) = v := by
  obtain ⟨href, hpart, hfresh⟩ := hv
  have hb (b : Bool) : b2n b < 2 := by cases b <;> decide
  have hvalid := hb v.valid
  have hlost := hb v.lost
  have hmixed := hb v.mixed
  have huncnt := hb v.uncnt
  have h4 : (v.word 4).toNat =
      v.ref * 2 ^ 44 + v.part * 2 ^ 38 + b2n v.valid * 2 ^ 37 + b2n v.lost * 2 ^ 36 + b2n v.mixed * 2 ^ 35 + b2n v.uncnt * 2 ^ 34 := by
    rw [PSlot.word, if_pos rfl, PSlot.word4, BitVec.toNat_ofNat, Nat.mod_eq_of_lt href, Nat.mod_eq_of_lt hpart]
    omega
  have hvec (cw : Nat) (hcw : cw < 4) : (v.word cw).toNat = v.vec.toNat / 2 ^ (64 * cw) % 2 ^ 64 := by
    rw [PSlot.word, if_neg (by omega), BitVec.toNat_ofNat, bitsN, Nat.shiftRight_eq_div_pow, Nat.mod_mod]
  have hlt := v.vec.isLt
  have hsum : (v.word 0).toNat + (v.word 1).toNat * 2 ^ 64 + (v.word 2).toNat * 2 ^ 128 + (v.word 3).toNat * 2 ^ 192 = v.vec.toNat := by
    rw [hvec 0 (by decide), hvec 1 (by decide), hvec 2 (by decide), hvec 3 (by decide)]
    omega
  have hrefs : bitsN (v.word 4).toNat 44 20 = v.ref := by rw [bitsN, Nat.shiftRight_eq_div_pow]; omega
  have hparts : bitsN (v.word 4).toNat 38 6 = v.part := by rw [bitsN, Nat.shiftRight_eq_div_pow]; omega
  have hbits : bitN (v.word 4).toNat 37 = v.valid ∧ bitN (v.word 4).toNat 36 = v.lost ∧ bitN (v.word 4).toNat 35 = v.mixed ∧
      bitN (v.word 4).toNat 34 = v.uncnt :=
    ⟨testBit_of_div (by omega), testBit_of_div (by omega), testBit_of_div (by omega), testBit_of_div (by omega)⟩
  obtain ⟨hbvalid, hblost, hbmixed, hbuncnt⟩ := hbits
  simp only [PSlot.ofWords, hsum, hrefs, hparts, hbvalid, hblost, hbmixed, hbuncnt, BitVec.ofNat_toNat, BitVec.setWidth_eq]
  rw [← hfresh]

theorem PSlot.fit_ofWords (w : Nat → Nat) : (PSlot.ofWords w).Fit :=
  ⟨Nat.mod_lt _ (by decide), Nat.mod_lt _ (by decide), rfl⟩

/-! ### Reading a slot -/

/-- Slot `k` reads, free of errors, as `v`. -/
def PX.slotClean (x : PX) (k : Nat) (v : PSlot) : Prop :=
  ∃ w : Nat → Nat, (∀ cw, cw < 5 → decW (x.rawPal k cw) = .ok (w cw)) ∧ PSlot.ofWords w = v

theorem PX.slotClean.fit (h : x.slotClean k v) : v.Fit := by
  obtain ⟨w, -, rfl⟩ := h
  exact PSlot.fit_ofWords w

/-- A read that finds no error changes nothing. -/
theorem PX.readSlot_clean (h : x.slotClean k v) : x.readSlot k = (x, v) := by
  obtain ⟨w, hw, rfl⟩ := h
  have h0 := hw 0 (by decide)
  have h1 := hw 1 (by decide)
  have h2 := hw 2 (by decide)
  have h3 := hw 3 (by decide)
  have h4 := hw 4 (by decide)
  simp [PX.readSlot, List.range_succ, h0, h1, h2, h3, h4, PSlot.ofWords, Dec.data]

theorem PX.rawPal_eq (hu : x.u = {}) (k cw : Nat) :
    x.rawPal k cw = smGet (Config.freePal x.s.nonce x.p (k * 8 + cw)) x.pn.pal (k * 8 + cw) := by
  rw [PX.rawPal, hu]
  exact BitVec.xor_zero

/-- A slot reads as the state says where its words are the state's. -/
theorem PX.slotClean_of_reads {s : State} {p : Nat} (h : s.slotReads p k v) (hu : x.u = {}) (hs : x.s.nonce = s.nonce) (hp : x.p = p)
    (hpal : ∀ cw, cw < 5 → smFind x.pn.pal (k * 8 + cw) = smFind (s.panel p).pal (k * 8 + cw)) : x.slotClean k v := by
  obtain ⟨w, hw, hv⟩ := h
  refine ⟨w, fun cw hcw => ?_, hv⟩
  have hread := hw cw hcw
  have hraw : x.rawPal k cw = smGet (Config.freePal s.nonce p (k * 8 + cw)) (s.panel p).pal (k * 8 + cw) := by
    rw [PX.rawPal_eq hu, hs, hp, smGet, smGet, hpal cw hcw]
  rw [hraw]
  unfold State.palOf at hread
  split at hread
  case h_1 d hd => rw [hd, Option.some.inj hread]
  case h_2 => cases hread

/-- A slot that has been written reads as what was written. -/
theorem PX.slotClean_of_put (hv : v.Fit) (hu : x.u = {}) {pal : SMap (BitVec 80)} (hpal : x.pn.pal = palPut pal k v) : x.slotClean k v := by
  refine ⟨fun cw => (v.word cw).toNat, fun cw hcw => ?_, PSlot.ofWords_word hv⟩
  rw [PX.rawPal_eq hu, smGet, hpal, palPut_at _ _ _ hcw, Option.getD_some, decW_encW]

/-! ### Releasing a slot -/

/-- A slot that an entry stops naming counts one entry less, and is free where none is left (R63). -/
theorem PX.release_clean (h : x.slotClean k v) (hl : v.lost = false) (hu : v.uncnt = false) (hv : v.valid = true) (hr : 1 ≤ v.ref)
    (set : Nat) : x.release k set = x.setSlot k v.released := by
  have hcounts : x.counts v set = true := by simp [PX.counts, hu]
  simp only [PX.release, PX.readSlot_clean h, hcounts, hu, hl, if_true, Bool.false_eq_true, if_false]
  by_cases h1 : v.ref = 1
  · simp [h1, PSlot.released, hl, hu]
  · have h0 : v.ref - 1 ≠ 0 := by omega
    have hrel : v.released = { v with ref := v.ref - 1 } := by rw [PSlot.released, decide_eq_true h1, ← hv]
    simp [h0, hrel, hl, hu]

theorem PSlot.Fit.released (hv : v.Fit) : v.released.Fit := ⟨(Nat.sub_le _ _).trans_lt hv.ref, hv.part, hv.fresh⟩

/-! ### Taking a slot -/

variable {r : Vec} {vs : Nat → PSlot}

theorem toNat_foldl_xor (v : Vec) (l : List Nat) (a : BitVec 16) :
    (l.foldl (fun a i => a ^^^ v.extractLsb' (16 * i) 16) a).toNat = l.foldl (fun a i => a ^^^ bitsN v.toNat (16 * i) 16) a.toNat := by
  induction l generalizing a with
  | nil => rfl
  | cons i l ih => rw [List.foldl_cons, List.foldl_cons, ih, BitVec.toNat_xor, toNat_bitsN]

/-- The set in which a panel looks a vector up is the one of R59. -/
theorem PX.palSet_eq (x : PX) (v : Vec) : x.palSet v = x.s.palSetOf v := by
  rw [PX.palSet, State.palSetOf, BitVec.toNat_xor, BitVec.toNat_ushiftRight, toNat_foldl_xor]
  rfl

/-- PART and MIXED that a panel writes for a set of agents are those of R61. -/
theorem PX.partMix_rule (x : PX) {v : Vec} (hv : 1 ≤ popc v) (y : PSlot) (hpart : y.part = (x.partMix v).1)
    (hmixed : y.mixed = (x.partMix v).2) : x.s.partRule v y := by
  have hone (q : Nat) : (∀ a, a < 256 → v.getLsbD a = true → (x.s.portOf a).part = q) ↔ ∀ e ∈ (members v).map x.partOf, e = q := by
    rw [List.forall_mem_map]
    simp [members, PX.partOf]
  simp only [State.partRule, hone]
  unfold PX.partMix at hpart hmixed
  rcases hl : (members v).map x.partOf with _ | ⟨c, l⟩
  · obtain ⟨b, hb⟩ := lowest_of_popc hv
    have hb := getLsbD_of_lowest hb
    exact absurd (List.map_eq_nil_iff.mp hl) (List.ne_nil_of_mem (List.mem_filter.mpr ⟨List.mem_range.mpr (BitVec.lt_of_getLsbD hb), hb⟩))
  · simp only [hl] at hpart hmixed
    by_cases hall : (l.all fun e => decide (e = c)) = true
    · rw [if_pos hall] at hpart hmixed
      have hc : ∀ e ∈ c :: l, e = c := List.forall_mem_cons.mpr ⟨rfl, by simpa using hall⟩
      exact ⟨fun q hq => ⟨hpart.trans (hq c (List.mem_cons_self)), hmixed⟩, fun hno => absurd ⟨c, hc⟩ hno⟩
    · rw [if_neg hall] at hpart hmixed
      refine ⟨fun q hq => absurd (List.all_eq_true.mpr fun e he => decide_eq_true ?_) hall, fun _ => ⟨hpart, hmixed⟩⟩
      rw [hq e (List.mem_cons_of_mem _ he), hq c List.mem_cons_self]

theorem PX.partMix_lt (x : PX) (v : Vec) (hpart : ∀ a, a < 256 → (x.s.portOf a).part < 64) : (x.partMix v).1 < 64 := by
  unfold PX.partMix
  rcases hl : (members v).map x.partOf with _ | ⟨c, l⟩
  · decide
  · obtain ⟨a, ha, rfl⟩ := List.mem_map.mp (hl ▸ List.mem_cons_self : c ∈ (members v).map x.partOf)
    have ha := hpart a (List.mem_range.mp (List.mem_of_mem_filter ha))
    dsimp only
    split
    · exact ha
    · decide

theorem find?_slots {b j : Nat} {P : Nat × PSlot → Bool} (hj : j < 4) (hP : P (b + j, vs j) = true)
    (hfirst : ∀ i, i < j → P (b + i, vs i) = false) : ((List.range 4).map fun i => (b + i, vs i)).find? P = some (b + j, vs j) := by
  have hfind : (List.range 4).find? (P ∘ fun i => (b + i, vs i)) = some j :=
    List.find?_range_eq_some.mpr ⟨hP, List.mem_range.mpr hj, fun i hi => by simp [hfirst i hi]⟩
  rw [List.find?_map, hfind, Option.map_some]

theorem find?_slots_none {b : Nat} {P : Nat × PSlot → Bool} (h : ∀ i, i < 4 → P (b + i, vs i) = false) :
    ((List.range 4).map fun i => (b + i, vs i)).find? P = none :=
  List.find?_eq_none.mpr fun e he => by
    obtain ⟨i, hi, rfl⟩ := List.mem_map.mp he
    simp [h i (List.mem_range.mp hi)]

/-- Slot `e` of a vector's set holds the vector, and is trusted (R60). -/
def fits (r : Vec) (e : Nat × PSlot) : Bool := e.2.valid && !e.2.lost && decide (e.2.vec = r)

theorem fits_eq_true {b j : Nat} : fits r (b, vs j) = true ↔ Fits r (vs j) := by simp [fits, Fits, and_assoc]

theorem fits_eq_false {b j : Nat} : fits r (b, vs j) = false ↔ ¬ Fits r (vs j) := by
  rw [← fits_eq_true (b := b), Bool.not_eq_true]

/-- A look-up reads the four slots of the vector's set, and takes the first that fits, or else the first that is free (R60). -/
theorem PX.acquire_clean (h : ∀ j, j < 4 → x.slotClean (4 * x.s.palSetOf r + j) (vs j)) (set : Nat) (wp : Option (Nat × Nat)) :
    x.acquire r set wp =
      match ((List.range 4).map fun j => (4 * x.s.palSetOf r + j, vs j)).find? (fits r) with
      | some e => ((x.setSlot e.1 { e.2 with ref := if x.counts e.2 set then e.2.ref + 1 else e.2.ref }).eff (.event 0x09 1 wp), some e.1)
      | none =>
        match ((List.range 4).map fun j => (4 * x.s.palSetOf r + j, vs j)).find? fun e => !e.2.valid with
        | some e =>
          ((x.setSlot e.1 { vec := r, ref := 1, part := (x.partMix r).1, valid := true, mixed := (x.partMix r).2 }).eff (.event 0x0A 1 wp),
            some e.1)
        | none => (x, none) := by
  have hread (j : Nat) (hj : j < 4) := PX.readSlot_clean (h j hj)
  have h0 := hread 0 (by decide)
  simp only [Nat.add_zero] at h0
  simp only [PX.acquire, PX.palSet_eq, Nat.mul_comm _ 4, List.range_succ, List.range_zero, List.nil_append, List.foldl_append, List.foldl_cons,
    List.foldl_nil, Nat.add_zero, h0, hread 1 (by decide), hread 2 (by decide), hread 3 (by decide)] <;> rfl

theorem exists_first {P : Nat → Prop} {n : Nat} (h : ∃ j, j < n ∧ P j) : ∃ j, j < n ∧ P j ∧ ∀ i, i < j → ¬ P i := by
  classical
  obtain ⟨hj, hP⟩ := Nat.find_spec h
  exact ⟨_, hj, hP, fun i hi hPi => Nat.find_min h hi ⟨hi.trans hj, hPi⟩⟩

/-- A vector is taken by a slot that holds it, or else by the first free one (R60, R61). -/
theorem PX.acquire_takes (h : ∀ j, j < 4 → x.slotClean (4 * x.s.palSetOf r + j) (vs j))
    (hcount : ∀ j, j < 4 → (vs j).uncnt = false ∧ (vs j).ref + 1 < 2 ^ 20) (hpart : ∀ a, a < 256 → (x.s.portOf a).part < 64)
    (hr : 1 ≤ popc r) (hslot : ¬ NoSlot r vs) (set : Nat) (wp : Option (Nat × Nat)) :
    ∃ j y e, x.s.takesSlot r vs j y ∧ y.Fit ∧ e.counts ∧
      x.acquire r set wp = ((x.setSlot (4 * x.s.palSetOf r + j) y).eff e, some (4 * x.s.palSetOf r + j)) := by
  rw [PX.acquire_clean h]
  by_cases hfit : ∃ j, j < 4 ∧ Fits r (vs j)
  · obtain ⟨j, hj, hfits, hfirst⟩ := exists_first hfit
    obtain ⟨huncnt, href⟩ := hcount j hj
    have hcounts : x.counts (vs j) set = true := by simp [PX.counts, huncnt]
    have hvfit := (h j hj).fit
    rw [find?_slots hj (fits_eq_true.mpr hfits) fun i hi => fits_eq_false.mpr (hfirst i hi)]
    exact ⟨j, { vs j with ref := (vs j).ref + 1 }, .event 0x09 1 wp, ⟨hj, .inl ⟨hfits, rfl⟩⟩, ⟨href, hvfit.part, hvfit.fresh⟩, trivial,
      by simp only [hcounts, if_true]⟩
  · have hnone (i : Nat) (hi : i < 4) : ¬ Fits r (vs i) := fun hf => hfit ⟨i, hi, hf⟩
    have hfree : ∃ j, j < 4 ∧ (vs j).valid = false := by
      by_contra hno
      exact hslot fun j hj => ⟨hnone j hj, by simpa using fun hv => hno ⟨j, hj, hv⟩⟩
    obtain ⟨j, hj, hinvalid, hfirst⟩ := exists_first hfree
    have hfirst (i : Nat) (hi : i < j) : (vs i).valid = true := by simpa using hfirst i hi
    rw [find?_slots_none fun i hi => fits_eq_false.mpr (hnone i hi), find?_slots hj (by simp [hinvalid]) fun i hi => by simp [hfirst i hi]]
    exact ⟨j, { vec := r, ref := 1, part := (x.partMix r).1, valid := true, mixed := (x.partMix r).2 }, .event 0x0A 1 wp,
      ⟨hj, .inr ⟨hnone, hinvalid, hfirst, rfl, rfl, rfl, rfl, rfl, x.partMix_rule hr _ rfl rfl⟩⟩,
      ⟨Nat.one_lt_two_pow (by decide), x.partMix_lt r hpart, rfl⟩, trivial, rfl⟩

theorem PX.acquire_none (h : ∀ j, j < 4 → x.slotClean (4 * x.s.palSetOf r + j) (vs j)) (hslot : NoSlot r vs) (set : Nat)
    (wp : Option (Nat × Nat)) : x.acquire r set wp = (x, none) := by
  rw [PX.acquire_clean h, find?_slots_none fun i hi => fits_eq_false.mpr (hslot i hi).1, find?_slots_none fun i hi => by simp [(hslot i hi).2]]

end Sys2Proof.Machine
end

section
/-! SUPPORT. The entry of a line with one holder less (R62 to R67): its slot released, rewritten in place, exchanged for another, or the
line narrowed. -/

namespace Sys2Proof.Machine

variable {x : PX} {k : Nat} {v : PSlot} {r : Vec} {vs : Nat → PSlot}

/-- Slot `k` reads, free of errors, as `v`, a vector in use that the line of the context names (R57). -/
structure PX.Names (x : PX) (k : Nat) (v : PSlot) : Prop where
  clean : x.slotClean k v
  lost : v.lost = false
  uncnt : v.uncnt = false
  valid : v.valid = true
  ref : 1 ≤ v.ref

theorem PX.Names.release (h : x.Names k v) (set : Nat) : x.release k set = x.setSlot k v.released :=
  PX.release_clean h.clean h.lost h.uncnt h.valid h.ref set

/-- The entry of a line with the holders of a slot `n`, under owner `ow` if there is one (R48). -/
def palEnt (ow : Option Nat) (n : Nat) : Ent := { st := if ow.isSome then 7 else 5, agent := ow.getD 0, pal := n }

/-- The one holder that a line of the holders `r` keeps: its owner, or its lowest agent (R67). -/
def keeps (ow : Option Nat) (r : Vec) : Nat := ow.getD ((lowest r).getD 0)

/-- The entry of a line with one holder left (R48). -/
def soloEnt (ow : Option Nat) (a : Nat) : Ent := { st := if ow.isSome then 6 else 4, agent := a }

/-- One holder left is stored in the entry, and the slot released (R64). -/
theorem PX.formEnt_one (h : x.Names k v) (hr : popc r = 1) (ow : Option Nat) (set : Nat) (wp : Option (Nat × Nat)) :
    x.formEnt (some k) ow r set wp = (x.setSlot k v.released, soloEnt ow ((lowest r).getD 0), 0) := by
  simp [PX.formEnt, hr, h.release, soloEnt]

/-- A vector whose slot the line alone names is rewritten in place (R62). -/
theorem PX.formEnt_rewrites (h : x.Names k v) (hr : 2 ≤ popc r) (hne : v.vec ≠ r) (hsub : r &&& v.vec = r) (href : v.ref = 1)
    (ow : Option Nat) (set : Nat) (wp : Option (Nat × Nat)) :
    x.formEnt (some k) ow r set wp =
      (x.setSlot k { v with vec := r, part := (x.partMix r).1, mixed := (x.partMix r).2 }, palEnt ow k, 0) := by
  have h0 : popc r ≠ 0 := by omega
  have h1 : popc r ≠ 1 := by omega
  simp [PX.formEnt, h0, h1, PX.placeVec, PX.readSlot_clean h.clean, hne, href, hsub, h.lost, h.uncnt, palEnt]

/-- A vector whose slot other lines name is looked up again, the slot released (R63). -/
theorem PX.placeVec_moves (h : x.Names k v) (hne : v.vec ≠ r) (href : 2 ≤ v.ref) (set : Nat) (wp : Option (Nat × Nat)) :
    x.placeVec (some k) r set wp = (x.setSlot k v.released).acquire r set wp := by
  have h1 : v.ref ≠ 1 := by omega
  simp [PX.placeVec, PX.readSlot_clean h.clean, hne, h1, h.release]

theorem PX.formEnt_moves (h : x.Names k v) (hr : 2 ≤ popc r) (hne : v.vec ≠ r) (href : 2 ≤ v.ref) {y : PX} {n : Nat} {set : Nat}
    {wp : Option (Nat × Nat)} (hacq : (x.setSlot k v.released).acquire r set wp = (y, some n)) (ow : Option Nat) :
    x.formEnt (some k) ow r set wp = (y, palEnt ow n, 0) := by
  have h0 : popc r ≠ 0 := by omega
  have h1 : popc r ≠ 1 := by omega
  simp [PX.formEnt, h0, h1, PX.placeVec_moves h hne href, hacq, palEnt]

/-- A line whose vector no slot takes is narrowed to its owner, or its lowest agent, and the others are invalidated (R65, R67). -/
theorem PX.formEnt_narrows (h : x.Names k v) (hr : 2 ≤ popc r) (hne : v.vec ≠ r) (href : 2 ≤ v.ref) {y : PX} {set : Nat}
    {wp : Option (Nat × Nat)} (hacq : (x.setSlot k v.released).acquire r set wp = (y, none)) (ow : Option Nat) :
    x.formEnt (some k) ow r set wp = (y.eff (.event 0x08 1 wp), soloEnt ow (keeps ow r), r &&& ~~~(vbit (keeps ow r))) := by
  have h0 : popc r ≠ 0 := by omega
  have h1 : popc r ≠ 1 := by omega
  cases ow with
  | none => simp [PX.formEnt, h0, h1, PX.placeVec_moves h hne href, hacq, soloEnt, keeps]
  | some a => simp [PX.formEnt, h0, h1, PX.placeVec_moves h hne href, hacq, soloEnt, keeps]

/-- The slots of a vector's set once slot `k` has been released, as the state says that they read. -/
theorem PX.released_clean {s : State} {p : Nat} (hu : x.u = {}) (hs : x.s.nonce = s.nonce) (hp : x.p = p) (hpal : x.pn.pal = (s.panel p).pal)
    (hv : v.Fit) (hread : s.palSetReads p r (some (k, v.released)) vs) (j : Nat) (hj : j < 4) :
    (x.setSlot k v.released).slotClean (4 * s.palSetOf r + j) (vs j) := by
  obtain ⟨-, -, hsame, hother⟩ := hread j hj
  obtain ⟨m, hm⟩ := x.setSlot_eq k v.released
  rw [hm]
  by_cases hk : k = 4 * s.palSetOf r + j
  · rw [hsame _ rfl hk, ← hk]
    exact PX.slotClean_of_put hv.released hu rfl
  · refine PX.slotClean_of_reads (hother fun e he => ?_) hu hs hp fun cw hcw => ?_
    · obtain rfl := Option.some.inj he
      exact hk
    · rw [← hpal]
      exact palPut_other _ _ (.inl (by omega))

end Sys2Proof.Machine
end

section
/-! SUPPORT. A panel accepts a WBK of a line that nothing holds: the writeback HTC that it enters, and what the panel does then with the
line's entry (R127, R160). -/

namespace Sys2Proof.Machine

variable {s : State} {p j w : Nat} {k : Packet} {r : Attr} {es : Nat → Ent} {x : PX} {h : Htc}

/-! ### Acceptance -/

/-- At a panel of which no HTC stands before its directory read, none reads it now (R161). -/
theorem PX.pumpGo_quiet (hx : ∀ e ∈ x.pn.htcs, e.2.undecided = false) : x.pumpGo = x := by
  have hnone : (x.pn.htcs.filter fun e => x.due e.1 e.2) = [] :=
    List.filter_eq_nil_iff.mpr fun e he => by simp [PX.due, hx e he]
  simp only [PX.pumpGo, hnone, List.insertionSort_nil, List.foldl_nil]

/-- The panel once it has accepted WBK `k` (R148, R502). -/
def PX.noted (x : PX) (k : Packet) : PX :=
  (((x.mod fun n => { n with lastAcc := some x.s.clk.cyc }).eff (.event 2 1 (wpOf k))).mod fun n => { n with seq := n.seq + 1 })

/-- The writeback HTC that WBK `k` enters (R160). -/
def PX.wbkHtc (x : PX) (k : Packet) : Htc :=
  { job := .wbk, pool := 1, phase := .queued, seq := x.pn.seq, acc := x.s.clk.cyc, pkt := k, line := k.hdr.addr, stamps := [(0, k.capt)] }

/-- A WBK of a line that no HTC holds, of a set that is not swept, is processed in the free HTC (R127, R160). -/
theorem PX.acceptWbk_idle (hq : ∀ e ∈ x.pn.htcs, e.2.undecided = false) (hidle : ∀ e ∈ x.pn.htcs, e.2.onLine k.hdr.addr = false)
    (hswept : (x.s.hash k.hdr.addr).set ∉ x.pn.sweeping) (hj : x.freeHtc 1 = some j) :
    x.acceptWbk k = some ((x.noted k).processWbk j (x.wbkHtc k) false, none) := by
  have hhead := PX.headOf_of_idle hidle
  have hany : (x.pn.htcs.any fun e => decide (e.2.job = .wbk) && decide (e.2.line = k.hdr.addr)) = false :=
    List.any_eq_false.mpr fun e he => by
      have := hidle e he
      simp only [Htc.onLine, Bool.or_eq_false_iff, Bool.and_eq_false_iff] at this
      obtain ⟨⟨hjob | hline, -⟩, -⟩ := this
      · intro hwbk
        simp only [Bool.and_eq_true, decide_eq_true_eq] at hwbk
        rw [hwbk.1] at hjob
        cases hjob
      · simp [of_decide_eq_false hline]
  have hfate : x.wbkFate k = .process false := by
    simp [PX.wbkFate, hhead, PX.swept, hswept, hany]
  have hnohead : (x.noted k).headOf k.hdr.addr = none := PX.headOf_of_idle hidle
  have hnew : (x.noted k).processNew j (x.wbkHtc k) false = (x.noted k).processWbk j (x.wbkHtc k) false := by
    simp [PX.processNew, PX.wbkHtc, hnohead]
  simp only [PX.acceptWbk, PX.pumpGo_quiet hq, PX.takeWbk, PX.readsFirst, hhead, Bool.false_eq_true, if_false, hfate, hj]
  exact congrArg (fun y => some (y, none)) hnew

/-- A panel that accepts a WBK, and in processing it only counts events, stands as its step leaves it; the buffer's credit is owed
(R127, R186). -/
theorem State.wbkStep_acts {opc : Nat} {y z : PX} (ht : s.takes p) (hturn : (s.px p {}).wbkTurn = some k) (ho : k.hdr.opc = opc)
    (hacc : (s.inputPx p cWBK).acceptWbk k = some (y, none)) (hz : y.pumpSweeps.pumpEbar = z) (he : ∀ e ∈ z.effs, e.counts) :
    ∃ t, s.atInput p (s.wbkStep p opc {}) = .next t ∧ PanelFrame s t p ∧ Took s t (.panelIn p) cWBK ∧ t.panel p = z.pn := by
  obtain ⟨hf, hn, hp⟩ := (s.take (.panelIn p) cWBK).commitPx_counts p he
  have hrun : s.wbkStep p opc {} = (s.take (.panelIn p) cWBK).commitPx p z := by
    unfold State.inputPx at hacc
    simp only [State.wbkStep, hturn, ho, if_true, State.panelStep, hacc, hz]
  refine ⟨_, (State.atInput_of_takes ht _).trans (congrArg _ hrun), hf, ?_, hp⟩
  obtain ⟨hq, ho, hother⟩ := s.took_take (.panelIn p) cWBK
  simp only [Took, State.q, State.owed, hn] at hq ho hother ⊢
  exact ⟨hq, ho, hother⟩

/-! ### The line's entry -/

/-- HTC `h` of WBK `k` has passed the checks, its region is `r`, and the ways of its line's set read as `es`. -/
structure PX.AtEntry (x : PX) (i : Nat) (h : Htc) (k : Packet) (r : Attr) (es : Nat → Ent) : Prop where
  pkt : h.pkt = k
  line : h.line = k.hdr.addr
  free : x.htc? i = none
  upset : x.u = {}
  hit : decodeIn x.pn.look (k.hdr.addr * 64) = some r
  check : x.wbkCheck k (some r) false = .entry r
  read : ∀ w, w < 16 → x.wayClean (x.setOf k.hdr.addr) w (es w)

/-- The panel once the region of line `l` has moved to the front of its lookaside (R166). -/
def PX.looked (x : PX) (r : Attr) : PX := x.mod fun n => { n with look := r :: n.look.filter fun y => y.idx ≠ r.idx || y != r }

/-- The HTC of WBK `k` with its region, in its 8 HCLK (R160). -/
def Htc.entered (h : Htc) (k : Packet) (r : Attr) (cyc : Nat) : Htc :=
  { h with pkt := k, line := k.hdr.addr, reg := some r, start := cyc }

/-- The HTC in CLOSE (R160). -/
def Htc.evicted (h : Htc) (way : Option Nat) (fin : Ent) (cyc : Nat) : Htc :=
  { h with expect := 0, sum := 0, tset := 0, acked := 0, phase := .close, way := way, fin := fin, closeAt := cyc }

theorem PX.wbkClose_quiet (i : Nat) (h : Htc) (way : Option Nat) (fin : Ent) :
    x.wbkClose i h way fin 0 = x.setHtc i (h.evicted way fin x.s.clk.cyc) := rfl

theorem PX.lookup_hit {l : Nat} (hu : x.u = {}) (hit : decodeIn x.pn.look l = some r) : x.lookup l = (x.looked r, some r) := by
  simp [PX.lookup, hu, hit, PX.looked]

/-- The line's directory read finds way `w` of the ways `es`, and no other (R49). -/
def Finds (es : Nat → Ent) (tag w : Nat) : Prop :=
  w < 16 ∧ (es w).st ≠ 0 ∧ (es w).tag = tag ∧ ∀ v, v < 16 → v ≠ w → (es v).st ≠ 0 → (es v).tag ≠ tag

theorem Finds.find? {tag : Nat} (hf : Finds es tag w) :
    ((List.range 16).map fun w => (w, (es w).canon)).find? (fun e => decide (e.2.st ≠ 0) && decide (e.2.tag = tag)) = some (w, (es w).canon) := by
  obtain ⟨hw, hst, htag, hone⟩ := hf
  refine find?_ways (f := fun w => (es w).canon) hw (by simp [hst, htag]) fun v hv => ?_
  by_cases h0 : (es v).st = 0
  · simp [h0]
  · simp [hone v (by omega) (by omega) h0]

theorem find?_untracked {tag : Nat} (h : ∀ v, v < 16 → (es v).st ≠ 0 → (es v).tag ≠ tag) :
    ((List.range 16).map fun w => (w, (es w).canon)).find? (fun e => decide (e.2.st ≠ 0) && decide (e.2.tag = tag)) = none := by
  refine List.find?_eq_none.mpr fun e he => ?_
  obtain ⟨v, hv, rfl⟩ := List.mem_map.mp he
  have hv := h v (List.mem_range.mp hv)
  by_cases h0 : (es v).st = 0
  · simp [h0]
  · simp [hv h0]

theorem PX.AtEntry.readSet (hx : x.AtEntry j h k r es) (wp : Option (Nat × Nat)) :
    (x.looked r).readSet j ((x.looked r).setOf k.hdr.addr) wp =
      (x.looked r, { ents := (List.range 16).map fun w => (w, (es w).canon), bad := false }) :=
  PX.readSet_clean (x := x.looked r) hx.read j wp

theorem PX.AtEntry.checked (hx : x.AtEntry j h k r es) : (x.looked r).wbkCheck k (some r) false = .entry r := hx.check

/-- The panel that answers WBK `k` (R127). -/
def PX.wbkAnswered (x : PX) (j : Nat) (k : Packet) (opc : Nat) : PX := x.send (x.rspMsg j k.hdr opc 0 0)

theorem PX.ackWbk_evc (x : PX) (j : Nat) (ho : k.hdr.opc = oEvC) : x.ackWbk j k = x.wbkAnswered j k oEvAck := by
  simp [PX.ackWbk, ho, PX.sendRsp_eq, PX.wbkAnswered]

theorem PX.ackWbk_wb (x : PX) (j : Nat) (ho : k.hdr.opc ≠ oEvC) : x.ackWbk j k = x.wbkAnswered j k oWbAck := by
  simp [PX.ackWbk, ho, PX.sendRsp_eq, PX.wbkAnswered]

/-- EvC of a line that no way names is answered (R127). -/
theorem PX.processWbk_untracked (hx : x.AtEntry j h k r es) (ho : k.hdr.opc = oEvC)
    (hmiss : ∀ v, v < 16 → (es v).st ≠ 0 → (es v).tag ≠ (x.s.hash k.hdr.addr).tag) :
    x.processWbk j h false = ((x.looked r).wbkAnswered j k oEvAck).setHtc j ((h.entered k r x.s.clk.cyc).evicted none {} x.s.clk.cyc) := by
  have hfind := find?_untracked (tag := ((x.looked r).s.hash k.hdr.addr).tag) hmiss
  simp only [PX.processWbk, hx.pkt, hx.line, hx.free, Option.isSome_none, PX.lookup_hit hx.upset hx.hit, hx.checked, PX.wbkRefused, hx.readSet,
    hfind, ho, Bool.false_eq_true, if_false, if_true, PX.ackWbk_evc _ _ ho]
  rfl

variable {d : Hold'}

/-- EvC of a holder in U-any whose line is clean empties the entry (R127). -/
theorem PX.processWbk_clean (hx : x.AtEntry j h k r es) (ho : k.hdr.opc = oEvC) (hf : Finds es (x.s.hash k.hdr.addr).tag w)
    (hd : (x.looked r).holders (es w).canon = (x.looked r, d)) (hst : d.ent.st = 1 ∨ d.ent.st = 2) (ha : d.ent.agent = k.hdr.src) :
    x.processWbk j h false = ((x.looked r).wbkAnswered j k oEvAck).setHtc j ((h.entered k r x.s.clk.cyc).evicted (some w) {} x.s.clk.cyc) := by
  have howner : ((isU d.ent.st || isO d.ent.st) && decide (d.ent.agent = k.hdr.src)) = true := by
    rcases hst with hst | hst <;> simp [isU, hst, ha]
  have hclean : ¬ (d.ent.st = 3 ∨ isO d.ent.st = true) := by
    rcases hst with hst | hst <;> simp [isO, hst]
  have hfind := Finds.find? (tag := ((x.looked r).s.hash k.hdr.addr).tag) hf
  simp only [PX.processWbk, hx.pkt, hx.line, hx.free, Option.isSome_none, PX.lookup_hit hx.upset hx.hit, hx.checked, PX.wbkRefused, hx.readSet,
    hfind, ho, Bool.false_eq_true, if_false, if_true]
  simp only [hd, howner, hclean, and_false, if_false, if_true, PX.ackWbk_evc _ _ ho]
  rfl

/-- EvC of a sharer takes it out of the holders (R127). -/
theorem PX.processWbk_sharer (hx : x.AtEntry j h k r es) (ho : k.hdr.opc = oEvC) (hf : Finds es (x.s.hash k.hdr.addr).tag w)
    (hd : (x.looked r).holders (es w).canon = (x.looked r, d))
    (howner : ((isU d.ent.st || isO d.ent.st) && decide (d.ent.agent = k.hdr.src)) = false) (hl : d.lost = false)
    (hmem : d.vec.getLsbD k.hdr.src = true) :
    x.processWbk j h false = ((x.looked r).wbkAnswered j k oEvAck).removeHolder j (h.entered k r x.s.clk.cyc) w d k.hdr.src := by
  have hfind := Finds.find? (tag := ((x.looked r).s.hash k.hdr.addr).tag) hf
  simp only [PX.processWbk, hx.pkt, hx.line, hx.free, Option.isSome_none, PX.lookup_hit hx.upset hx.hit, hx.checked, PX.wbkRefused, hx.readSet,
    hfind, ho, Bool.false_eq_true, if_false, if_true]
  simp only [hd, howner, hl, hmem, not_true_eq_false, or_self, Bool.false_eq_true, false_and, if_false, PX.ackWbk_evc _ _ ho]
  rfl

/-- The memory write of a line that leaves its holder (R321). -/
def PX.lineWrite (x : PX) (k : Packet) (l : Nat) (r : Attr) : MemReq :=
  { mopc := 2, line := l, world := k.hdr.world, part := k.hdr.part, code := r.code, size := 6, off := 0, data := k.data,
    be := BitVec.allOnes 64, own := .wr x.p x.pn.wseq }

/-- The panel that has issued the write `q` at port `m` (R321, R330). -/
def PX.wrote (x : PX) (m : Nat) (q : MemReq) (wrs : SMap Wr) (llt : SMap Nat) (e : Eff) : PX :=
  (x.mod fun n => { n with wseq := n.wseq + 1, wrs := wrs, llt := llt, memOut := smMod [] n.memOut m (· ++ [q]) }).eff e

theorem PX.writeLine_sound (hu : x.u = {}) (l : Nat) (r : Attr) (hk : k.hdr.poison = false) (who : List (Nat × Nat)) :
    ∃ wrs llt, x.writeLine k.hdr l (some r) { data := k.data, poison := k.hdr.poison } who =
      x.wrote (r.port (l * 64)) (x.lineWrite k l r) wrs llt (.event 0x11 1 (some (k.hdr.world, k.hdr.part))) := by
  have hok : ∀ b, x.bufCheck b = .ok := fun b => PX.bufCheck_of_ok (by rw [hu]) b
  exact ⟨smSet x.pn.wrs x.pn.wseq { line := l, who := who, dev := none }, x.pn.llt.filter fun e => e.2 ≠ l, by
    simp only [PX.writeLine, PX.issueWr, hk, hok, PX.bufCount, reduceCtorEq, decide_false, Bool.or_false, Bool.false_eq_true, false_and,
      if_false, if_true, not_false_eq_true, and_self]
    rfl⟩

/-- WbD of the holder in U-any and WbO of the owner in O-solo write the line and empty the entry (R127). -/
theorem PX.processWbk_dirty (hx : x.AtEntry j h k r es) (hf : Finds es (x.s.hash k.hdr.addr).tag w)
    (hd : (x.looked r).holders (es w).canon = (x.looked r, d)) (hslot : d.slot = none) (ha : d.ent.agent = k.hdr.src)
    (hp : k.hdr.poison = false)
    (hst : k.hdr.opc = oWbD ∧ isU d.ent.st = true ∨ k.hdr.opc = oWbO ∧ d.ent.st = 6) :
    ∃ wrs llt, x.processWbk j h false =
      (((x.looked r).wrote (r.port (k.hdr.addr * 64)) (x.lineWrite k k.hdr.addr r) wrs llt
        (.event 0x11 1 (some (k.hdr.world, k.hdr.part)))).wbkAnswered j k oWbAck).setHtc j
        ((h.entered k r x.s.clk.cyc).evicted (some w) {} x.s.clk.cyc) := by
  have hstates : ∀ st, isU st = true → isO st = false ∧ st ≠ 7 := by
    intro st hst
    simp only [isU, Bool.or_eq_true, decide_eq_true_eq] at hst
    rcases hst with (rfl | rfl) | rfl <;> decide
  have howner : ((isU d.ent.st || isO d.ent.st) && decide (d.ent.agent = k.hdr.src)) = true := by
    rcases hst with ⟨-, hst⟩ | ⟨-, hst⟩ <;> simp [isO, hst, ha]
  have hnot : k.hdr.opc ≠ oEvC ∧ d.ent.st ≠ 7 ∧
      ((isU d.ent.st && decide (k.hdr.opc = oWbO)) || (isO d.ent.st && decide (k.hdr.opc = oWbD))) = false := by
    rcases hst with ⟨ho, hst⟩ | ⟨ho, hst⟩
    · simp [ho, hstates _ hst]
    · simp [ho, hst]
      decide
  obtain ⟨hevc, h7, hodd⟩ := hnot
  have hfind := Finds.find? (tag := ((x.looked r).s.hash k.hdr.addr).tag) hf
  simp only [PX.processWbk, hx.pkt, hx.line, hx.free, Option.isSome_none, PX.lookup_hit hx.upset hx.hit, hx.checked, PX.wbkRefused, hx.readSet,
    hfind, hevc, Bool.false_eq_true, if_false]
  simp only [hd, howner, hodd, h7, hslot, Bool.false_eq_true, if_false, if_true, PX.ackWbk_wb _ _ hevc]
  obtain ⟨wrs, llt, hwrite⟩ := PX.writeLine_sound (x := x.looked r) hx.upset k.hdr.addr r hp [(k.hdr.src, x.pn.seq)]
  refine ⟨wrs, llt, Eq.trans ?_ (congrArg (fun y : PX => (y.wbkAnswered j k oWbAck).wbkClose j (h.entered k r x.s.clk.cyc) (some w) {} 0) hwrite)⟩
  rw [hx.pkt]
  rfl

end Sys2Proof.Machine
end

section
/-! SUPPORT. The eviction of a sole holder, from the panel's input to the writeback HTC in CLOSE (R127, R160). -/

namespace Sys2Proof.Machine

variable {s : State} {p j w : Nat} {k : Packet} {r : Attr} {es : Nat → Ent}

theorem PX.freeHtc_free {x : PX} (h : x.freeHtc 1 = some j) : smFind x.pn.htcs j = none := by
  have hfree := (List.find?_range_eq_some.mp h).1
  simpa using (of_decide_eq_true hfree).2

/-- The context `x` in which panel `p` processes a WBK in HTC `h`: it has noted the acceptance, and nothing else (R148). -/
structure State.Enters (s : State) (p : Nat) (x : PX) (h : Htc) : Prop where
  cyc : x.s.clk.cyc = s.clk.cyc
  nonce : x.s.nonce = s.nonce
  palSet : ∀ v, x.s.palSetOf v = s.palSetOf v
  portOf : ∀ a, x.s.portOf a = s.portOf a
  panel : x.p = p
  upset : x.u = {}
  dir : x.pn.dir = (s.panel p).dir
  pal : x.pn.pal = (s.panel p).pal
  htcs : x.pn.htcs = (s.panel p).htcs
  outq : x.pn.outq = (s.panel p).outq
  memOut : x.pn.memOut = (s.panel p).memOut
  wseq : x.pn.wseq = (s.panel p).wseq
  dead : x.pn.dead = (s.panel p).dead
  effs : ∀ e ∈ x.effs, e.counts
  job : h.job = .wbk
  pool : h.pool = 1

/-- The step of a WBK that its panel processes in a writeback HTC which it leaves in CLOSE. -/
def State.Runs (s : State) (p j : Nat) (k : Packet) (x : PX) (h : Htc) : Prop :=
  ∀ (opc : Nat) (z : PX) (g : Htc), k.hdr.opc = opc → x.processWbk j h false = z.setHtc j g → z.pn.htcs = (s.panel p).htcs → g.phase = .close →
    (∀ e ∈ z.effs, e.counts) →
    ∃ t, s.atInput p (s.wbkStep p opc {}) = .next t ∧ PanelFrame s t p ∧ Took s t (.panelIn p) cWBK ∧ t.panel p = (z.setHtc j g).pn

theorem State.enters_noted (s : State) (p : Nat) (k : Packet) :
    s.Enters p ((s.inputPx p cWBK).noted k) ((s.inputPx p cWBK).wbkHtc k) :=
  { cyc := rfl
    nonce := rfl
    palSet := fun _ => rfl
    portOf := fun _ => rfl
    panel := rfl
    upset := rfl
    dir := by simp [PX.noted, PX.mod]
    pal := by simp [PX.noted, PX.mod]
    htcs := by simp [PX.noted, PX.mod]
    outq := by simp [PX.noted, PX.mod]
    memOut := by simp [PX.noted, PX.mod]
    wseq := by simp [PX.noted, PX.mod]
    dead := by simp [PX.noted, PX.mod]
    effs := by simp [PX.noted, PX.mod, Eff.counts]
    job := rfl
    pool := rfl }

/-- The checks of a WBK that `State.evicts` describes end at the line's entry (R110, R127). -/
theorem State.evicts.check (hev : s.evicts p k r es) : ((s.inputPx p cWBK).noted k).wbkCheck k (some r) false = .entry r := by
  obtain ⟨-, -, hkind, hadm, hspan, hworld, hmode, -⟩ := hev
  have hadm : ((s.inputPx p cWBK).noted k).admitted k.hdr = true := hadm
  have hspan : ((s.inputPx p cWBK).noted k).s.build.inSpan k.hdr.addr = true := hspan
  simp only [PX.wbkCheck, hadm, hkind, hspan, hworld, (s.enters_noted p k).portOf, hmode, Bool.false_eq_true, if_false,
    not_true_eq_false, and_false, if_true, ne_eq]

theorem State.evicts.atEntry (hev : s.evicts p k r es) (hj : (s.px p {}).freeHtc 1 = some j) :
    ((s.inputPx p cWBK).noted k).AtEntry j ((s.inputPx p cWBK).wbkHtc k) k r es := by
  have hcheck := hev.check
  obtain ⟨-, hlook, -, -, -, -, -, -, -, hread⟩ := hev
  have hfree : smFind (s.panel p).htcs j = none := PX.freeHtc_free (x := s.px p {}) hj
  have hlooks : ((s.inputPx p cWBK).noted k).pn.look = (s.panel p).look := rfl
  refine ⟨rfl, rfl, ?_, rfl, hlooks ▸ hlook, hcheck, fun w hw => hread.inputPx cWBK w hw⟩
  rw [PX.htc?, (s.enters_noted p k).htcs]
  exact hfree

theorem State.evicts.runs (ht : s.takes p) (hq : (s.panel p).quiet) (hev : s.evicts p k r es) (hj : (s.px p {}).freeHtc 1 = some j) :
    s.Runs p j k ((s.inputPx p cWBK).noted k) ((s.inputPx p cWBK).wbkHtc k) := by
  intro opc z g ho hz hhtcs hg he
  obtain ⟨hturn, -, -, -, -, -, -, hidle, hswept, -⟩ := hev
  have hacc : (s.inputPx p cWBK).acceptWbk k = some (z.setHtc j g, none) := by
    rw [PX.acceptWbk_idle (x := s.inputPx p cWBK) hq.2 hidle hswept hj, hz]
  have hzcalm : z.pn.calm := by rw [Panel.calm, hhtcs]; exact hq.1
  exact State.wbkStep_acts ht hturn ho hacc (PX.pumps_setHtc hzcalm j (Htc.calm_of_phase hg (by decide) (by decide))) he

/-- A panel whose eviction `State.evicts` describes processes it in a context that passes the checks. -/
theorem State.evicts.enters (ht : s.takes p) (hq : (s.panel p).quiet) (hev : s.evicts p k r es) (hj : (s.px p {}).freeHtc 1 = some j) :
    ∃ x h, s.Enters p x h ∧ x.AtEntry j h k r es ∧ x.s.hash k.hdr.addr = s.hash k.hdr.addr ∧ s.Runs p j k x h :=
  ⟨_, _, s.enters_noted p k, hev.atEntry hj, rfl, hev.runs ht hq hj⟩

/-- The writeback HTC `j` of WBK `k` is in CLOSE with an empty entry for way `way`, and beside it and the message nothing has changed in
the tables of panel `p`. -/
def Frees (s t : State) (p j : Nat) (k : Packet) (way : Option Nat) : Prop :=
  PanelFrame s t p ∧ Took s t (.panelIn p) cWBK ∧ SameArrays s t p ∧ OtherHtcs s t p j ∧
    ∃ h, smFind (t.panel p).htcs j = some h ∧ h.job = .wbk ∧ h.phase = .close ∧ h.start = s.clk.cyc ∧ h.line = k.hdr.addr ∧ h.way = way ∧
      h.fin.st = 0

variable {x : PX} {h : Htc}

theorem State.Runs.frees {op opc : Nat} {z : PX} {way : Option Nat} {fin : Ent} {cyc : Nat} (hrun : s.Runs p j k x h) (hin : s.Enters p x h)
    (ho : k.hdr.opc = opc) (hfin : fin.st = 0)
    (hz : x.processWbk j h false = (z.wbkAnswered j k op).setHtc j ((h.entered k r x.s.clk.cyc).evicted way fin cyc))
    (hdir : z.pn.dir = x.pn.dir) (hpal : z.pn.pal = x.pn.pal) (hhtcs : z.pn.htcs = x.pn.htcs) (hout : z.pn.outq = x.pn.outq)
    (he : ∀ e ∈ z.effs, e.counts) :
    ∃ t a, s.atInput p (s.wbkStep p opc {}) = .next t ∧ Frees s t p j k way ∧ Sent s t p [a] ∧ Answers a k.hdr cRSP op ∧
      (t.panel p).memOut = z.pn.memOut := by
  obtain ⟨t, hrun, hframe, htook, hpanel⟩ := hrun opc _ _ ho hz (hhtcs.trans hin.htcs) rfl he
  refine ⟨t, { z.rspMsg j k.hdr op 0 0 with capt := z.s.clk.cyc }, hrun, ⟨hframe, htook, ?_, fun i hi => ?_,
    (h.entered k r x.s.clk.cyc).evicted way fin cyc, ?_, hin.job, rfl, hin.cyc, rfl, rfl, hfin⟩, ?_, PX.rspMsg_answers z j k.hdr op 0 0, ?_⟩
  · rw [SameArrays, hpanel]
    exact ⟨hdir.trans hin.dir, hpal.trans hin.pal⟩
  · rw [hpanel, ← hin.htcs, ← hhtcs]
    exact smFind_smSet_ne _ _ hi
  · rw [hpanel]
    exact smFind_smSet_self _ _ _
  · rw [Sent, hpanel, ← hin.outq, ← hout]
    rfl
  · rw [hpanel]
    rfl

/-! ### A line with one holder, or none -/

/-- An entry that names no slot has the holder that it names (R47, R48). -/
theorem PX.holders_solo (x : PX) {e : Ent} (h5 : e.st ≠ 5) (h7 : e.st ≠ 7) :
    x.holders e = (x, { ent := e, vec := if e.st = 0 ∨ e.st = 8 then 0 else vbit e.agent, lost := false, slot := none }) := by
  simp [PX.holders, h5, h7]

theorem Ent.canon_agent {e : Ent} (h0 : e.st ≠ 0) (h5 : e.st ≠ 5) (h8 : e.st ≠ 8) : e.canon.agent = e.agent := by
  simp [Ent.canon, h0, h5, h8]

/-- The last sharer's leaving empties the entry (R127). -/
theorem PX.removeHolder_last (x : PX) (h : Htc) {d : Hold'} {a : Nat} (hv : d.vec = vbit a) (hs : d.slot = none) :
    x.removeHolder j h w d a = x.setHtc j (h.evicted (some w) { age := d.ent.age } x.s.clk.cyc) := by
  have hrest (v : Vec) : vbit a &&& ~~~(vbit a ||| v) = 0 := by
    refine BitVec.eq_of_getLsbD_eq fun i hi => ?_
    simp only [BitVec.getLsbD_and, BitVec.getLsbD_not, BitVec.getLsbD_or, hi, decide_true, Bool.true_and]
    cases (vbit a).getLsbD i <;> simp
  have hzero : popc (0 : Vec) = 0 := by simp [popc_eq_card, agents]
  simp only [PX.removeHolder, hv, hs, hrest, PX.formEnt, hzero, if_true]
  exact PX.wbkClose_quiet _ _ _ _

theorem State.evicts.src_lt (hev : s.evicts p k r es) : k.hdr.src < 256 := by
  obtain ⟨-, -, -, hadm, -⟩ := hev
  simp only [PX.admitted, Bool.and_eq_true, decide_eq_true_eq] at hadm
  exact hadm.1.1

/-- EvC of the sole holder of a clean line empties its entry (R127, R160). -/
theorem State.evicts_sole (ht : s.takes p) (hq : (s.panel p).quiet) (hev : s.evicts p k r es) (hj : (s.px p {}).freeHtc 1 = some j)
    (ho : k.hdr.opc = oEvC) (hf : Finds es (s.hash k.hdr.addr).tag w) (ha : (es w).agent = k.hdr.src)
    (hst : (es w).st = 1 ∨ (es w).st = 2 ∨ (es w).st = 4) :
    ∃ t a, exec (.evc p {}) s = .next t ∧ Frees s t p j k (some w) ∧ Sent s t p [a] ∧ Answers a k.hdr cRSP oEvAck ∧
      (t.panel p).memOut = (s.panel p).memOut := by
  obtain ⟨x, h, hin, hx, hhash, hrun⟩ := hev.enters ht hq hj
  rw [← hhash] at hf
  have hne : (es w).st ≠ 0 ∧ (es w).st ≠ 5 ∧ (es w).st ≠ 7 ∧ (es w).st ≠ 8 := by omega
  obtain ⟨h0, h5, h7, h8⟩ := hne
  have hd := (x.looked r).holders_solo (e := (es w).canon) h5 h7
  have hagent : (es w).canon.agent = k.hdr.src := (Ent.canon_agent h0 h5 h8).trans ha
  have hends : ∃ fin : Ent, fin.st = 0 ∧ x.processWbk j h false =
      ((x.looked r).wbkAnswered j k oEvAck).setHtc j ((h.entered k r x.s.clk.cyc).evicted (some w) fin x.s.clk.cyc) := by
    rcases hst with hst | hst | hst
    · exact ⟨{}, rfl, PX.processWbk_clean hx ho hf hd (.inl hst) hagent⟩
    · exact ⟨{}, rfl, PX.processWbk_clean hx ho hf hd (.inr hst) hagent⟩
    · have hvec : (if (es w).canon.st = 0 ∨ (es w).canon.st = 8 then 0 else vbit (es w).canon.agent) = vbit k.hdr.src := by
        simp [hst, hagent]
      rw [hvec] at hd
      refine ⟨_, rfl, (PX.processWbk_sharer hx ho hf hd ?_ rfl ?_).trans (PX.removeHolder_last _ _ rfl rfl)⟩
      · simp [isU, isO, hst]
      · simp [getLsbD_vbit hev.src_lt]
  obtain ⟨fin, hfin, hz⟩ := hends
  obtain ⟨t, a, hstep, hfrees, hsent, hans, hmem⟩ := hrun.frees hin ho hfin hz rfl rfl rfl rfl hin.effs
  exact ⟨t, a, hstep, hfrees, hsent, hans, hmem.trans hin.memOut⟩

/-- EvC of a line that no way names is answered, and changes no entry (R127). -/
theorem State.evicts_untracked (ht : s.takes p) (hq : (s.panel p).quiet) (hev : s.evicts p k r es) (hj : (s.px p {}).freeHtc 1 = some j)
    (ho : k.hdr.opc = oEvC) (hmiss : ∀ v, v < 16 → (es v).st ≠ 0 → (es v).tag ≠ (s.hash k.hdr.addr).tag) :
    ∃ t a, exec (.evc p {}) s = .next t ∧ Frees s t p j k none ∧ Sent s t p [a] ∧ Answers a k.hdr cRSP oEvAck ∧
      (t.panel p).memOut = (s.panel p).memOut := by
  obtain ⟨x, h, hin, hx, hhash, hrun⟩ := hev.enters ht hq hj
  rw [← hhash] at hmiss
  obtain ⟨t, a, hstep, hfrees, hsent, hans, hmem⟩ :=
    hrun.frees (fin := {}) hin ho rfl (PX.processWbk_untracked hx ho hmiss) rfl rfl rfl rfl hin.effs
  exact ⟨t, a, hstep, hfrees, hsent, hans, hmem.trans hin.memOut⟩

/-- WbD of the holder in U-any and WbO of the owner in O-solo write the line to memory whole, and empty its entry (R127, R160). -/
theorem State.evicts_dirty {opc : Nat} (ht : s.takes p) (hq : (s.panel p).quiet) (hev : s.evicts p k r es)
    (hj : (s.px p {}).freeHtc 1 = some j) (ho : k.hdr.opc = opc) (hf : Finds es (s.hash k.hdr.addr).tag w)
    (ha : (es w).agent = k.hdr.src) (hp : k.hdr.poison = false) (hst : opc = oWbD ∧ isU (es w).st = true ∨ opc = oWbO ∧ (es w).st = 6) :
    ∃ t a q, s.atInput p (s.wbkStep p opc {}) = .next t ∧ Frees s t p j k (some w) ∧ Sent s t p [a] ∧ Answers a k.hdr cRSP oWbAck ∧
      Issued s t p (r.port (k.hdr.addr * 64)) q ∧ LineMsg q 2 k.hdr.addr (.wr p (s.panel p).wseq) ∧ q.data = k.data ∧
      q.be = BitVec.allOnes 64 := by
  obtain ⟨x, h, hin, hx, hhash, hrun⟩ := hev.enters ht hq hj
  rw [← hhash] at hf
  have hne : (es w).st ≠ 0 ∧ (es w).st ≠ 5 ∧ (es w).st ≠ 7 ∧ (es w).st ≠ 8 := by
    rcases hst with ⟨-, hst⟩ | ⟨-, hst⟩
    · simp only [isU, Bool.or_eq_true, decide_eq_true_eq] at hst
      omega
    · omega
  obtain ⟨h0, h5, h7, h8⟩ := hne
  have hd := (x.looked r).holders_solo (e := (es w).canon) h5 h7
  have hagent : (es w).canon.agent = k.hdr.src := (Ent.canon_agent h0 h5 h8).trans ha
  obtain ⟨wrs, llt, hz⟩ := PX.processWbk_dirty hx hf hd rfl hagent hp (ho ▸ hst)
  obtain ⟨t, a, hstep, hfrees, hsent, hans, hmem⟩ := hrun.frees hin ho rfl hz rfl rfl rfl rfl
    (by simpa [PX.wrote, PX.mod, PX.looked, Eff.counts, or_imp, forall_and] using hin.effs)
  refine ⟨t, a, x.lineWrite k k.hdr.addr r, hstep, hfrees, hsent, hans, ⟨?_, fun n hn => ?_⟩, ⟨rfl, rfl, rfl, rfl, ?_⟩, rfl, rfl⟩
  · rw [hmem, ← hin.memOut]
    exact smGet_smSet_self _ _ _ _
  · rw [hmem, ← hin.memOut]
    exact smGet_smSet_ne _ _ _ hn
  · rw [PX.lineWrite, hin.panel, hin.wseq]

end Sys2Proof.Machine
end

section
/-! SUPPORT. EvC of a sharer, from the panel's input to the entry that its writeback HTC holds (R60 to R67, R127). -/

namespace Sys2Proof.Machine

variable {s t : State} {p j w n m : Nat} {k : Packet} {r : Attr} {es : Nat → Ent} {x : PX} {h : Htc} {v y : PSlot} {vs : Nat → PSlot}

/-! ### The Palette array after the step -/

theorem onlySlots_put (h : (t.panel p).pal = palPut (s.panel p).pal n v) : OnlySlots s t p [n] := by
  intro i hi
  rw [h]
  exact palPut_other _ _ (by simpa using hi)

theorem written_put (hv : v.Fit) {pal : SMap (BitVec 80)} (h : (t.panel p).pal = palPut pal n v) : Written t p n v :=
  ⟨v.word, fun cw hcw => by rw [h, palPut_at _ _ _ hcw], PSlot.ofWords_word hv⟩

theorem onlySlots_put_put (h : (t.panel p).pal = palPut (palPut (s.panel p).pal n v) m y) : OnlySlots s t p [n, m] := by
  intro i hi
  have hn : i / 8 ≠ n ∨ 5 ≤ i % 8 := hi.imp_left fun hi hn => hi (by simp [hn])
  have hm : i / 8 ≠ m ∨ 5 ≤ i % 8 := hi.imp_left fun hi hm => hi (by simp [hm])
  rw [h, palPut_other _ _ hm, palPut_other _ _ hn]

/-- A slot stands as it was written where another has been written since. -/
theorem written_put_put (hv : v.Fit) (hne : n ≠ m) {pal : SMap (BitVec 80)} (h : (t.panel p).pal = palPut (palPut pal n v) m y) :
    Written t p n v :=
  ⟨v.word, fun cw hcw => by rw [h, palPut_other _ _ (.inl (by omega)), palPut_at _ _ _ hcw], PSlot.ofWords_word hv⟩

/-! ### What the step leaves -/

/-- The writeback HTC `j` of EvC `k` is in CLOSE and holds way `w` with the entry `fin`, `sum` invalidations outstanding. -/
def Ends (s t : State) (p j w : Nat) (k : Packet) (fin : Ent) (sum : Nat) : Prop :=
  exec (.evc p {}) s = .next t ∧ PanelFrame s t p ∧ Took s t (.panelIn p) cWBK ∧ (t.panel p).dir = (s.panel p).dir ∧
    OtherHtcs s t p j ∧ (t.panel p).memOut = (s.panel p).memOut ∧
    ∃ h, smFind (t.panel p).htcs j = some h ∧ h.job = .wbk ∧ h.phase = .close ∧ h.start = s.clk.cyc ∧ h.line = k.hdr.addr ∧
      h.way = some w ∧ h.fin = fin ∧ h.expect = sum ∧ h.sum = 0

/-- HTC `g` is HTC `h` in CLOSE for way `w` with the entry `fin`, `sum` invalidations outstanding. -/
structure Htc.Closes (h g : Htc) (w : Nat) (fin : Ent) (sum : Nat) : Prop where
  job : g.job = h.job
  phase : g.phase = .close
  start : g.start = h.start
  line : g.line = h.line
  way : g.way = some w
  fin : g.fin = fin
  expect : g.expect = sum
  none : g.sum = 0

/-- The answer that the panel sends for an EvC. -/
def PX.evAck (x : PX) (j : Nat) (k : Packet) : Packet := { x.rspMsg j k.hdr oEvAck 0 0 with capt := x.s.clk.cyc }

theorem State.Runs.ends {z : PX} {g : Htc} {fin : Ent} {sum : Nat} {qs : List Packet} (hrun : s.Runs p j k x h) (hin : s.Enters p x h)
    (ho : k.hdr.opc = oEvC) (hz : x.processWbk j h false = z.setHtc j g) (hdir : z.pn.dir = x.pn.dir) (hhtcs : z.pn.htcs = x.pn.htcs)
    (hmem : z.pn.memOut = x.pn.memOut) (hout : z.pn.outq = x.pn.outq ++ x.evAck j k :: qs) (he : ∀ e ∈ z.effs, e.counts)
    (hg : (h.entered k r x.s.clk.cyc).Closes g w fin sum) :
    ∃ t a, Ends s t p j w k fin sum ∧ Sent s t p (a :: qs) ∧ Answers a k.hdr cRSP oEvAck ∧ (t.panel p).pal = z.pn.pal := by
  obtain ⟨t, hstep, hframe, htook, hpanel⟩ := hrun oEvC z g ho hz (hhtcs.trans hin.htcs) hg.phase he
  refine ⟨t, x.evAck j k, ⟨hstep, hframe, htook, ?_, fun i hi => ?_, ?_, g, ?_, hg.job.trans hin.job, hg.phase, hg.start.trans hin.cyc,
    hg.line, hg.way, hg.fin, hg.expect, hg.none⟩, ?_, PX.rspMsg_answers x j k.hdr oEvAck 0 0, ?_⟩
  · rw [hpanel]
    exact hdir.trans hin.dir
  · rw [hpanel, ← hin.htcs, ← hhtcs]
    exact smFind_smSet_ne _ _ hi
  · rw [hpanel]
    exact hmem.trans hin.memOut
  · rw [hpanel]
    exact smFind_smSet_self _ _ _
  · rw [Sent, hpanel, ← hin.outq]
    exact hout
  · rw [hpanel]
    rfl

/-! ### The holder taken out of the entry -/

/-- The owner of the line whose entry is `e`, if it is in O-pal (R48). -/
def Ent.palOwner (e : Ent) : Option Nat := if e.st = 7 then some e.agent else none

/-- An entry whose slot names two holders or more, the owner in O-pal among them, has the holders that the slot names (R48, R57). -/
theorem PX.holders_shared {e : Ent} (hs : x.slotClean e.pal v) (hl : v.lost = false) (hst : e.st = 5 ∨ e.st = 7) (hv : 2 ≤ popc v.vec)
    (hown : e.st = 7 → v.vec.getLsbD e.agent = true) :
    x.holders e = (x, { ent := e, vec := v.vec, lost := false, slot := some e.pal }) := by
  have h0 : popc v.vec ≠ 0 := by omega
  have h1 : popc v.vec ≠ 1 := by omega
  rcases hst with hst | hst
  · simp [PX.holders, hst, PX.readSlot_clean hs, hl, h0, h1]
  · have hne : v.vec ≠ vbit e.agent := fun heq => h1 (heq ▸ popc_vbit (BitVec.lt_of_getLsbD (hown hst)))
    simp [PX.holders, hst, PX.readSlot_clean hs, hl, hne]

theorem and_not_or_dead {v d : Vec} (hd : v &&& d = 0) (a o : Vec) : v &&& ~~~(a ||| (d &&& o)) = v &&& ~~~a := by
  refine BitVec.eq_of_getLsbD_eq fun i hi => ?_
  have hi' := congrArg (BitVec.getLsbD · i) hd
  simp only [BitVec.getLsbD_and, BitVec.getLsbD_not, BitVec.getLsbD_or, hi, decide_true, Bool.true_and] at hi' ⊢
  cases hv : v.getLsbD i <;> cases hdi : d.getLsbD i <;> simp_all

/-- Beside the sender, a removal takes only dead agents out of the holders (R127, R450). -/
theorem PX.removeHolder_eq {d : Hold'} {a : Nat} (hdead : d.vec &&& x.pn.dead = 0) {ow : Option Nat}
    (how : ow = if isO d.ent.st = true ∧ d.ent.agent ≠ a then some d.ent.agent else none) {f : PX × Ent × Vec}
    (hf : x.formEnt d.slot ow (d.vec &&& ~~~(vbit a)) (x.setOf h.line) h.wp = f) :
    x.removeHolder j h w d a = f.1.wbkClose j h (some w) { f.2.1 with age := d.ent.age } f.2.2 := by
  obtain ⟨o, ho⟩ : ∃ o, x.deadBut ow = x.pn.dead &&& o := ⟨_, rfl⟩
  simp only [PX.removeHolder, ← how, ho, and_not_or_dead hdead, hf]

/-- The SnpInv that takes a line from the agents `inv` (R132). -/
def PX.snpInv (x : PX) (j : Nat) (h : Htc) (inv : Vec) : Packet :=
  if popc inv = 1 then { hdr := x.snpHdr j h oSnpInv h.line ((lowest inv).getD 0) }
  else { hdr := x.snpHdr j h oSnpInv h.line nMulti, vec := inv }

theorem PX.snpInv_snoops {inv : Vec} (hinv : 1 ≤ popc inv) (hpool : h.pool = 1) (c : Nat) :
    Snoops x.p j h.line 0 none inv [{ x.snpInv j h inv with capt := c }] := by
  have h0 : popc inv ≠ 0 := by omega
  refine ⟨[], [{ x.snpInv j h inv with capt := c }], rfl, fun _ => rfl, fun o (ho : none = some o) => absurd ho (by simp),
    fun hzero => absurd hzero h0, fun _ => ⟨{ x.snpInv j h inv with capt := c }, rfl, ?_⟩⟩
  unfold PX.snpInv
  by_cases h1 : popc inv = 1
  · rw [if_pos h1]
    refine ⟨?_, fun _ => rfl, fun hne => absurd h1 hne⟩
    simp [PX.snpHdr, hpool, PX.htcField]
  · rw [if_neg h1]
    refine ⟨?_, fun heq => absurd heq h1, fun _ => ⟨rfl, rfl⟩⟩
    simp [PX.snpHdr, hpool, PX.htcField]

/-- A narrowed line's holders are invalidated by one message, and its HTC waits for them in CLOSE (R67, R132). -/
theorem PX.wbkClose_narrows {inv : Vec} (hinv : 1 ≤ popc inv) (fin : Ent) :
    ∃ e g, x.wbkClose j h (some w) fin inv = ((x.send (x.snpInv j h inv)).eff e).setHtc j g ∧ e.counts ∧ h.Closes g w fin (popc inv) := by
  have hne : inv ≠ 0 := fun hzero => by simp [hzero, popc_eq_card, agents] at hinv
  have h0 : popc inv ≠ 0 := by omega
  obtain ⟨a, ha⟩ := h.stamp_eq 4 x.s.clk.cyc false
  obtain ⟨c, hc⟩ : ∃ c, c = popc inv := ⟨_, rfl⟩
  unfold PX.wbkClose PX.snoop PX.snpInv
  rw [if_neg hne, ← hc]
  rw [← hc] at h0
  by_cases h1 : c = 1
  · have h2 : (1 : Nat) < 2 := by decide
    simp only [h1, h2, ha, PX.eff_s, PX.send_s, if_true, one_ne_zero, if_false, false_and]
    exact ⟨_, _, rfl, trivial, rfl, rfl, rfl, rfl, rfl, rfl, rfl, rfl⟩
  · have h2 : ¬ c < 2 := by omega
    simp only [h0, h1, h2, ha, PX.eff_s, PX.send_s, if_false, false_and, Htc.stamp_again]
    exact ⟨_, _, rfl, trivial, rfl, rfl, rfl, rfl, rfl, rfl, rfl, rfl⟩

end Sys2Proof.Machine
end

section
/-! SUPPORT. EvC of a sharer: the line whose entry it leaves, and the entry that the panel forms of the other holders (R62 to R67). -/

namespace Sys2Proof.Machine

variable {s : State} {p j w : Nat} {k : Packet} {r : Attr} {es : Nat → Ent} {x y z : PX} {h : Htc} {v : PSlot} {vs : Nat → PSlot}

/-- From `x` to `z` the Palette becomes `pal`, and beside the merge table and events nothing changes. -/
structure PX.Rewrites (x z : PX) (pal : SMap (BitVec 80)) : Prop where
  pn : ∃ m, z.pn = { x.pn with pal := pal, merges := m }
  state : z.s = x.s
  panel : z.p = x.p
  effs : ∀ e ∈ z.effs, e ∈ x.effs ∨ e.counts

theorem PX.rewrites_setSlot (x : PX) (n : Nat) (v : PSlot) : x.Rewrites (x.setSlot n v) (palPut x.pn.pal n v) := by
  obtain ⟨m, hm⟩ := x.setSlot_eq n v
  rw [hm]
  exact ⟨⟨m, rfl⟩, rfl, rfl, fun e he => .inl he⟩

theorem PX.Rewrites.eff {pal : SMap (BitVec 80)} (hz : x.Rewrites z pal) {e : Eff} (he : e.counts) : x.Rewrites (z.eff e) pal := by
  refine ⟨hz.pn, hz.state, hz.panel, fun f hf => ?_⟩
  rcases List.mem_append.mp hf with hf | hf
  · exact hz.effs f hf
  · rw [List.mem_singleton.mp hf]
    exact .inr he

theorem PX.Rewrites.setSlot {pal : SMap (BitVec 80)} (hz : x.Rewrites z pal) (n : Nat) (v : PSlot) :
    x.Rewrites (z.setSlot n v) (palPut pal n v) := by
  obtain ⟨m, hm⟩ := z.setSlot_eq n v
  obtain ⟨m', hpn⟩ := hz.pn
  rw [hm]
  refine ⟨⟨m, ?_⟩, hz.state, hz.panel, hz.effs⟩
  rw [PX.putPal, PX.mod, hpn]

/-- EvC `k` comes from a sharer of a line whose entry, in way `w`, names the slot that reads as `v`, in use and without dead agents. -/
structure State.Shares (s : State) (p w : Nat) (k : Packet) (es : Nat → Ent) (v : PSlot) : Prop where
  found : Finds es (s.hash k.hdr.addr).tag w
  st : (es w).st = 5 ∨ (es w).st = 7
  reads : s.slotReads p (es w).pal v
  lost : v.lost = false
  uncnt : v.uncnt = false
  valid : v.valid = true
  ref : 1 ≤ v.ref
  many : 2 ≤ popc v.vec
  live : v.vec &&& (s.panel p).dead = 0
  member : v.vec.getLsbD k.hdr.src = true
  owner : (es w).st = 7 → v.vec.getLsbD (es w).agent = true ∧ (es w).agent ≠ k.hdr.src

/-- The holders that are left (R127). -/
abbrev restOf (v : PSlot) (k : Packet) : Vec := v.vec &&& ~~~(vbit k.hdr.src)

/-- The context `z` of a panel that has answered the WBK reads the Palette and the ports as the state does. -/
structure State.Sees (s : State) (p : Nat) (z : PX) : Prop where
  nonce : z.s.nonce = s.nonce
  palSet : ∀ v, z.s.palSetOf v = s.palSetOf v
  portOf : ∀ a, z.s.portOf a = s.portOf a
  panel : z.p = p
  upset : z.u = {}
  pal : z.pn.pal = (s.panel p).pal

theorem State.Enters.sees (hin : s.Enters p x h) : s.Sees p ((x.looked r).wbkAnswered j k oEvAck) :=
  ⟨hin.nonce, hin.palSet, hin.portOf, hin.panel, hin.upset, hin.pal⟩

theorem State.Sees.names (hz : s.Sees p z) (hsh : s.Shares p w k es v) : z.Names (es w).pal v :=
  ⟨PX.slotClean_of_reads hsh.reads hz.upset hz.nonce hz.panel fun _ _ => by rw [hz.pal], hsh.lost, hsh.uncnt, hsh.valid, hsh.ref⟩

/-- The entry that a shared line's EvC leaves is the one that the panel forms of the other holders. -/
theorem State.Shares.process (hsh : s.Shares p w k es v) (hin : s.Enters p x h) (hx : x.AtEntry j h k r es)
    (hhash : x.s.hash k.hdr.addr = s.hash k.hdr.addr) (ho : k.hdr.opc = oEvC) {f : PX × Ent × Vec}
    (hf : ((x.looked r).wbkAnswered j k oEvAck).formEnt (some (es w).pal) (es w).palOwner (restOf v k) (x.setOf k.hdr.addr)
      (h.entered k r x.s.clk.cyc).wp = f) :
    x.processWbk j h false = f.1.wbkClose j (h.entered k r x.s.clk.cyc) (some w) { f.2.1 with age := (es w).age } f.2.2 := by
  have hfound := hsh.found
  rw [← hhash] at hfound
  have hpal : (es w).canon.pal = (es w).pal := by
    rcases hsh.st with hst | hst <;> simp [Ent.canon, hst]
  have hagent : (es w).st = 7 → (es w).canon.agent = (es w).agent := fun hst => Ent.canon_agent (by omega) (by omega) (by omega)
  have hclean : (x.looked r).slotClean (es w).canon.pal v := hpal ▸ (hin.sees (r := r) (j := j) (k := k)).names hsh |>.clean
  have hhold := PX.holders_shared hclean hsh.lost hsh.st hsh.many fun hst => (hagent hst).symm ▸ (hsh.owner hst).1
  rw [PX.processWbk_sharer hx ho hfound hhold ?_ rfl hsh.member]
  · refine PX.removeHolder_eq (ow := (es w).palOwner) ?_ ?_ ?_
    · exact hin.dead ▸ hsh.live
    · rcases hsh.st with hst | hst
      · simp [Ent.palOwner, isO, hst]
      · simp [Ent.palOwner, isO, hst, hagent hst, (hsh.owner hst).2]
    · exact hpal ▸ hf
  · rcases hsh.st with hst | hst
    · simp [isU, isO, hst]
    · simp [hagent hst, (hsh.owner hst).2]

theorem State.Enters.counts (hin : s.Enters p x h) {pal : SMap (BitVec 80)}
    (hz : PX.Rewrites ((x.looked r).wbkAnswered j k oEvAck) z pal) : ∀ e ∈ z.effs, e.counts :=
  fun e he => (hz.effs e he).elim (hin.effs e) id

/-- Where the line keeps its holders, or one, EvC of a sharer ends with the entry that the panel forms. -/
theorem State.Shares.ends (hsh : s.Shares p w k es v) (hin : s.Enters p x h) (hx : x.AtEntry j h k r es)
    (hhash : x.s.hash k.hdr.addr = s.hash k.hdr.addr) (hrun : s.Runs p j k x h) (ho : k.hdr.opc = oEvC) {ent : Ent} {pal : SMap (BitVec 80)}
    (hf : ((x.looked r).wbkAnswered j k oEvAck).formEnt (some (es w).pal) (es w).palOwner (restOf v k) (x.setOf k.hdr.addr)
      (h.entered k r x.s.clk.cyc).wp = (z, ent, 0)) (hz : PX.Rewrites ((x.looked r).wbkAnswered j k oEvAck) z pal) :
    ∃ t a, Ends s t p j w k { ent with age := (es w).age } 0 ∧ Sent s t p [a] ∧ Answers a k.hdr cRSP oEvAck ∧ (t.panel p).pal = pal := by
  obtain ⟨m, hpn⟩ := hz.pn
  obtain ⟨t, a, hends, hsent, hans, hpal⟩ := hrun.ends (r := r) (z := z) (qs := []) hin ho
    ((hsh.process hin hx hhash ho hf).trans (PX.wbkClose_quiet j _ (some w) _))
    (by rw [hpn]; rfl) (by rw [hpn]; rfl) (by rw [hpn]; rfl) (by rw [hpn]; rfl) (hin.counts hz) ⟨rfl, rfl, rfl, rfl, rfl, rfl, rfl, rfl⟩
  exact ⟨t, a, hends, hsent, hans, hpal.trans (by rw [hpn])⟩

/-- Where the line is narrowed, its HTC waits for the others' acknowledgements (R67). -/
theorem State.Shares.narrows (hsh : s.Shares p w k es v) (hin : s.Enters p x h) (hx : x.AtEntry j h k r es)
    (hhash : x.s.hash k.hdr.addr = s.hash k.hdr.addr) (hrun : s.Runs p j k x h) (ho : k.hdr.opc = oEvC) {ent : Ent} {inv : Vec}
    {pal : SMap (BitVec 80)}
    (hf : ((x.looked r).wbkAnswered j k oEvAck).formEnt (some (es w).pal) (es w).palOwner (restOf v k) (x.setOf k.hdr.addr)
      (h.entered k r x.s.clk.cyc).wp = (z, ent, inv)) (hz : PX.Rewrites ((x.looked r).wbkAnswered j k oEvAck) z pal) (hinv : 1 ≤ popc inv) :
    ∃ t a qs, Ends s t p j w k { ent with age := (es w).age } (popc inv) ∧ Sent s t p (a :: qs) ∧ Answers a k.hdr cRSP oEvAck ∧
      Snoops p j k.hdr.addr 0 none inv qs ∧ (t.panel p).pal = pal := by
  obtain ⟨m, hpn⟩ := hz.pn
  obtain ⟨e, g, hclose, he, hg⟩ := PX.wbkClose_narrows (x := z) (j := j) (w := w) (h := h.entered k r x.s.clk.cyc) hinv
    { ent with age := (es w).age }
  have hsnoops := PX.snpInv_snoops (x := z) (j := j) (h := h.entered k r x.s.clk.cyc) hinv hin.pool z.s.clk.cyc
  rw [hz.panel] at hsnoops
  obtain ⟨t, a, hends, hsent, hans, hpal⟩ := hrun.ends (qs := [{ z.snpInv j (h.entered k r x.s.clk.cyc) inv with capt := z.s.clk.cyc }]) hin ho
    ((hsh.process hin hx hhash ho hf).trans hclose) (by simp only [PX.eff_pn, PX.send_pn, hpn]; rfl) (by simp only [PX.eff_pn, PX.send_pn, hpn]; rfl)
    (by simp only [PX.eff_pn, PX.send_pn, hpn]; rfl) (by simp only [PX.eff_pn, PX.send_pn, hpn]; exact List.append_assoc _ _ _)
    (by simpa [or_imp, forall_and] using ⟨hin.counts hz, he⟩) hg
  exact ⟨t, a, _, hends, hsent, hans, hin.panel ▸ hsnoops, hpal.trans (by simp only [PX.eff_pn, PX.send_pn, hpn])⟩

end Sys2Proof.Machine
end

section
/-! Obligation O26: evictions of a sole holder, and the four outcomes of EvC of a sharer. -/

namespace Sys2Proof.Machine

variable {s : State} {p j w : Nat} {k : Packet} {r : Attr} {es : Nat → Ent} {x y z : PX} {h : Htc} {v : PSlot} {vs : Nat → PSlot}

/-- The entry of line `e` with one holder of `r` left: its owner, or the lowest agent (R48, R67). -/
def Ent.thin (e : Ent) (r : Vec) : Ent :=
  { st := if e.st = 7 then 6 else 4, agent := if e.st = 7 then e.agent else (lowest r).getD 0, age := e.age }

/-- The entry of line `e` with its holders in slot `n` (R48). -/
def Ent.wide (e : Ent) (n : Nat) : Ent := { st := e.st, agent := if e.st = 7 then e.agent else 0, pal := n, age := e.age }

theorem Ent.thin_eq (e : Ent) (r : Vec) : { soloEnt e.palOwner (keeps e.palOwner r) with age := e.age } = e.thin r := by
  by_cases h7 : e.st = 7 <;> simp [soloEnt, Ent.palOwner, keeps, Ent.thin, h7]

theorem Ent.wide_eq {e : Ent} (hst : e.st = 5 ∨ e.st = 7) (n : Nat) : { palEnt e.palOwner n with age := e.age } = e.wide n := by
  rcases hst with hst | hst <;> simp [palEnt, Ent.palOwner, Ent.wide, hst]

/-! ### The holders that are left -/

theorem State.Shares.rest_ne (hsh : s.Shares p w k es v) : v.vec ≠ restOf v k := by
  intro heq
  have hsrc := hsh.member
  rw [heq, restOf, BitVec.getLsbD_and, BitVec.getLsbD_not, getLsbD_vbit (BitVec.lt_of_getLsbD hsh.member)] at hsrc
  simp at hsrc

theorem restOf_sub (v : PSlot) (k : Packet) : restOf v k &&& v.vec = restOf v k := by
  rw [restOf, BitVec.and_comm, ← BitVec.and_assoc, BitVec.and_self]

theorem State.Shares.rest_popc (hsh : s.Shares p w k es v) : 1 ≤ popc (restOf v k) := by
  have hmany := hsh.many
  have hrest : popc (restOf v k) = popc v.vec - 1 := popc_without hsh.member
  omega

theorem State.Shares.rest_keeps (hsh : s.Shares p w k es v) : (restOf v k).getLsbD (keeps (es w).palOwner (restOf v k)) = true := by
  by_cases h7 : (es w).st = 7
  · obtain ⟨hmem, hne⟩ := hsh.owner h7
    simp only [keeps, Ent.palOwner, h7, if_true, Option.getD_some, restOf, BitVec.getLsbD_and, BitVec.getLsbD_not,
      getLsbD_vbit (BitVec.lt_of_getLsbD hmem), hmem, hne]
    simpa using BitVec.lt_of_getLsbD hmem
  · obtain ⟨a, ha⟩ := lowest_of_popc hsh.rest_popc
    simpa [keeps, Ent.palOwner, h7, ha] using getLsbD_of_lowest ha

/-- A set with one agent left names the holder that the line keeps. -/
theorem State.Shares.lowest_keeps (hsh : s.Shares p w k es v) (h1 : popc (restOf v k) = 1) :
    (lowest (restOf v k)).getD 0 = keeps (es w).palOwner (restOf v k) := by
  rw [lowest_of_single h1 hsh.rest_keeps, Option.getD_some]

/-! ### What the panel forms -/

theorem State.Sees.partRule (hz : s.Sees p z) {u : Vec} {y : PSlot} (h : z.s.partRule u y) : s.partRule u y := by
  simpa only [State.partRule, hz.portOf] using h

theorem PSlot.Fit.partMix (hv : v.Fit) (hpart : ∀ a, a < 256 → (z.s.portOf a).part < 64) (u : Vec) :
    PSlot.Fit { v with vec := u, part := (z.partMix u).1, mixed := (z.partMix u).2 } :=
  ⟨hv.ref, PX.partMix_lt z u hpart, hv.fresh⟩

theorem State.Sees.takesSlot (hz : s.Sees p z) {u : Vec} {n : Nat} {y : PSlot} (h : z.s.takesSlot u vs n y) : s.takesSlot u vs n y := by
  obtain ⟨hn, hfit | ⟨hno, hinv, hfirst, hvec, href, hvalid, hlost, huncnt, hrule⟩⟩ := h
  · exact ⟨hn, .inl hfit⟩
  · exact ⟨hn, .inr ⟨hno, hinv, hfirst, hvec, href, hvalid, hlost, huncnt, hz.partRule hrule⟩⟩

/-- The slots of the new vector's set as the panel reads them once it has released the old one. -/
theorem State.Sees.released (hz : s.Sees p z) (hsh : s.Shares p w k es v)
    (hread : s.palSetReads p (restOf v k) (some ((es w).pal, v.released)) vs) (j : Nat) (hj : j < 4) :
    (z.setSlot (es w).pal v.released).slotClean (4 * (z.setSlot (es w).pal v.released).s.palSetOf (restOf v k) + j) (vs j) := by
  have hclean := PX.released_clean hz.upset hz.nonce hz.panel hz.pal (hz.names hsh).clean.fit hread j hj
  rwa [(z.rewrites_setSlot _ _).state, hz.palSet]

/-- The slot that takes the new vector is not the one released, which is in use and holds the old vector. -/
theorem State.Shares.slot_ne (hsh : s.Shares p w k es v) (href : 2 ≤ v.ref)
    (hread : s.palSetReads p (restOf v k) (some ((es w).pal, v.released)) vs) {n : Nat} {y : PSlot}
    (htakes : s.takesSlot (restOf v k) vs n y) : (es w).pal ≠ 4 * s.palSetOf (restOf v k) + n := by
  intro heq
  obtain ⟨hn, hcase⟩ := htakes
  obtain ⟨-, -, hsame, -⟩ := hread n hn
  have hvs := hsame _ rfl heq
  rcases hcase with ⟨⟨-, -, hvec⟩, -⟩ | ⟨-, hinv, -⟩
  · exact hsh.rest_ne (by rw [← hvec, hvs]; rfl)
  · have hvalid : (vs n).valid = true := by
      rw [hvs]
      exact decide_eq_true (by omega)
    simp [hvalid] at hinv

variable (ht : s.takes p) (hq : (s.panel p).quiet) (hev : s.evicts p k r es) (hj : (s.px p {}).freeHtc 1 = some j)
  (ho : k.hdr.opc = oEvC) (hsh : s.Shares p w k es v)
include ht hq hev hj ho hsh

/-- One holder left is stored in AGENT, and the slot released (R64). -/
theorem State.Shares.one (h1 : popc (restOf v k) = 1) :
    ∃ t a, Ends s t p j w k ((es w).thin (restOf v k)) 0 ∧ Sent s t p [a] ∧ Answers a k.hdr cRSP oEvAck ∧ OnlySlots s t p [(es w).pal] ∧
      Written t p (es w).pal v.released := by
  obtain ⟨x, h, hin, hx, hhash, hrun⟩ := hev.enters ht hq hj
  have hz := hin.sees (r := r) (j := j) (k := k)
  have hnames := hz.names hsh
  obtain ⟨t, a, hends, hsent, hans, hpal⟩ := hsh.ends hin hx hhash hrun ho (PX.formEnt_one hnames h1 _ _ _) (PX.rewrites_setSlot _ _ _)
  rw [hsh.lowest_keeps h1, Ent.thin_eq] at hends
  rw [hz.pal] at hpal
  exact ⟨t, a, hends, hsent, hans, onlySlots_put hpal, written_put hnames.clean.fit.released hpal⟩

/-- A vector whose slot the line alone names is rewritten in place (R62). -/
theorem State.Shares.rewrites (hpart : ∀ a, a < 256 → (s.portOf a).part < 64) (h2 : 2 ≤ popc (restOf v k)) (href : v.ref = 1) :
    ∃ t a y, Ends s t p j w k ((es w).wide (es w).pal) 0 ∧ Sent s t p [a] ∧ Answers a k.hdr cRSP oEvAck ∧ OnlySlots s t p [(es w).pal] ∧
      Written t p (es w).pal y ∧ s.partRule (restOf v k) y ∧ y = { v with vec := restOf v k, part := y.part, mixed := y.mixed } := by
  obtain ⟨x, h, hin, hx, hhash, hrun⟩ := hev.enters ht hq hj
  have hz := hin.sees (r := r) (j := j) (k := k)
  have hnames := hz.names hsh
  obtain ⟨t, a, hends, hsent, hans, hpal⟩ := hsh.ends hin hx hhash hrun ho
    (PX.formEnt_rewrites hnames h2 hsh.rest_ne (restOf_sub v k) href _ _ _) (PX.rewrites_setSlot _ _ _)
  rw [Ent.wide_eq hsh.st] at hends
  rw [hz.pal] at hpal
  have hparts : ∀ a, a < 256 → (((x.looked r).wbkAnswered j k oEvAck).s.portOf a).part < 64 := by simpa only [hz.portOf] using hpart
  exact ⟨t, a, _, hends, hsent, hans, onlySlots_put hpal, written_put (hnames.clean.fit.partMix hparts _) hpal,
    hz.partRule (PX.partMix_rule _ (by omega) _ rfl rfl), rfl⟩

/-- A vector whose slot other lines name takes another one (R60, R61, R63). -/
theorem State.Shares.moves (hpart : ∀ a, a < 256 → (s.portOf a).part < 64) (h2 : 2 ≤ popc (restOf v k)) (href : 2 ≤ v.ref)
    (hread : s.palSetReads p (restOf v k) (some ((es w).pal, v.released)) vs) (hslot : ¬ NoSlot (restOf v k) vs) :
    ∃ t a n y, Ends s t p j w k ((es w).wide (4 * s.palSetOf (restOf v k) + n)) 0 ∧ Sent s t p [a] ∧ Answers a k.hdr cRSP oEvAck ∧
      s.takesSlot (restOf v k) vs n y ∧ OnlySlots s t p [(es w).pal, 4 * s.palSetOf (restOf v k) + n] ∧
      Written t p (es w).pal v.released ∧ Written t p (4 * s.palSetOf (restOf v k) + n) y := by
  obtain ⟨x, h, hin, hx, hhash, hrun⟩ := hev.enters ht hq hj
  have hz := hin.sees (r := r) (j := j) (k := k)
  have hnames := hz.names hsh
  have hrel := PX.rewrites_setSlot ((x.looked r).wbkAnswered j k oEvAck) (es w).pal v.released
  have hset : (((x.looked r).wbkAnswered j k oEvAck).setSlot (es w).pal v.released).s.palSetOf (restOf v k) = s.palSetOf (restOf v k) := by
    rw [hrel.state, hz.palSet]
  obtain ⟨n, y, e, htakes, hfit, he, hacq⟩ := PX.acquire_takes (hz.released hsh hread) (fun j hj => ⟨(hread j hj).1, (hread j hj).2.1⟩)
    (by simpa only [hrel.state, hz.portOf] using hpart) hsh.rest_popc hslot (x.setOf k.hdr.addr) (h.entered k r x.s.clk.cyc).wp
  rw [hset] at hacq
  obtain ⟨t, a, hends, hsent, hans, hpal⟩ := hsh.ends hin hx hhash hrun ho (PX.formEnt_moves hnames h2 hsh.rest_ne href hacq _)
    ((hrel.setSlot _ y).eff he)
  rw [Ent.wide_eq hsh.st] at hends
  rw [hz.pal] at hpal
  rw [hrel.state] at htakes
  have hne : (es w).pal ≠ 4 * s.palSetOf (restOf v k) + n := hsh.slot_ne href hread (hz.takesSlot htakes)
  exact ⟨t, a, n, y, hends, hsent, hans, hz.takesSlot htakes, onlySlots_put_put hpal, written_put_put hnames.clean.fit.released hne hpal,
    written_put hfit hpal⟩

/-- A line whose new vector no slot takes is narrowed to its owner, or its lowest agent (R65, R67). -/
theorem State.Shares.narrow (h2 : 2 ≤ popc (restOf v k)) (href : 2 ≤ v.ref)
    (hread : s.palSetReads p (restOf v k) (some ((es w).pal, v.released)) vs) (hslot : NoSlot (restOf v k) vs) :
    ∃ t a qs, Ends s t p j w k ((es w).thin (restOf v k)) (popc (restOf v k) - 1) ∧ Sent s t p (a :: qs) ∧
      Answers a k.hdr cRSP oEvAck ∧ Snoops p j k.hdr.addr 0 none (restOf v k &&& ~~~(vbit (keeps (es w).palOwner (restOf v k)))) qs ∧
      OnlySlots s t p [(es w).pal] ∧ Written t p (es w).pal v.released := by
  obtain ⟨x, h, hin, hx, hhash, hrun⟩ := hev.enters ht hq hj
  have hz := hin.sees (r := r) (j := j) (k := k)
  have hnames := hz.names hsh
  have hrel := PX.rewrites_setSlot ((x.looked r).wbkAnswered j k oEvAck) (es w).pal v.released
  have hacq := PX.acquire_none (hz.released hsh hread) hslot (x.setOf k.hdr.addr) (h.entered k r x.s.clk.cyc).wp
  have hinv := popc_without hsh.rest_keeps
  obtain ⟨t, a, qs, hends, hsent, hans, hsnoops, hpal⟩ := hsh.narrows hin hx hhash hrun ho
    (PX.formEnt_narrows hnames h2 hsh.rest_ne href hacq _) (hrel.eff trivial) (by omega)
  rw [Ent.thin_eq, hinv] at hends
  rw [hz.pal] at hpal
  exact ⟨t, a, qs, hends, hsent, hans, hsnoops, onlySlots_put hpal, written_put hnames.clean.fit.released hpal⟩

end Sys2Proof.Machine

open Sys2Proof Sys2Proof.Machine

/-- Settles O26: the panel accepts the WBK into a writeback HTC (`State.evicts.enters`), and the entry that it holds follows from the way
that the line's directory read finds: emptied for a sole holder, formed of the other holders for a sharer. -/
theorem evictionsOfASoleHolder : Obligations.EvictionsOfASoleHolder := by
  refine ⟨?_, ?_⟩
  · intro s p j w k r es ht hq hev hj hw tag only frees
    have hfound (ho : only) (hst : (es w).st ≠ 0) : Finds es (s.hash k.hdr.addr).tag w := ⟨hw, hst, ho.1, ho.2.2⟩
    refine ⟨fun ho honly hst => ?_, fun ho hmiss => State.evicts_untracked ht hq hev hj ho hmiss, fun opc c sts hmem ho honly hst hp => ?_⟩
    · simp only [List.mem_cons, List.not_mem_nil, or_false] at hst
      exact State.evicts_sole ht hq hev hj ho (hfound honly (by omega)) honly.2.1 hst
    · simp only [List.mem_cons, List.not_mem_nil, or_false, Prod.mk.injEq] at hmem
      rcases hmem with ⟨rfl, rfl, rfl⟩ | ⟨rfl, rfl, rfl⟩
      · simp only [List.mem_cons, List.not_mem_nil, or_false] at hst
        exact State.evicts_dirty ht hq hev hj ho (hfound honly (by omega)) honly.2.1 hp (.inl ⟨rfl, by simpa [isU, or_assoc] using hst⟩)
      · exact State.evicts_dirty ht hq hev hj ho (hfound honly (by simp_all)) honly.2.1 hp (.inr ⟨rfl, by simpa using hst⟩)
  · intro s p j w k r es vs v ht hq hev hj hw ho hpart e own htag hone hst hreads hlost huncnt hvalid href hmany hlive hmem hown rest base one
      ends thin wide
    have hst : (es w).st = 5 ∨ (es w).st = 7 := hst
    have hsh : s.Shares p w k es v :=
      ⟨⟨hw, by omega, htag, htag ▸ hone⟩, hst, hreads, hlost, huncnt, hvalid, href, hmany, hlive, hmem, hown⟩
    have hkeeps : keeps (es w).palOwner rest = one := by
      by_cases h7 : (es w).st = 7 <;> simp [keeps, Ent.palOwner, one, own, e, h7]
    refine ⟨hsh.one ht hq hev hj ho, hsh.rewrites ht hq hev hj ho hpart, fun h2 href hread => ⟨hsh.moves ht hq hev hj ho hpart h2 href hread, ?_⟩⟩
    exact hkeeps ▸ hsh.narrow ht hq hev hj ho h2 href hread
end

section
/-! Obligation O30, refuted. The statement takes any number of panels and does not ask for a build that the specification has
(`Build.ok`: 4, 8 or 16 panels). The word of frozen panels has 16 bits (R438), so that in a larger build an uncorrectable HTC record is
fatal and freezes no panel. -/

namespace Sys2Proof.Machine

/-- A block of 32 panels, of which panel 16 holds a RdS in DECIDE. -/
def widePanel : State :=
  { overlapBlock {} with build := { (overlapBlock {}).build with p := 5 }, panels := [(16, { htcs := [(4, overlapHtc)] })] }

theorem widePanel_takes : widePanel.takes 16 ∧ (widePanel.panel 16).calm := by
  unfold State.takes State.acts Panel.calm
  decide +kernel

/-- An uncorrectable record of that HTC freezes no panel. -/
theorem widePanel_run {t : State} (h : exec (.htcReplay 16 4 true {}) widePanel = .next t) : t.clk.frozenPanels = 0 := by
  have hrun : (match exec (.htcReplay 16 4 true {}) widePanel with
    | .next u => u.clk.frozenPanels
    | _ => 1) = 0 := by decide +kernel
  rwa [h] at hrun

end Sys2Proof.Machine

open Sys2Proof Sys2Proof.Machine

/-- Refutes O30: at panel 16 of a build of 32 panels an uncorrectable HTC record freezes no panel. -/
theorem not_queuedReplayedAndBrokenHtcs : ¬ Obligations.QueuedReplayedAndBrokenHtcs := by
  intro hall
  obtain ⟨htakes, hcalm⟩ := widePanel_takes
  obtain ⟨-, -, -, -, hbroken, -⟩ := hall widePanel 16 4 overlapHtc htakes hcalm
  obtain ⟨t, hrun, -, -, hfrozen, -⟩ := hbroken rfl {}
  rw [widePanel_run hrun] at hfrozen
  exact absurd hfrozen (by decide)
end

section
/-! Obligation O34, refuted. Where a request of the Restorer crosses, the panel does its step and a set sweep that waits in DECIDE goes on.
In a set with an untrusted way that sweep expels the caching agents without sweep support (R427), so that a port changes; the statement
has the ports stay and does not ask for a panel without such a sweep (`Panel.calm`). -/

namespace Sys2Proof.Machine

/-- A set sweep of set 7 that waits in DECIDE. -/
def waitingSweep : Htc :=
  { job := .sweep, pool := 2, phase := .decide, seq := 3, acc := 79000, line := 7, pkt := { hdr := { src := 511, addr := 7 } } }

/-- The ways of that set, way 2 uncorrectable and the others empty. -/
def brokenSet (w : Nat) : BitVec 72 := if w = 2 then 0xF#72 else ({} : Ent).enc

/-- A request of the Restorer for set 8 of panel 0 waits in the root's input; set 7 is about to be swept. The port of agent 5 has no sweep
support, that of agent 6 has. -/
def sweepBehindStep : State :=
  { overlapBlock
      { dir := (List.range 32).map fun i => (7 * 16 + i, brokenSet i), htcs := [(992, waitingSweep)], sweeping := [7], rpos := 8 } with
    ports := [(0, overlapPort), (1, { overlapPort with agent := 6, mode := { kind := 1, feats := 4 } })]
    net := { rsMgt := [{ panel := 0, recnt := false, pos := 8, epoch := 0 }] } }

theorem sweepBehindStep_open : sweepBehindStep.takes 0 ∧ sweepBehindStep.mgmtOpen 0 = true := by
  unfold State.takes State.acts
  decide +kernel

/-- The crossing of that request ends with the port of agent 5 in DEAD. -/
theorem sweepBehindStep_run {t : State} (h : exec (.packetHop (.rootToPanel 0) {}) sweepBehindStep = .next t) :
    (t.port 0).lstate = .dead := by
  have hrun : (match exec (.packetHop (.rootToPanel 0) {}) sweepBehindStep with
    | .next u => (u.port 0).lstate
    | _ => .down) = .dead := by decide +kernel
  rwa [h] at hrun

end Sys2Proof.Machine

open Sys2Proof Sys2Proof.Machine

/-- Refutes O34: a request of the Restorer crosses to a panel with a set sweep in DECIDE, which then expels a caching agent without sweep
support, for a way of its set is untrusted. -/
theorem not_oneManagementRequestInAKclk : ¬ Obligations.OneManagementRequestInAKclk := by
  intro hall
  obtain ⟨htakes, hopen⟩ := sweepBehindStep_open
  obtain ⟨-, -, hstep⟩ := hall sweepBehindStep 0 {} htakes
  obtain ⟨t, hrun, -, hports, -⟩ := hstep _ rfl hopen
  have hdead := sweepBehindStep_run hrun
  rw [State.port, hports] at hdead
  exact absurd hdead (by decide)
end

section
/-! SUPPORT. A request of the Restorer that crosses to its panel: what the crossing leaves as it was, the management HTC that the request
draws, and where its panel stands after it (R151, R153, R216, R421). -/

namespace Sys2Proof.Machine

variable {s t u : State} {p i : Nat} {q : RestIn}

/-! ### What a crossing leaves as it was -/

theorem CrossFrame.trans (h : CrossFrame s t p) (g : CrossFrame t u p) : CrossFrame s u p := by
  simp only [CrossFrame, SameBase, SamePins] at *
  simp_all

theorem PanelFrame.cross (h : PanelFrame s t p) (hn : t.net = s.net) : CrossFrame s t p := by
  simp only [PanelFrame, CrossFrame, State.router] at *
  simp_all

theorem State.modRouter_cross (s : State) (p : Nat) (f : Router → Router) : CrossFrame s (s.modRouter 40 f) p := by
  simp only [CrossFrame, SameBase, SamePins, State.modRouter_pending, State.modRouter_build, State.modRouter_nonce, State.modRouter_clk,
    State.modRouter_outs, State.modRouter_host, State.modRouter_ports, State.modRouter_rgn, State.modRouter_mps, State.modRouter_ep,
    State.modRouter_net, and_self, true_and]
  exact ⟨fun r hr => State.router_modRouter_ne _ _ hr, fun _ _ => rfl⟩

/-- The state in which the panel acts on the request: the link is held for an HCLK, and the request has left the root (R151, R216). -/
def State.crossing (s : State) (p epoch : Nat) : State :=
  ({ s with net := { s.net with dbl := smSet s.net.dbl (outId (.rootToPanel p)) (s.clk.cyc + 1) } }).addEj 40 epoch 1

theorem State.crossing_cross (s : State) (p e : Nat) : CrossFrame s (s.crossing p e) p := by
  refine CrossFrame.trans (t := { s with net := { s.net with dbl := smSet s.net.dbl (outId (.rootToPanel p)) (s.clk.cyc + 1) } }) ?_
    (State.modRouter_cross _ p _)
  simp [CrossFrame, SameBase, SamePins, State.router, State.panel]

/-! ### The management HTC of the request -/

/-- The panel once a request whose work is done in one step has drawn management HTC `i` (R153). -/
def PX.held (x : PX) (i : Nat) : PX :=
  x.mgmtTake.setHtc i { (x.newMgmt .hold 0 0 511) with phase := .close, closeAt := x.s.clk.cyc }

theorem PX.mgmtHold_free {x : PX} (h : x.freeHtc 2 = some i) (f : PX → PX) : x.mgmtHold 0 f = f (x.held i) := by
  unfold PX.mgmtHold
  generalize x.freeHtc 2 = o at h
  subst h
  rfl

theorem PX.held_calm {x : PX} (h : x.pn.calm) (i : Nat) : (x.held i).pn.calm :=
  Panel.calm.setHtc (n := x.mgmtTake.pn) h ⟨by simp [PX.newMgmt], by simp [PX.newMgmt]⟩

/-- That HTC holds no line. -/
theorem PX.held_lineBusy {x : PX} {l : Nat} (h : x.lineBusy l = false) (i : Nat) : (x.held i).lineBusy l = false := by
  simp only [PX.lineBusy, List.any_eq_false] at h ⊢
  intro e he
  rcases mem_smSet he with rfl | he
  · simp [Htc.onLine, PX.newMgmt, Job.ofLine]
  · exact h e he

/-- From `y` to `z` a panel has stepped its sweep past `pos` with no finding: it holds the same HTCs, and has sent, read and written
nothing outside its arrays (R421). -/
structure PX.Stepped (y z : PX) (pos : Nat) : Prop where
  effs : z.effs = y.effs
  htcs : z.pn.htcs = y.pn.htcs
  outq : z.pn.outq = y.pn.outq
  memOut : z.pn.memOut = y.pn.memOut
  mgmtAt : z.pn.mgmtAt = y.pn.mgmtAt
  recount : z.pn.recount = y.pn.recount
  rpos : z.pn.rpos = pos + 1

/-- The work of request `q` at panel `p`, once the request holds HTC `i`. -/
def State.restPx (s : State) (p i : Nat) (q : RestIn) : PX := ((s.px p {}).held i).restWork q

/-- The step of request `q` finds no error in the arrays of panel `p`, in whatever state of the tree it crosses. -/
def State.StepsClean (s : State) (p i : Nat) (q : RestIn) : Prop :=
  ∀ t, CrossFrame s t p → t.panel p = s.panel p → ((t.px p {}).held i).Stepped (t.restPx p i q) q.pos

/-- The state once request `q` has crossed to panel `p`, and the panel has done its work. -/
def State.landed (s : State) (p i : Nat) (q : RestIn) : State :=
  (s.crossing p q.epoch).commitPx p ((s.crossing p q.epoch).restPx p i q)

theorem CrossFrame.refl (s : State) (p : Nat) : CrossFrame s s p := by simp [CrossFrame, SameBase, SamePins]

theorem State.StepsClean.of_cross (h : s.StepsClean p i q) (hc : CrossFrame s t p) (hn : t.panel p = s.panel p) : t.StepsClean p i q :=
  fun u hu hnu => h u (hc.trans hu) (hnu.trans hn)

theorem State.StepsClean.crossing (h : s.StepsClean p i q) (e : Nat) :
    (((s.crossing p e).px p {}).held i).Stepped ((s.crossing p e).restPx p i q) q.pos := h _ (s.crossing_cross p e) rfl

theorem State.StepsClean.counts (h : s.StepsClean p i q) (e : Nat) : ∀ x ∈ ((s.crossing p e).restPx p i q).effs, x.counts := by
  rw [(h.crossing e).effs]
  simp [PX.held, PX.mgmtTake, PX.mgmtMark, PX.mod, State.px, Eff.counts]

theorem State.StepsClean.found (h : s.StepsClean p i q) : found (s.restPx p i q).effs = (0, 0) := by
  rw [(h s (.refl s p) rfl).effs]
  rfl

/-- The panel's step ends with its work: nothing is found, and no sweep waits. -/
theorem State.StepsClean.cross (h : s.StepsClean p i q) (hi : (s.px p {}).freeHtc 2 = some i) (hcalm : (s.panel p).calm) :
    (s.cross p q.epoch {} fun x => (x.mgmtHold 0 fun x => x.restWork q).pumpSweeps) = s.landed p i q := by
  have hi' : ((s.crossing p q.epoch).px p {}).freeHtc 2 = some i := hi
  have hcalm' : ((s.crossing p q.epoch).restPx p i q).pn.calm := by
    rw [Panel.calm, (h.crossing q.epoch).htcs]
    exact PX.held_calm hcalm i
  rw [State.landed, ← PX.pumpSweeps_of_calm hcalm', State.restPx, ← PX.mgmtHold_free hi' fun x => x.restWork q]
  rfl

/-- What the landed request leaves as it was. -/
theorem State.StepsClean.landed_frame (h : s.StepsClean p i q) :
    CrossFrame s (s.landed p i q) p ∧ (s.landed p i q).rs = s.rs ∧ (s.landed p i q).tr = s.tr ∧ (s.landed p i q).w6 = s.w6 ∧
      (s.landed p i q).net.rsMgt = s.net.rsMgt ∧ (s.landed p i q).panel p = ((s.crossing p q.epoch).restPx p i q).pn := by
  obtain ⟨hf, hn, hp⟩ := State.commitPx_counts (s.crossing p q.epoch) p (h.counts q.epoch)
  have hframe := hf
  obtain ⟨-, -, -, -, -, -, -, -, -, -, hrs, -, htr, hw6, -⟩ := hframe
  exact ⟨(s.crossing_cross p q.epoch).trans (hf.cross hn), hrs, htr, hw6, (congrArg Net.rsMgt hn :), hp⟩

/-! ### The whole step -/

theorem State.sharer_eq (hb : t.build = s.build) (hc : t.clk = s.clk) (hd : t.rs.dip = s.rs.dip) (he : t.rs.dipDone = s.rs.dipDone)
    (hn : ∀ r, (t.panel r).recount = (s.panel r).recount) : t.sharer = s.sharer := by
  simp only [State.sharer, State.stepping, State.panelFrozen, hb, hc, hd, he, hn]

/-- A step that reads no shared word, or whose panel is not the one that does (R421). -/
theorem State.sharedStep_none {k : Nat} (h : s.sharer ≠ some p ∨ 544 + s.build.p ≤ k) (w : Upset) : s.sharedStep p k w = s := by
  unfold State.sharedStep
  simp only
  rcases h with h | h
  · rw [if_pos h]
  · rw [if_neg (by omega : ¬ k < 32 + s.build.p), if_neg (by omega : ¬ k < 32 + s.build.p + 512), ite_self]

theorem State.calFlush_none (h : s.ep.cals = []) : s.calFlush = s := by
  have hep : { s.ep with cals := [] } = s.ep := by rw [← h]
  simp [State.calFlush, h, hep]

theorem State.passEnds_ep (s : State) (p : Nat) : (s.passEnds p).ep = s.ep := by
  unfold State.passEnds
  simp only
  split <;> rfl

theorem State.palEnd_ep (s : State) (p : Nat) : (s.palEnd p).ep = s.ep := by
  unfold State.palEnd
  split
  · rfl
  · split
    · rfl
    · exact s.passEnds_ep p

theorem State.landed_sharer (h : s.StepsClean p i q) : (s.landed p i q).sharer = s.sharer := by
  obtain ⟨hframe, hrs, -, -, -, hp⟩ := h.landed_frame
  obtain ⟨⟨-, hb, -⟩, ⟨hclk, -⟩, -, -, -, -, -, -, -, -, -, -, hother⟩ := hframe
  refine State.sharer_eq hb hclk (congrArg Rest.dip hrs) (congrArg Rest.dipDone hrs) fun r => ?_
  by_cases hr : r = p
  · subst hr
    rw [hp, (h.crossing q.epoch).recount]
    rfl
  · rw [hother r hr]

/-- A step of the sweep that finds nothing ends where its request has landed, or, past a Palette slot, with the end of the pass (R421). -/
theorem State.restStep_clean (h : s.StepsClean q.panel i q) (hi : (s.px q.panel {}).freeHtc 2 = some i) (hcalm : (s.panel q.panel).calm)
    (hr : q.recnt = false) (hpos : (s.panel q.panel).rpos = q.pos) (hcals : s.ep.cals = [])
    (hshare : s.sharer ≠ some q.panel ∨ 544 + s.build.p ≤ q.pos) :
    s.restStep q {} = if s.build.sets ≤ q.pos then (s.landed q.panel i q).palEnd q.panel else s.landed q.panel i q := by
  have hlive : q.current (s.panel q.panel) = true := by simp [RestIn.current, hr, hpos]
  have hfound := h.found
  rw [State.restPx, ← PX.mgmtHold_free hi fun x => x.restWork q] at hfound
  obtain ⟨hframe, -, -, hw6, -⟩ := h.landed_frame
  obtain ⟨⟨-, hb, -⟩, -, -, -, -, -, hep, -⟩ := hframe
  have hshared : (s.landed q.panel i q).sharedStep q.panel q.pos {} = s.landed q.panel i q :=
    State.sharedStep_none (by rwa [State.landed_sharer h, hb]) _
  have hflush (t : State) (ht : t.ep = s.ep) : t.calFlush = t := State.calFlush_none (by rw [ht, hcals])
  have hdip (t : State) : (if t.rs.dip = true then { t with rs := { t.rs with
      dipCe := t.rs.dipCe + 0 + b2n (false || false), dipUe := t.rs.dipUe + 0 + b2n (false || false) } } else t) = t := by
    split <;> rfl
  simp only [State.restStep, hfound, hlive, hr, if_true, h.cross hi hcalm, hb, not_true_eq_false, Bool.false_eq_true, or_self, if_false,
    hshared, ne_eq, decide_false, not_false_eq_true, true_and, hdip]
  split
  · exact hflush _ ((State.palEnd_ep _ _).trans hep)
  · exact hflush _ hep

end Sys2Proof.Machine
end

section
/-! SUPPORT. A step of the Restorer's sweep on a set, and on an empty Palette slot, that finds no error (R422, R423). -/

namespace Sys2Proof.Machine

variable {s t : State} {p i k : Nat} {q : RestIn} {x : PX} {es : Nat → Ent} {v : PSlot}

/-- A request for the place at which its panel's sweep stands has its step to do. -/
theorem State.current_held (hr : q.recnt = false) (hpos : (s.panel p).rpos = q.pos) (hn : t.panel p = s.panel p) :
    q.current ((t.px p {}).held i).pn = true := by
  have hrpos : ((t.px p {}).held i).pn.rpos = q.pos := (congrArg Panel.rpos hn).trans hpos
  simp [RestIn.current, hr, hrpos]

/-! ### A set -/

/-- Way `w` reads as the state says where its word is the state's. -/
theorem PX.wayClean_of_reads {set w : Nat} (h : s.setReads p set es) (hw : w < 16) (hu : x.u = {}) (hs : x.s.nonce = s.nonce) (hp : x.p = p)
    (hdir : x.pn.dir = (s.panel p).dir) : x.wayClean set w (es w) := by
  obtain ⟨hway, hst⟩ := h w hw
  have hraw : x.rawWay set w = smGet (Config.freeDir s.nonce p (wayIdx set w)) (s.panel p).dir (wayIdx set w) := by
    rw [PX.rawWay, hu, hs, hp, hdir]
    exact BitVec.xor_zero
  unfold State.wayOf at hway
  split at hway
  case h_1 d hd => exact ⟨d, by rw [hraw, hd], Option.some.inj hway, hst⟩
  case h_2 => cases hway

/-- An entry that the Restorer has passed once more (R422). -/
def Ent.aged (e : Ent) : Ent := { e with age := min 3 (e.age + 1) }

theorem Ent.canon_canon (e : Ent) : e.canon.canon = e.canon := by
  simp only [Ent.canon, Ent.mk.injEq, true_and, and_true]
  constructor
  · split_ifs
    · rfl
    · exact Nat.mod_mod _ _
    · rfl
  · split_ifs <;> rfl

theorem Ent.canon_aged (e : Ent) : e.canon.aged.canon = e.aged.canon := congrArg Ent.aged e.canon_canon

/-- The directory once the ways `ws` of a set have been stepped: the written ones are aged (R422). -/
def ageWays (set : Nat) (es : Nat → Ent) (dir : SMap (BitVec 72)) (ws : List Nat) : SMap (BitVec 72) :=
  ws.foldl (fun d w => if (es w).st = 0 then d else smSet d (wayIdx set w) (es w).aged.canon.enc) dir

theorem smFind_ageWays_other {set j : Nat} (ws : List Nat) (h : ∀ w ∈ ws, j ≠ wayIdx set w) (dir : SMap (BitVec 72)) :
    smFind (ageWays set es dir ws) j = smFind dir j := by
  induction ws generalizing dir with
  | nil => rfl
  | cons w ws ih =>
    obtain ⟨hw, hws⟩ := List.forall_mem_cons.mp h
    rw [ageWays, List.foldl_cons, ← ageWays, ih hws]
    split
    · rfl
    · exact smFind_smSet_ne _ _ hw

theorem smFind_ageWays_mem {set w : Nat} (ws : List Nat) (hn : ws.Nodup) (hw : w ∈ ws) (dir : SMap (BitVec 72)) :
    smFind (ageWays set es dir ws) (wayIdx set w) =
      if (es w).st = 0 then smFind dir (wayIdx set w) else some (es w).aged.canon.enc := by
  have hne {a b : Nat} (h : a ≠ b) : wayIdx set a ≠ wayIdx set b := by simp only [wayIdx]; omega
  induction ws generalizing dir with
  | nil => cases hw
  | cons a ws ih =>
    obtain ⟨ha, hn⟩ := List.nodup_cons.mp hn
    rw [ageWays, List.foldl_cons, ← ageWays]
    rcases List.mem_cons.mp hw with rfl | hw
    · rw [smFind_ageWays_other ws fun b hb => hne fun h => ha (by rwa [h])]
      split
      · rfl
      · exact smFind_smSet_self ..
    · rw [ih hn hw]
      split
      · split
        · rfl
        · exact smFind_smSet_ne _ _ (hne fun h => ha (h ▸ hw))
      · rfl

/-- The panel with another directory. -/
def PX.withDir (x : PX) (dir : SMap (BitVec 72)) : PX := x.mod fun n => { n with dir := dir }

/-- What a step of the sweep does with the entry that it has read in one way (R422, R423). -/
def PX.ageWay (set : Nat) (x : PX) (e : Nat × Ent) : PX :=
  if e.2.st = 0 then x
  else if set ∈ x.pn.sweeping ∨ x.lineBusy (x.s.unhash x.p set e.2.tag) then x
  else (x.mergeEnt set e.2).1.setWay set e.1 { (x.mergeEnt set e.2).2 with age := min 3 ((x.mergeEnt set e.2).2.age + 1) }

theorem PX.restDir_eq (hread : ∀ w, w < 16 → x.wayClean k w (es w)) :
    x.restDir k false = ((List.range 16).map fun w => (w, (es w).canon)).foldl (PX.ageWay k) x := by
  simp only [PX.restDir, Bool.false_eq_true, if_false, PX.readSet_clean hread]
  rfl

/-- A line that nothing holds has its entry aged, and with no merge under way it stays with its slot. -/
theorem PX.ageWay_clean {w : Nat} {e : Ent} {d : SMap (BitVec 72)} (hm : x.pn.merges = []) (hsweep : k ∉ x.pn.sweeping)
    (hidle : e.st ≠ 0 → x.lineBusy (x.s.unhash x.p k e.tag) = false) :
    (x.withDir d).ageWay k (w, e.canon) = x.withDir (if e.st = 0 then d else smSet d (wayIdx k w) e.aged.canon.enc) := by
  by_cases hst : e.st = 0
  · simp [PX.ageWay, hst]
  · have hbusy : ¬ (k ∈ (x.withDir d).pn.sweeping ∨ (x.withDir d).lineBusy (x.s.unhash x.p k e.tag) = true) :=
      not_or.mpr ⟨hsweep, Bool.eq_false_iff.mp (hidle hst)⟩
    have hnone : (x.withDir d).pn.merges = [] := hm
    have hmerge : (x.withDir d).mergeEnt k e.canon = (x.withDir d, e.canon) := by
      simp only [PX.mergeEnt, hnone, List.find?_nil, ite_self]
    simp only [PX.ageWay, Ent.canon_st, Ent.canon_tag, if_neg hst, hmerge, ← e.canon_aged]
    exact if_neg hbusy

/-- A step on a set without errors ages its entries (R422). -/
theorem PX.restDir_clean (hread : ∀ w, w < 16 → x.wayClean k w (es w)) (hm : x.pn.merges = []) (hsweep : k ∉ x.pn.sweeping)
    (hidle : ∀ w, w < 16 → (es w).st ≠ 0 → x.lineBusy (x.s.unhash x.p k (es w).tag) = false) :
    x.restDir k false = x.withDir (ageWays k es x.pn.dir (List.range 16)) := by
  have hfold (ws : List Nat) (hws : ∀ w ∈ ws, w < 16) (d : SMap (BitVec 72)) :
      (ws.map fun w => (w, (es w).canon)).foldl (PX.ageWay k) (x.withDir d) = x.withDir (ageWays k es d ws) := by
    induction ws generalizing d with
    | nil => rfl
    | cons w ws ih =>
      obtain ⟨hw, hws⟩ := List.forall_mem_cons.mp hws
      rw [List.map_cons, List.foldl_cons, PX.ageWay_clean hm hsweep (hidle w hw), ih hws]
      rfl
  rw [PX.restDir_eq hread]
  exact hfold _ (fun w hw => List.mem_range.mp hw) x.pn.dir

/-- Request `q` of the sweep, for a set, finds its set without errors and its lines idle; no merge is under way. -/
structure State.AgesSet (s : State) (p : Nat) (q : RestIn) (es : Nat → Ent) : Prop where
  recnt : q.recnt = false
  rpos : (s.panel p).rpos = q.pos
  isSet : q.pos < s.build.sets
  reads : s.setReads p q.pos es
  merges : (s.panel p).merges = []
  unswept : q.pos ∉ (s.panel p).sweeping
  idle : ∀ w, w < 16 → (es w).st ≠ 0 → (s.px p {}).lineBusy (s.unhash p q.pos (es w).tag) = false

theorem State.AgesSet.restPx (h : s.AgesSet p q es) (hc : CrossFrame s t p) (hn : t.panel p = s.panel p) :
    t.restPx p i q = (((t.px p {}).held i).withDir (ageWays q.pos es (s.panel p).dir (List.range 16))).dirNext false := by
  obtain ⟨⟨-, hb, hnonce⟩, -, -, -, hrgn, -⟩ := hc
  have hlive : q.current ((t.px p {}).held i).pn = true := State.current_held h.recnt h.rpos hn
  have hset : q.pos < ((t.px p {}).held i).s.build.sets := hb ▸ h.isSet
  have hdir : ((t.px p {}).held i).pn.dir = (s.panel p).dir := (congrArg Panel.dir hn :)
  have hhash (l : Nat) : t.hash l = s.hash l := by simp only [State.hash, State.rgnWord, State.rgnRaw, hb, hrgn]
  have hidle (w : Nat) (hw : w < 16) (hst : (es w).st ≠ 0) : ((t.px p {}).held i).lineBusy (t.unhash p q.pos (es w).tag) = false := by
    refine PX.held_lineBusy ?_ i
    have hline : t.unhash p q.pos (es w).tag = s.unhash p q.pos (es w).tag := by simp only [State.unhash, hhash, hb]
    have hpn : (t.px p {}).pn.htcs = (s.px p {}).pn.htcs := congrArg Panel.htcs hn
    rw [hline, PX.lineBusy, hpn]
    exact h.idle w hw hst
  have hstep := PX.restDir_clean (x := (t.px p {}).held i) (fun w hw => PX.wayClean_of_reads h.reads hw rfl hnonce rfl hdir)
    ((congrArg Panel.merges hn).trans h.merges) (fun hmem => h.unswept (congrArg Panel.sweeping hn ▸ hmem)) hidle
  rw [State.restPx, PX.restWork, if_neg (not_not.mpr hlive), if_pos hset, h.recnt, hstep, hdir]

theorem State.AgesSet.clean (h : s.AgesSet p q es) : s.StepsClean p i q := by
  intro t hc hn
  rw [h.restPx hc hn]
  exact ⟨rfl, rfl, rfl, rfl, rfl, rfl, congrArg (· + 1) ((congrArg Panel.rpos hn).trans h.rpos)⟩

/-! ### An empty Palette slot -/

/-- Request `q` of the sweep, for a Palette slot, finds it empty and without errors. -/
structure State.PassesSlot (s : State) (p : Nat) (q : RestIn) (v : PSlot) : Prop where
  recnt : q.recnt = false
  rpos : (s.panel p).rpos = q.pos
  isSlot : s.build.sets ≤ q.pos
  reads : s.slotReads p (q.pos - s.build.sets) v
  empty : v.valid = false

theorem State.PassesSlot.restPx (h : s.PassesSlot p q v) (hc : CrossFrame s t p) (hn : t.panel p = s.panel p) :
    t.restPx p i q = ((t.px p {}).held i).mod fun n => { n with rpos := n.rpos + 1 } := by
  obtain ⟨⟨-, hb, hnonce⟩, -⟩ := hc
  have hlive : q.current ((t.px p {}).held i).pn = true := State.current_held h.recnt h.rpos hn
  have hslot : ¬ q.pos < ((t.px p {}).held i).s.build.sets := by
    have := h.isSlot
    rw [← hb] at this
    exact Nat.not_lt.mpr this
  have hpal : ((t.px p {}).held i).pn.pal = (s.panel p).pal := (congrArg Panel.pal hn :)
  have hread : ((t.px p {}).held i).slotClean (q.pos - s.build.sets) v :=
    PX.slotClean_of_reads h.reads rfl hnonce rfl fun _ _ => by rw [hpal]
  have hsets : ((t.px p {}).held i).s.build.sets = s.build.sets := congrArg Build.sets hb
  rw [State.restPx, PX.restWork, if_neg (not_not.mpr hlive), if_neg hslot, PX.restPal, hsets, PX.readSlot_clean hread]
  simp [PX.findDup, h.empty]

theorem State.PassesSlot.clean (h : s.PassesSlot p q v) : s.StepsClean p i q := by
  intro t hc hn
  rw [h.restPx hc hn]
  exact ⟨rfl, rfl, rfl, rfl, rfl, rfl, congrArg (· + 1) ((congrArg Panel.rpos hn).trans h.rpos)⟩

end Sys2Proof.Machine
end

section
/-! SUPPORT. When a request of the Restorer crosses, and what its panel and the root hold after it (R40, R153, R214, R421, R543). -/

namespace Sys2Proof.Machine

variable {s t u : State} {p i : Nat} {q : RestIn}

/-! ### A request leaves the root -/

/-- From `s` to `t` a request of the Restorer for panel `p` has left the root, or been sent and stamped, but not crossed yet: the step is
noted, and no panel has changed (R214, R216, R421). -/
structure State.Leaves (s t : State) (p : Nat) : Prop where
  frame : CrossFrame s t p
  panels : t.panels = s.panels
  tr : t.tr = s.tr
  w6 : t.w6 = s.w6
  passed : t.rs.passed = s.rs.passed
  dip : t.rs.dip = s.rs.dip
  dipDone : t.rs.dipDone = s.rs.dipDone
  took : s.stepAsk p = true → p ∈ t.rs.took

/-- The step of a sweep is noted with the panel among those that have taken it (R421). -/
theorem State.leaves_stepNote (hrec : (s.panel p).recount = none) (e : Nat) : s.Leaves ((s.stepNote p).addInj 40 e 1) p := by
  have hnote : ∃ k l, s.stepNote p = { s with rs := { s.rs with stepK := k, took := l } } ∧ p ∈ l := by
    simp only [State.stepNote, hrec, Option.isSome_none, Bool.false_eq_true, if_false]
    split
    · exact ⟨_, _, rfl, List.mem_singleton_self p⟩
    · exact ⟨_, _, rfl, List.mem_cons_self⟩
  obtain ⟨k, l, hk, hl⟩ := hnote
  rw [hk]
  exact ⟨State.modRouter_cross _ p _, rfl, rfl, rfl, rfl, rfl, rfl, fun _ => hl⟩

theorem State.leaves_erase (hw : s.restWaiting p = some q) :
    s.Leaves { s with net := { s.net with rsMgt := s.net.rsMgt.erase q } } p := by
  refine ⟨.refl s p, rfl, rfl, rfl, rfl, rfl, rfl, fun hask => ?_⟩
  simp [State.stepAsk, hw] at hask

/-- No request waits for a panel that asks for its step. -/
theorem State.restWaiting_of_asks (h : s.stepAsk p = true) : s.restWaiting p = none := by
  simp only [State.stepAsk, Bool.and_eq_true] at h
  exact Option.isNone_iff_eq_none.mp h.1.1.2

theorem State.restMove_asks (hrec : (s.panel p).recount = none) {kind : Bool → Nat → Bool} (hk : kind false (s.panel p).rpos = true)
    (h : s.stepAsk p = true) (w : Upset) : s.restMove p kind w = s.restAsk p false (s.panel p).rpos w := by
  simp [State.restMove, State.restWaiting_of_asks h, hrec, hk, h]

/-- Where nothing is due, or the request that waits cannot cross, nothing happens. -/
theorem State.restMove_none
    (h : (s.restWaiting p = none ∧ s.stepAsk p = false) ∨ ((s.restWaiting p).isSome = true ∧ s.mgmtOpen p = false))
    (kind : Bool → Nat → Bool) (w : Upset) : s.restMove p kind w = s := by
  rcases h with ⟨hw, hask⟩ | ⟨hw, hopen⟩
  · simp [State.restMove, hw, hask]
  · obtain ⟨q, hq⟩ := Option.isSome_iff_exists.mp hw
    simp [State.restMove, hq, hopen]

/-- A request that is sent where its panel cannot take it waits in the root's input (R40, R153). -/
theorem State.restAsk_waits (h : s.mgmtOpen p = false) (recnt : Bool) (pos : Nat) (w : Upset) :
    s.restAsk p recnt pos w = { (s.stepNote p).addInj 40 (s.router 40).epoch 1 with
      net := { (s.stepNote p).net with rsMgt := (s.stepNote p).net.rsMgt ++
        [{ panel := p, recnt := recnt, pos := pos, epoch := (s.router 40).epoch }] } } := by
  simp only [State.restAsk, h, Bool.false_eq_true, if_false]
  rfl

/-! ### A request crosses -/

theorem State.freeHtc_of_open (h : s.mgmtOpen p = true) : ∃ i, (s.px p {}).freeHtc 2 = some i := by
  simp only [State.mgmtOpen, PX.mgmtFree, Bool.and_eq_true] at h
  exact Option.isSome_iff_exists.mp h.2.1.2

/-- The request for the place at which the sweep of panel `p` stands. -/
def State.asked (s : State) (p e : Nat) : RestIn := { panel := p, recnt := false, pos := (s.panel p).rpos, epoch := e }

/-- The Restorer's step at panel `p` crosses now: a request that is due, or one that waits (R153). -/
def State.crossesNow (s : State) (p : Nat) : Prop :=
  s.stepDue p = true ∨ (∃ e, s.restWaiting p = some (s.asked p e)) ∧ s.mgmtOpen p = true

theorem State.crossesNow.open (h : s.crossesNow p) : s.mgmtOpen p = true := by
  rcases h with h | h
  · exact (Bool.and_eq_true_iff.mp h).2
  · exact h.2

/-- The root's buffers once the step's request has left: one that waited has left its buffer (R40). -/
def State.freesBuffer (s t : State) (p : Nat) : Prop :=
  (s.restWaiting p = none ∧ t.net.rsMgt = s.net.rsMgt) ∨ ∃ q, s.restWaiting p = some q ∧ t.net.rsMgt = s.net.rsMgt.erase q

theorem State.restMove_crosses (h : s.crossesNow p) (hrec : (s.panel p).recount = none) {kind : Bool → Nat → Bool}
    (hk : kind false (s.panel p).rpos = true) :
    ∃ u e, s.restMove p kind {} = u.restStep (s.asked p e) {} ∧ s.Leaves u p ∧ s.freesBuffer u p := by
  have hopen := h.open
  rcases h with h | ⟨⟨e, hw⟩, -⟩
  · obtain ⟨hask, -⟩ := Bool.and_eq_true_iff.mp h
    have hl := State.leaves_stepNote hrec (s.router 40).epoch
    refine ⟨_, (s.router 40).epoch, ?_, hl, .inl ⟨State.restWaiting_of_asks hask, ?_⟩⟩
    · rw [State.restMove_asks hrec hk hask, State.restAsk, hopen]
      rfl
    · unfold State.stepNote
      split_ifs <;> rfl
  · refine ⟨_, e, ?_, State.leaves_erase hw, .inr ⟨_, hw, rfl⟩⟩
    have hkind : kind (s.asked p e).recnt (s.asked p e).pos = true := hk
    simp only [State.restMove, hw, hopen, hkind, and_self, if_true]
    rfl

/-- From `s` to `t` a step of the Restorer's sweep at panel `p` is over: it took management HTC `i`, and was the panel's management request
of its KCLK (R153). -/
structure State.Lands (s t : State) (p i : Nat) : Prop where
  frame : CrossFrame s t p
  tr : t.tr = s.tr
  sent : Sent s t p []
  memOut : (t.panel p).memOut = (s.panel p).memOut
  mgmtAt : (t.panel p).mgmtAt = some (s.clk.cyc / 8)
  took : s.stepAsk p = true → p ∈ t.rs.took
  buffer : s.freesBuffer t p
  others : OtherHtcs s t p i
  htc : ∃ h, smFind (t.panel p).htcs i = some h ∧ h.job = .hold ∧ h.pool = 2 ∧ h.phase = .close

theorem State.Leaves.panel (h : s.Leaves t p) (n : Nat) : t.panel n = s.panel n := by rw [State.panel, State.panel, h.panels]

theorem State.Leaves.lands (hl : s.Leaves u p) (hb : s.freesBuffer u p) (h : u.StepsClean p i q) : s.Lands (u.landed p i q) p i := by
  obtain ⟨hframe, hrs, htr, -, hbuf, hp⟩ := h.landed_frame
  have hstep := h.crossing q.epoch
  obtain ⟨-, ⟨hclk, -⟩, -⟩ := hl.frame
  have hhtcs : ((u.landed p i q).panel p).htcs = (((u.crossing p q.epoch).px p {}).held i).pn.htcs := by rw [hp, hstep.htcs]
  refine ⟨hl.frame.trans hframe, htr.trans hl.tr, ?_, ?_, ?_, fun ha => by rw [hrs]; exact hl.took ha, ?_, fun j hj => ?_, ?_⟩
  · rw [Sent, hp, hstep.outq, List.append_nil, ← hl.panel]
    rfl
  · rw [hp, hstep.memOut, ← hl.panel]
    rfl
  · rw [hp, hstep.mgmtAt, ← hclk]
    rfl
  · rwa [State.freesBuffer, hbuf]
  · rw [hhtcs, ← hl.panel]
    exact smFind_smSet_ne _ _ hj
  · rw [hhtcs]
    exact ⟨_, smFind_smSet_self .., rfl, rfl, rfl⟩

/-! ### The end of a pass -/

theorem State.palEnd_goes (h : (s.panel p).rpos < s.build.sets + 4 * s.build.palSets) : s.palEnd p = s := if_pos h

/-- Panel `p` goes back to the first set, with `l` the panels that have ended the sweep and `w` the counters. -/
def State.sweepsAgain (s : State) (p : Nat) (l : List Nat) (w : SMap (BitVec 64)) : State :=
  ({ s with rs := { s.rs with passed := l }, w6 := w } : State).modPanel p fun n => { n with rpos := 0 }

/-- Every panel that still acts has ended the sweep with panel `p` (R421). -/
def State.sweepOver (s : State) (p : Nat) : Prop :=
  ∀ q, q < s.build.panels → q = p ∨ q ∈ s.rs.passed ∨ s.panelFrozen q = true

theorem State.sweepOver_iff (s : State) (p : Nat) :
    ((List.range s.build.panels).all fun q => decide (q ∈ p :: s.rs.passed) || s.panelFrozen q) = true ↔ s.sweepOver p := by
  simp [State.sweepOver, List.all_eq_true, or_assoc]

theorem State.palEnd_ends (h : s.build.sets + 4 * s.build.palSets ≤ (s.panel p).rpos) (hd : s.rs.dip = false) :
    (s.sweepOver p → s.palEnd p = s.sweepsAgain p [] (s.ctr6 0xA1210 1).w6) ∧
      (¬ s.sweepOver p → s.palEnd p = s.sweepsAgain p (p :: s.rs.passed) s.w6) := by
  have hend : s.palEnd p = (s.passEnds p).modPanel p fun n => { n with rpos := 0 } := by
    rw [State.palEnd, if_neg (Nat.not_lt.mpr h), hd]
    rfl
  rw [hend, ← State.sweepOver_iff]
  constructor
  · intro hall
    rw [State.passEnds, if_pos hall]
    rfl
  · intro hall
    rw [State.passEnds, if_neg hall]
    rfl

theorem State.Lands.sweepsAgain (h : s.Lands t p i) (l : List Nat) (w : SMap (BitVec 64)) : s.Lands (t.sweepsAgain p l w) p i := by
  have hp : (t.sweepsAgain p l w).panel p = { t.panel p with rpos := 0 } := State.panel_modPanel ..
  have hframe : CrossFrame t (t.sweepsAgain p l w) p := by
    simp only [CrossFrame, SameBase, SamePins, State.router, State.sweepsAgain]
    exact ⟨⟨rfl, rfl, rfl⟩, ⟨rfl, rfl⟩, rfl, rfl, rfl, rfl, rfl, rfl, rfl, rfl, rfl, fun _ _ => rfl,
      fun r hr => State.panel_modPanel_ne _ _ hr⟩
  obtain ⟨hcross, htr, hsent, hmem, hmgmt, htook, hbuf, hothers, hhtc⟩ := h
  refine ⟨hcross.trans hframe, htr, ?_, ?_, ?_, htook, hbuf, ?_, ?_⟩
  all_goals simpa only [Sent, OtherHtcs, hp]

end Sys2Proof.Machine
end

section
/-! Obligation O32: the Restorer's steps at a panel. A step that crosses is the panel's work (`State.restPx`) and what surrounds it; the
work on a set and on an empty Palette slot is known (`State.AgesSet`, `State.PassesSlot`), and what surrounds it does nothing more where
no error is found and no shared word is read. -/

namespace Sys2Proof.Machine

variable {s t : State} {p i : Nat} {q : RestIn} {es : Nat → Ent} {v : PSlot}

/-- A Restorer step whose request crosses now and finds nothing wrong (R421). -/
theorem State.restMove_clean (ha : s.crossesNow p) (hcalm : (s.panel p).calm) (hrec : (s.panel p).recount = none) (hcals : s.ep.cals = [])
    (hshare : s.sharer ≠ some p ∨ 544 + s.build.p ≤ (s.panel p).rpos)
    (hclean : ∀ i e, s.StepsClean p i (s.asked p e)) {kind : Bool → Nat → Bool} (hk : kind false (s.panel p).rpos = true) :
    ∃ u i e, (s.px p {}).freeHtc 2 = some i ∧ s.Leaves u p ∧ u.StepsClean p i (s.asked p e) ∧
      s.Lands (u.landed p i (s.asked p e)) p i ∧ s.restMove p kind {} =
        if s.build.sets ≤ (s.panel p).rpos then (u.landed p i (s.asked p e)).palEnd p else u.landed p i (s.asked p e) := by
  obtain ⟨i, hi⟩ := State.freeHtc_of_open ha.open
  obtain ⟨u, e, hrun, hl, hb⟩ := State.restMove_crosses ha hrec hk
  have hstep : u.StepsClean p i (s.asked p e) := (hclean i e).of_cross hl.frame (hl.panel p)
  have hu : (u.px p {}).freeHtc 2 = some i := (congrArg (fun n : Panel => smFree n.htcs 992 1024) (hl.panel p)).trans hi
  have hframe := hl.frame
  obtain ⟨⟨-, hbuild, -⟩, ⟨hclk, -⟩, -, -, -, -, hep, -⟩ := hframe
  have hsharer : u.sharer = s.sharer := State.sharer_eq hbuild hclk hl.dip hl.dipDone fun r => by rw [hl.panel r]
  refine ⟨u, i, e, hi, hl, hstep, hl.lands hb hstep, ?_⟩
  rw [hrun, ← hbuild]
  exact State.restStep_clean hstep hu (by rwa [hl.panel p] : (u.panel p).calm) rfl (congrArg Panel.rpos (hl.panel p)) (hep ▸ hcals)
    (by rw [hsharer, hbuild]; exact hshare)

/-- Where panel `p` stands once its step on a set has landed: the set's entries are aged (R422). -/
theorem State.AgesSet.landed (h : s.AgesSet p q es) (hl : s.Leaves u p) :
    (u.landed p i q).w6 = s.w6 ∧ ((u.landed p i q).panel p).pal = (s.panel p).pal ∧ ((u.landed p i q).panel p).rpos = q.pos + 1 ∧
      (u.landed p i q).rs.passed = s.rs.passed ∧
      ((u.landed p i q).panel p).dir = ageWays q.pos es (s.panel p).dir (List.range 16) := by
  have hstep : u.StepsClean p i q := h.clean.of_cross hl.frame (hl.panel p)
  obtain ⟨-, hrs, -, hw6, -, hp⟩ := hstep.landed_frame
  have hwork := h.restPx (i := i) (hl.frame.trans (u.crossing_cross p q.epoch)) (hl.panel p)
  refine ⟨hw6.trans hl.w6, ?_, by rw [hp, (hstep.crossing q.epoch).rpos], by rw [hrs, hl.passed], ?_⟩
  · rw [hp, hwork, ← hl.panel]
    rfl
  · rw [hp, hwork]
    rfl

/-- Where panel `p` stands once its step on an empty Palette slot has landed. -/
theorem State.PassesSlot.landed (h : s.PassesSlot p q v) (hl : s.Leaves u p) :
    (u.landed p i q).w6 = s.w6 ∧ SameArrays s (u.landed p i q) p ∧ ((u.landed p i q).panel p).rpos = q.pos + 1 ∧
      (u.landed p i q).rs.passed = s.rs.passed := by
  have hstep : u.StepsClean p i q := h.clean.of_cross hl.frame (hl.panel p)
  obtain ⟨-, hrs, -, hw6, -, hp⟩ := hstep.landed_frame
  have hwork := h.restPx (i := i) (hl.frame.trans (u.crossing_cross p q.epoch)) (hl.panel p)
  refine ⟨hw6.trans hl.w6, ?_, by rw [hp, (hstep.crossing q.epoch).rpos], by rw [hrs, hl.passed]⟩
  rw [SameArrays, hp, hwork, ← hl.panel]
  exact ⟨rfl, rfl⟩

/-- Where the panel cannot take its step's request yet, only that request is sent, with the root's epoch (R40, R153, R214). -/
theorem State.restAsk_keeps (hrec : (s.panel p).recount = none) (hask : s.stepAsk p = true) (hopen : s.mgmtOpen p = false)
    (h : s.restAsk p false (s.panel p).rpos {} = t) :
    CrossFrame s t p ∧ t.tr = s.tr ∧ t.w6 = s.w6 ∧ t.panels = s.panels ∧ p ∈ t.rs.took ∧
      t.net.rsMgt = s.net.rsMgt ++ [s.asked p (s.router 40).epoch] := by
  have hl := State.leaves_stepNote hrec (s.router 40).epoch
  have hnet : (s.stepNote p).net = s.net := by
    unfold State.stepNote
    split_ifs <;> rfl
  rw [State.restAsk_waits hopen] at h
  subst h
  refine ⟨hl.frame.trans ?_, hl.tr, hl.w6, hl.panels, hl.took hask, ?_⟩
  · simp [CrossFrame, SameBase, SamePins, State.router, State.panel]
  · rw [hnet]
    rfl

/-- The Palette's slots lie past the words that the panels share (R421). -/
theorem Build.ok.slot_unshared {b : Build} (h : b.ok) {pos : Nat} (hpos : b.sets ≤ pos) : 544 + b.p ≤ pos := by
  obtain ⟨hp, hsets, -⟩ := h
  unfold Build.sets at hpos
  omega

/-- A step on a Palette slot ends with the next slot due, or after the last one with the first set: there RS_PASS counts where the sweep
is over, and else panel `p` is among those that have ended it (R421). -/
theorem State.Lands.palEnd (h : s.Lands t p i) (hdip : t.rs.dip = false) (hw6 : t.w6 = s.w6) (hpassed : t.rs.passed = s.rs.passed)
    {pos last : Nat} (hpos : (t.panel p).rpos = pos + 1) (harr : SameArrays s t p) (hlast : s.build.sets + 4 * s.build.palSets = last) :
    s.Lands (t.palEnd p) p i ∧ SameArrays s (t.palEnd p) p ∧
      ((t.palEnd p).panel p).rpos = (if pos + 1 < last then pos + 1 else 0) ∧
      (pos + 1 < last → (t.palEnd p).w6 = s.w6 ∧ (t.palEnd p).rs.passed = s.rs.passed) ∧
      (pos + 1 = last → s.sweepOver p → (t.palEnd p).w6g 0xA1210 = ctrAdd (s.w6g 0xA1210) 1 ∧ (t.palEnd p).rs.passed = []) ∧
      (pos + 1 = last → ¬ s.sweepOver p → (t.palEnd p).w6 = s.w6 ∧ (t.palEnd p).rs.passed = p :: s.rs.passed) := by
  have hframe := h.frame
  obtain ⟨⟨-, hbuild, -⟩, ⟨hclk, -⟩, -⟩ := hframe
  by_cases hgo : pos + 1 < last
  · rw [State.palEnd_goes (by rw [hbuild, hpos, hlast]; exact hgo), if_pos hgo]
    exact ⟨h, harr, hpos, fun _ => ⟨hw6, hpassed⟩, fun he => absurd he hgo.ne, fun he => absurd he hgo.ne⟩
  · obtain ⟨hall, hsome⟩ := State.palEnd_ends (s := t) (p := p) (by rw [hbuild, hpos, hlast]; exact Nat.not_lt.mp hgo) hdip
    have hover : t.sweepOver p ↔ s.sweepOver p := by simp only [State.sweepOver, State.panelFrozen, hbuild, hclk, hpassed]
    obtain ⟨l, w, hend⟩ : ∃ l w, t.palEnd p = t.sweepsAgain p l w := by
      by_cases ho : t.sweepOver p
      · exact ⟨_, _, hall ho⟩
      · exact ⟨_, _, hsome ho⟩
    have hback : (t.palEnd p).panel p = { t.panel p with rpos := 0 } := by
      rw [hend]
      exact State.panel_modPanel ..
    refine ⟨hend ▸ h.sweepsAgain l w, ?_, by rw [hback, if_neg hgo], fun hlt => absurd hlt hgo, fun _ ho => ?_, fun _ ho => ?_⟩
    · rw [SameArrays, hback]
      exact harr
    · have hcount : t.w6g 0xA1210 = s.w6g 0xA1210 := by rw [State.w6g, State.w6g, hw6]
      rw [hall (hover.mpr ho)]
      refine ⟨?_, rfl⟩
      change (t.ctr6 0xA1210 1).w6g 0xA1210 = _
      rw [State.ctr6, State.w6g_w6s, hcount]
    · rw [hsome (mt hover.mp ho)]
      exact ⟨hw6, congrArg (p :: ·) hpassed⟩

end Sys2Proof.Machine

open Sys2Proof Sys2Proof.Machine

/-- Settles O32, by the request's way: where nothing is due or nothing can cross, the step does nothing or only sends its request; where the
request crosses, the step's work finds no error, and so it lands with no more done than that work, past a Palette slot also the end of
the pass. -/
theorem restorerStepsOfAPanel : Obligations.RestorerStepsOfAPanel := by
  intro s p hacts hok hcalm hrec pos last asked due stepped
  have hnext (t : State) := State.atPanel_of_acts hacts t
  have hlands {t : State} {i : Nat} (hi : (s.px p {}).freeHtc 2 = some i) (h : s.Lands t p i) : stepped t := by
    obtain ⟨hcross, htr, hsent, hmem, hmgmt, htook, hbuf, hothers, g, hhtc⟩ := h
    refine ⟨hcross, htr, hsent, hmem, hmgmt, fun hd => htook (Bool.and_eq_true_iff.mp hd).1, ?_, i, g, hi, hothers, hhtc⟩
    rcases hbuf with ⟨hw, hbuf⟩ | ⟨q, hw, hbuf⟩ <;> rw [hw] <;> exact hbuf
  refine ⟨fun hnone => ?_, fun hask hopen c hc => ?_, fun es hdue hcals hset hreads hmerges hsweep hshare hidle => ?_,
    fun v hdue hcals hdip hslot hlast hreads hempty => ?_⟩
  · constructor <;> exact (hnext _).trans (congrArg _ (State.restMove_none hnone _ _))
  · refine ⟨s.restAsk p false pos {}, ?_, State.restAsk_keeps hrec hask hopen rfl⟩
    rcases hc with ⟨hset, rfl⟩ | ⟨hslot, hlast, rfl⟩
    · exact (hnext _).trans (congrArg _ (State.restMove_asks hrec (decide_eq_true hset) hask _))
    · have hkind := Bool.and_eq_true_iff.mpr ⟨decide_eq_true hslot, decide_eq_true hlast⟩
      exact (hnext _).trans (congrArg _ (State.restMove_asks hrec hkind hask _))
  · have hages (e : Nat) : s.AgesSet p (s.asked p e) es := ⟨rfl, rfl, hset, hreads, hmerges, hsweep, hidle⟩
    obtain ⟨u, i, e, hi, hl, -, hland, hrun⟩ := State.restMove_clean hdue hcalm hrec hcals hshare (fun i e => (hages e).clean)
      (kind := fun _ pos => decide (pos < s.build.sets)) (decide_eq_true hset)
    obtain ⟨hw6, hpal, hrpos, hpassed, hdir⟩ := (hages e).landed hl (i := i)
    rw [if_neg (Nat.not_le.mpr hset)] at hrun
    refine ⟨_, (hnext _).trans (congrArg _ hrun), hlands hi hland, hw6, hpal, hrpos, hpassed, fun w hw => ?_, fun x hx => ?_⟩
    · rw [hdir]
      exact smFind_ageWays_mem _ List.nodup_range (List.mem_range.mpr hw) _
    · rw [hdir]
      refine smFind_ageWays_other _ (fun w hw he => hx ?_) _
      have := List.mem_range.mp hw
      simp only [wayIdx] at he
      change x / 16 = (s.panel p).rpos
      change x = (s.panel p).rpos * 16 + w at he
      omega
  · have hpass (e : Nat) : s.PassesSlot p (s.asked p e) v := ⟨rfl, rfl, hslot, hreads, hempty⟩
    obtain ⟨u, i, e, hi, hl, hstep, hland, hrun⟩ := State.restMove_clean hdue hcalm hrec hcals (.inr (hok.slot_unshared hslot))
      (fun i e => (hpass e).clean) (kind := fun recnt pos => !recnt && decide (s.build.sets ≤ pos) && decide (pos < last))
      (Bool.and_eq_true_iff.mpr ⟨decide_eq_true hslot, decide_eq_true hlast⟩)
    obtain ⟨hw6, harr, hrpos, hpassed⟩ := (hpass e).landed hl (i := i)
    have hd : (u.landed p i (s.asked p e)).rs.dip = false := by rw [hstep.landed_frame.2.1, hl.dip, hdip]
    rw [if_pos hslot] at hrun
    obtain ⟨hland, hends⟩ := hland.palEnd hd hw6 hpassed hrpos harr rfl
    exact ⟨_, (hnext _).trans (congrArg _ hrun), hlands hi hland, hends⟩
end

section
/-! SUPPORT. Combining entries of a router. -/

namespace Sys2Proof.Machine

variable {s : State} {r : Nat} {e : Comb}

/-- Steps that each leave a state as it is leave it so together. -/
theorem foldl_unchanged {α β : Type} {f : α → β → α} {a : α} {l : List β} (h : ∀ b ∈ l, f a b = a) : l.foldl f a = a := by
  induction l with
  | nil => rfl
  | cons b l ih =>
    rw [List.foldl_cons, h b List.mem_cons_self]
    exact ih fun c hc => h c (List.mem_cons_of_mem b hc)

/-- A sound combining entry is read as it stands. -/
theorem State.withComb_sound (f : State → Comb → State) (h : e.flaw = .ok) : s.withComb r e .ok f = f s e := by
  have hread : e.read .ok = .ok := by simp [Comb.read, h]
  obtain ⟨⟩ := e
  subst h
  simp [State.withComb, hread, State.bucket]

theorem State.combHas.find (h : s.combHas r e) : (s.router r).comb.find? (fun y => decide (y.htc = e.htc)) = some e := by
  obtain ⟨y, hy⟩ : ∃ y, (s.router r).comb.find? (fun y => decide (y.htc = e.htc)) = some y :=
    Option.isSome_iff_exists.1 (List.find?_isSome.2 ⟨e, h.1, by simp⟩)
  rw [hy, h.2 y (List.mem_of_find?_eq_some hy) (by simpa using List.find?_some hy)]

/-- An entry that has what its output needs goes out: its place is freed, its acknowledgement stands in the next queue. -/
theorem State.emit_q (h : s.hasCredit (upLoc r) (combPacket e).hdr.cls = true) :
    (s.emit r e).q (upLoc r) (combPacket e).hdr.cls =
      s.q (upLoc r) (combPacket e).hdr.cls ++ [{ combPacket e with capt := s.clk.cyc, skips := [] }] := by
  unfold State.emit
  simp only
  rw [if_pos h, State.q_push]; rfl

theorem State.emit_comb (h : s.hasCredit (upLoc r) (combPacket e).hdr.cls = true) :
    ((s.emit r e).router r).comb = (s.router r).comb.filter fun y => y.htc ≠ e.htc := by
  unfold State.emit
  simp only
  rw [if_pos h]
  simp [State.addEj, State.router, State.modRouter, State.push, State.setQ]

/-- Nothing is combined for an entry of which no acknowledgement stands at the head of an input (R198). -/
theorem State.combineHeads_unchanged {htc : Nat}
    (h : ∀ l ∈ s.combLocs r, ∀ c k, (s.q l c).head? = some k → ¬ (isAck k = true ∧ k.hdr.htc = htc)) : s.combineHeads r htc = s := by
  refine foldl_unchanged fun l hl => foldl_unchanged fun c _ => ?_
  split
  next k hk => exact if_neg (h l hl c k hk)
  next => rfl

end Sys2Proof.Machine
end

section
/-! Obligation O22: credits, flushes and epochs in the tree. -/

namespace Sys2Proof.Machine

variable {s : State} {r : Nat} {e : Comb}

/-! ### Credits -/

theorem State.creditBack_of_none {l : Loc} {key : Nat} (h : s.owed l key = 0) : s.creditBack l key = s := if_pos h

/-- A credit owed from a place that no combining entry waits for. -/
theorem State.creditBack_eq {l : Loc} {key : Nat} (h : 0 < s.owed l key) (hq : ∀ q, l ≠ .branchUp q) (hb : ∀ b, l ≠ .rootUp b) :
    s.creditBack l key = { s with net := { s.net with owed := smPut 0 s.net.owed (locKey l key) (s.owed l key - 1) } } := by
  unfold State.creditBack
  rw [if_neg (by omega)]
  cases l with
  | branchUp q => exact absurd rfl (hq q)
  | rootUp b => exact absurd rfl (hb b)
  | _ => exact if_pos rfl

/-! ### FLUSH_WAIT -/

/-- Before FLUSH_WAIT has passed the entry stays as it is (R198). -/
theorem State.combFlush_early (h : s.combHas r e) (hlt : s.clk.cyc < e.born + max 16 (s.router r).flushWait.toNat) :
    s.combFlush r e.htc = s := by
  have hnone : ¬ (s.router r).comb.any
      (fun y => decide (y.htc = e.htc) && decide (y.born + (s.router r).flushHclk ≤ s.clk.cyc)) = true := by
    rw [List.any_eq_true]
    rintro ⟨y, hy, hdue⟩
    rw [Bool.and_eq_true, decide_eq_true_eq, decide_eq_true_eq] at hdue
    obtain ⟨hhtc, hborn⟩ := hdue
    rw [h.2 y hy hhtc, Router.flushHclk] at hborn
    omega
  exact if_pos (.inr (.inr hnone))

/-- A sound entry whose FLUSH_WAIT has passed, and for which nothing stands captured at an input, ends with what it has (R198). -/
theorem State.combFlush_due (h : s.combHas r e) (hdue : e.born + max 16 (s.router r).flushWait.toNat ≤ s.clk.cyc) (hr : r < 40)
    (hidle : ∀ l ∈ s.combLocs r, ∀ c k, (s.q l c).head? = some k → ¬ (isAck k = true ∧ k.hdr.htc = e.htc)) (hflaw : e.flaw = .ok)
    (hfroz : s.routerFrozen r = false) :
    s.combFlush r e.htc =
      if e.sum = 0 then s.modRouter r fun x => { x with comb := x.comb.filter fun y => y.htc ≠ e.htc } else s.emit r e := by
  have hany : (s.router r).comb.any
      (fun y => decide (y.htc = e.htc) && decide (y.born + (s.router r).flushHclk ≤ s.clk.cyc)) = true :=
    List.any_eq_true.2 ⟨e, h.1, by simp [Router.flushHclk, hdue]⟩
  unfold State.combFlush
  simp only
  rw [if_neg (by simp only [hfroz, hany]; simpa using hr), State.combineHeads_unchanged hidle, h.find]
  simp only [hfroz, Bool.false_eq_true, if_false]
  exact State.withComb_sound _ hflaw

theorem execCombineFlush_live (hl : s.live) (hr : s.build.hasRouter r = true) (htc : Nat) :
    exec (.combineFlush r htc) s = .next (s.combFlush r htc) := by
  change Host.Outcome.next (if s.build.hasRouter r then s.whenLive fun s => s.combFlush r htc else s) = _
  rw [if_pos hr, State.whenLive_of_open s _ hl.1 hl.2]

/-! ### Epochs -/

/-- A router takes the root's epoch as its capture is due (R215). -/
theorem execEpochCaptured_live (hl : s.live) (hr : s.build.hasRouter r = true) {c : Nat} (hc : (s.router r).flipAt = some c) :
    exec (.epochCaptured r) s =
      .next (if c ≤ s.clk.cyc then s.modRouter r fun x => { x with epoch := (s.router 40).epoch, flipAt := none } else s) := by
  change Host.Outcome.next (if ¬ s.build.hasRouter r then s else s.whenLive _) = _
  rw [if_neg (by simpa using hr), State.whenLive_of_open s _ hl.1 hl.2, hc]

theorem execCreditReturned_live {l : Loc} (hl : s.live) (hloc : s.hasLoc l = true) (key : Nat) :
    exec (.creditReturned l key) s = .next (s.creditBack l key) := by
  change Host.Outcome.next (if s.hasLoc l then s.whenLive fun s => s.creditBack l key else s) = _
  rw [if_pos hloc, State.whenLive_of_open s _ hl.1 hl.2]

end Sys2Proof.Machine

open Sys2Proof Sys2Proof.Machine

/-- Settles O22: an owed credit is given back (`State.creditBack_eq`), an entry ends at its FLUSH_WAIT and not before
(`State.combFlush_due`, `State.combFlush_early`), and a router takes the root's epoch at its time. -/
theorem creditsFlushesAndEpochs : Obligations.CreditsFlushesAndEpochs := by
  intro s hl idle
  refine ⟨fun l key hloc hz => ?_, fun l key hloc hpos hq hb => ?_, fun r e hr he hlt => ?_, fun r e hr he hdue hr40 hidle hok hfroz hz => ?_,
    fun b e hb hr he hidle hdue hfroz hpos hmgt hok hcr => ?_, fun r c hr hc hle => ?_, fun r c hr hc hlt => ?_⟩
  · rw [execCreditReturned_live hl hloc, State.creditBack_of_none hz]
  · have hrun := execCreditReturned_live hl hloc key
    rw [State.creditBack_eq hpos hq hb] at hrun
    exact ⟨_, hrun, smGet_smPut_self .., rfl, rfl, rfl, ⟨rfl, rfl, rfl⟩, ⟨rfl, rfl⟩, fun l' key' hne => smGet_smPut_ne _ _ _ _ hne⟩
  · rw [execCombineFlush_live hl hr, State.combFlush_early he hlt]
  · have hrun := execCombineFlush_live hl hr e.htc
    rw [State.combFlush_due he hdue hr40 hidle hok hfroz, if_pos hz] at hrun
    exact ⟨_, hrun, rfl, rfl, ⟨rfl, rfl, rfl⟩, ⟨rfl, rfl⟩, fun q hne => State.router_modRouter_ne _ _ hne,
      congrArg Router.comb (State.router_modRouter ..)⟩
  · have hrun := execCombineFlush_live hl hr e.htc
    rw [State.combFlush_due he hdue (by omega) hidle hok hfroz, if_neg (by omega)] at hrun
    have hcls : (combPacket e).hdr.cls = cRSP := by simp [combPacket, hmgt]
    have hloc : upLoc (32 + b) = .rootUp b := by rw [upLoc, if_neg (by omega), Nat.add_sub_cancel_left]
    have hcredit : s.hasCredit (upLoc (32 + b)) (combPacket e).hdr.cls = true := by rwa [hcls, hloc]
    have hq := State.emit_q hcredit
    rw [hcls, hloc] at hq
    refine ⟨_, _, hrun, hq, by simp [combPacket, hmgt], rfl, rfl, rfl, fun y hy => ?_⟩
    rw [State.emit_comb hcredit, List.mem_filter] at hy
    simpa using hy.2
  · have hrun := execEpochCaptured_live hl hr hc
    rw [if_pos hle] at hrun
    exact ⟨_, hrun, by rw [State.router_modRouter], by rw [State.router_modRouter],
      fun q hne => State.router_modRouter_ne _ _ hne, rfl, rfl, ⟨rfl, rfl, rfl⟩, ⟨rfl, rfl⟩⟩
  · rw [execEpochCaptured_live hl hr hc, if_neg (by omega)]
end

section
/-! Obligation O55: a frame boundary swaps tables. -/

namespace Sys2Proof.Machine

/-! ### Slot words -/

/-- Copying slot words changes nothing but the words of space 0x6. -/
theorem foldl_copy_eq (d e : Nat → Nat) (l : List Nat) (s : State) :
    ∃ x, l.foldl (fun (s : State) i => s.w6s (d i) (s.w6g (e i))) s = { s with w6 := x } := by
  induction l generalizing s with
  | nil => exact ⟨_, rfl⟩
  | cons i l ih => exact ih (s.w6s (d i) (s.w6g (e i)))

theorem State.swapTables_eq (bs : List Nat) (s : State) : ∃ x, bs.foldl State.swapTable s = { s with w6 := x } := by
  induction bs generalizing s with
  | nil => exact ⟨_, rfl⟩
  | cons b bs ih =>
    obtain ⟨x, hx⟩ := foldl_copy_eq (fun i => b + 0x400 + 8 * i) (fun i => b + 0x200 + 8 * i) (List.range 64) s
    rw [List.foldl_cons, State.swapTable, hx]
    exact ih _

/-- What the words of space 0x6 are once the first `n` shadow slots of a table have been copied. -/
theorem State.w6g_copy (b : Nat) (s : State) {n off : Nat} (hn : n ≤ 64) :
    let t := (List.range n).foldl (fun (s : State) i => s.w6s (b + 0x400 + 8 * i) (s.w6g (b + 0x200 + 8 * i))) s
    ((∀ i, i < n → off ≠ b + 0x400 + 8 * i) → t.w6g off = s.w6g off) ∧
      ∀ i, i < n → t.w6g (b + 0x400 + 8 * i) = s.w6g (b + 0x200 + 8 * i) := by
  induction n generalizing off with
  | zero => exact ⟨fun _ => rfl, fun i hi => absurd hi (by omega)⟩
  | succ n ih =>
    simp only [List.range_succ, List.foldl_append, List.foldl_cons, List.foldl_nil]
    refine ⟨fun hoff => ?_, fun i hi => ?_⟩
    · rw [State.w6g_w6s_ne _ _ (hoff n (by omega))]
      exact (ih (by omega)).1 fun i hi => hoff i (by omega)
    · by_cases h : i = n
      · subst h
        rw [State.w6g_w6s]
        exact (ih (by omega)).1 fun j hj => by omega
      · rw [State.w6g_w6s_ne _ _ (by omega)]
        exact (ih (off := off) (by omega)).2 i (by omega)

/-- Tables stand at multiples of 0x800: those of the list take their shadows, and no shadow slot changes (R212). -/
theorem State.w6g_swapTables {bs : List Nat} (hbs : ∀ b ∈ bs, 0x800 ∣ b) {c i : Nat} (hc : 0x800 ∣ c) (hi : i < 64) (s : State) :
    let t := bs.foldl State.swapTable s
    t.w6g (c + 0x200 + 8 * i) = s.w6g (c + 0x200 + 8 * i) ∧
      t.w6g (c + 0x400 + 8 * i) = if c ∈ bs then s.w6g (c + 0x200 + 8 * i) else s.w6g (c + 0x400 + 8 * i) := by
  induction bs generalizing s with
  | nil => exact ⟨rfl, rfl⟩
  | cons b bs ih =>
    have hb : 0x800 ∣ b := hbs b List.mem_cons_self
    obtain ⟨hshadow, hactive⟩ := ih (fun d hd => hbs d (List.mem_cons_of_mem b hd)) (s.swapTable b)
    have hkeep : (s.swapTable b).w6g (c + 0x200 + 8 * i) = s.w6g (c + 0x200 + 8 * i) :=
      (State.w6g_copy b s le_rfl).1 fun j hj => by omega
    rw [List.foldl_cons]
    refine ⟨hshadow.trans hkeep, hactive.trans ?_⟩
    rw [hkeep]
    by_cases hcb : c = b
    · subst hcb
      rw [if_pos List.mem_cons_self]
      split
      · rfl
      · exact (State.w6g_copy (off := 0) c s le_rfl).2 i hi
    · rw [show (s.swapTable b).w6g (c + 0x400 + 8 * i) = s.w6g (c + 0x400 + 8 * i) from
        (State.w6g_copy b s le_rfl).1 fun j hj => by omega]
      simp [hcb]

/-! ### The tables that a TSWAP names -/

/-- The bases of the tables that a mask names. -/
def swapNamed (mask : Nat) : List Nat := (swapBases mask).map (·.2)

theorem mem_swapNamed (mask c : Nat) : c ∈ swapNamed mask ↔
    (∃ p, p < 16 ∧ mask.testBit p = true ∧ 0x90000 + 0x1000 * p = c) ∨
      ∃ m, m < 8 ∧ mask.testBit (16 + m) = true ∧ 0x80000 + 0x800 * m = c := by
  simp [swapNamed, swapBases, pnBase, mpBase, bitN, and_assoc]

theorem swapNamed_dvd (mask : Nat) : ∀ b ∈ swapNamed mask, 0x800 ∣ b := by
  intro b hb
  rcases (mem_swapNamed mask b).1 hb with ⟨p, -, -, rfl⟩ | ⟨m, -, -, rfl⟩ <;> omega

theorem panel_mem_swapNamed {p : Nat} (hp : p < 16) (mask : Nat) :
    0x90000 + 0x1000 * p ∈ swapNamed mask ↔ mask.testBit p = true := by
  rw [mem_swapNamed]
  refine ⟨?_, fun h => .inl ⟨p, hp, h, rfl⟩⟩
  rintro (⟨q, -, hq, h⟩ | ⟨m, hm, -, h⟩)
  · rwa [show p = q by omega]
  · omega

theorem port_mem_swapNamed {m : Nat} (hm : m < 8) (mask : Nat) :
    0x80000 + 0x800 * m ∈ swapNamed mask ↔ mask.testBit (16 + m) = true := by
  rw [mem_swapNamed]
  refine ⟨?_, fun h => .inr ⟨m, hm, h, rfl⟩⟩
  rintro (⟨q, -, -, h⟩ | ⟨k, -, hk, h⟩)
  · omega
  · rwa [show m = k by omega]

/-! ### The boundary -/

/-- The TSWAPs that wait for a boundary. -/
def State.dueSwaps (s : State) : List MOp := s.ez.ops.filter fun o => decide (o.opc = 0x30) && o.started && o.status.isNone

/-- Where no shadow store waits, the tables that the waiting TSWAPs name are swapped, and they end (R212). -/
theorem State.frameBoundary_eq {s : State} (hheld : s.ez.tswap = []) :
    s.frameBoundary =
      let t := (s.dueSwaps.flatMap fun o => swapNamed (o.word 0)).foldl State.swapTable s
      { t with ez := { s.ez with
        tswap := [],
        ops := s.ez.ops.map fun o => if o.opc = 0x30 ∧ o.started ∧ o.status = none then { o with status := some 1 } else o } } := by
  have hfold : s.dueSwaps.foldl (fun (s : State) o => (swapBases (o.word 0)).foldl (fun (s : State) e => s.swapTable e.2) s) s =
      (s.dueSwaps.flatMap fun o => swapNamed (o.word 0)).foldl State.swapTable s := by
    simp only [List.foldl_flatMap, swapNamed, List.foldl_map]
  obtain ⟨x, hx⟩ := State.swapTables_eq (s.dueSwaps.flatMap fun o => swapNamed (o.word 0)) s
  have hdue : s.frameBoundary =
      let t := s.dueSwaps.foldl (fun (s : State) o => (swapBases (o.word 0)).foldl (fun (s : State) e => s.swapTable e.2) s) s
      t.ez.tswap.foldl (fun (s : State) e => s.w6s e.1 (BitVec.ofNat 64 e.2)) { t with ez := { t.ez with
        tswap := [],
        ops := t.ez.ops.map fun o => if o.opc = 0x30 ∧ o.started ∧ o.status = none then { o with status := some 1 } else o } } := rfl
  rw [hdue, hfold]
  simp only [hx, hheld, List.foldl_nil]

theorem State.ezIssue_w6 (s : State) (r : Nat) (u : MemUse) (m pa w z : Nat) (d : BitVec 512) (n : Nat) :
    (s.ezIssue r u m pa w z d n).w6 = s.w6 := by
  unfold State.ezIssue
  split <;> rfl

theorem State.ringError_w6 (s : State) (n : Nat) : (s.ringError n).w6 = s.w6 := by
  unfold State.ringError
  split <;> rfl

theorem State.ezFinish_w6 (s : State) (n : Nat) (i b : Bool) : (s.ezFinish n i b).w6 = s.w6 := by
  have hbad : (if b then s.ringError n else s).w6 = s.w6 := by
    split
    · exact State.ringError_w6 s n
    · rfl
  unfold State.ezFinish
  simp only
  split
  · split <;> exact hbad
  · exact hbad

theorem State.ezFault_w6 (s : State) (n f : Nat) : (s.ezFault n f).w6 = s.w6 := by
  unfold State.ezFault State.endProgram State.descWrite
  simp only
  split
  · exact State.ezFinish_w6 ..
  · exact State.ezIssue_w6 ..

/-- The Easel's next step writes no word of space 0x6 but the counter of uncorrectable words of its local store. -/
theorem State.w6g_ezBegin (s : State) {off : Nat} (h : off ≠ 0xA1058) : s.ezBegin.w6g off = s.w6g off := by
  have hw6 {t u : State} (e : t.w6 = u.w6) : t.w6g off = u.w6g off := by rw [State.w6g, State.w6g, e]
  unfold State.ezBegin
  split
  · rfl
  split
  · rfl
  split
  · rfl
  next r _ _ _ c _ =>
    rw [hw6 (State.ezFault_w6 ..)]
    split
    · exact State.w6g_w6s_ne (s.ezClaim r) _ h
    · rfl
  · exact hw6 (State.ezIssue_w6 ..)

end Sys2Proof.Machine

open Sys2Proof Sys2Proof.Machine

/-- Settles O55: the waiting TSWAP is one (`State.frameBoundary_eq`), the tables it names take their shadows (`State.w6g_swapTables`), and
the Easel's next fetch writes no slot word (`State.w6g_ezBegin`). -/
theorem frameBoundarySwapsTables : Obligations.FrameBoundarySwapsTables := by
  intro s o hl hheld hmem hopc hstarted hstatus hone
  have hnext : exec .slotFrameBoundary s = .next (if s.clk.cyc % 64 = 0 then s.frameBoundary.ezBegin else s) :=
    State.atEasel_of_live hl _
  refine ⟨fun hcyc => ?_, fun hcyc => by rw [hnext, if_neg hcyc]⟩
  rw [if_pos hcyc] at hnext
  have hdue (c : Nat) : c ∈ (s.dueSwaps.flatMap fun o => swapNamed (o.word 0)) ↔ c ∈ swapNamed (o.word 0) := by
    rw [List.mem_flatMap]
    constructor
    · rintro ⟨q, hq, hc⟩
      simp only [State.dueSwaps, List.mem_filter, Bool.and_eq_true, decide_eq_true_eq] at hq
      rwa [← hone q hq.1 hq.2.1.1]
    · exact fun hc => ⟨o, by simp [State.dueSwaps, hmem, hopc, hstarted, hstatus], hc⟩
  have hdvd : ∀ b ∈ s.dueSwaps.flatMap fun o => swapNamed (o.word 0), 0x800 ∣ b :=
    fun b hb => swapNamed_dvd _ b ((hdue b).1 hb)
  have hwords := fun {c i : Nat} (hc : 0x800 ∣ c) (hi : i < 64) => State.w6g_swapTables hdvd hc hi s
  have hkept := EzKept.ezBegin s.frameBoundary
  have hw6 {off : Nat} (h : off ≠ 0xA1058) : s.frameBoundary.ezBegin.w6g off =
      ((s.dueSwaps.flatMap fun o => swapNamed (o.word 0)).foldl State.swapTable s).w6g off := by
    rw [State.w6g_ezBegin _ h, State.frameBoundary_eq hheld]; rfl
  obtain ⟨x, hx⟩ := State.swapTables_eq (s.dueSwaps.flatMap fun o => swapNamed (o.word 0)) s
  have heq := State.frameBoundary_eq hheld
  simp only [hx] at heq
  obtain ⟨⟨hbase, hpins, htree, hhomes, -, -, -, -, hops⟩, -, hregs⟩ := hkept
  rw [heq] at hbase hpins htree hhomes hops hregs
  rw [heq] at hnext hw6
  refine ⟨_, hnext, hbase, hpins, htree, hhomes, hregs, ?_, fun p i hp hi => ?_, fun m i hm hi => ?_, fun p i hp hi => ?_⟩
  · rw [hops]
    exact List.mem_map.2 ⟨o, hmem, by simp [hopc, hstarted, hstatus]⟩
  · rw [hw6 (by omega), (hwords (by omega) hi).2]
    simp only [hdue, panel_mem_swapNamed hp]
  · rw [hw6 (by omega), (hwords (by omega) hi).2]
    simp only [hdue, port_mem_swapNamed hm]
  · rw [hw6 (by omega), (hwords (by omega) hi).1]
end

section
/-! SUPPORT. Register stores of a ring: the word of a space that a store reaches, and that a secure ring may store it. -/

namespace Sys2Proof.Machine

variable {s : State} {b : Build} {ring : Nat}

/-! ### Blocks of space 0x6 -/

theorem Build.blk6_slot {n r : Nat} (hn : n < 256) (hr : r < 0x100) (h8 : r % 8 = 0) :
    b.blk6 (0x100 * n + r) = if n < b.slots then .ps n r else .absent := by
  unfold Build.blk6
  rw [if_neg (by omega), if_pos (by omega), show (0x100 * n + r) / 0x100 = n by omega, show (0x100 * n + r) % 0x100 = r by omega]

theorem Build.blk6_router {r o : Nat} (hr : r < 41) (ho : o < 0x2000) (h8 : o % 8 = 0) :
    b.blk6 (rtBase r + o) = if b.hasRouter r then .rt r o else .absent := by
  unfold Build.blk6 rtBase
  simp only
  rw [if_neg (by omega), if_neg (by omega), if_pos (by omega),
    show (0x10000 + 0x2000 * r + o - 0x10000) / 0x2000 = r by omega, show (0x10000 + 0x2000 * r + o) % 0x2000 = o by omega]

theorem Build.blk6_panel {p o : Nat} (hp : p < 16) (ho : o < 0x1000) (h8 : o % 8 = 0) :
    b.blk6 (pnBase p + o) = if p < b.panels then .pn p o else .absent := by
  unfold Build.blk6 pnBase
  simp only
  rw [if_neg (by omega), if_neg (by omega), if_neg (by omega), if_neg (by omega), if_pos (by omega),
    show (0x90000 + 0x1000 * p + o - 0x90000) / 0x1000 = p by omega, show (0x90000 + 0x1000 * p + o) % 0x1000 = o by omega]

/-- A build of at most four panel bits has at most 16 panels. -/
theorem Build.panels_le (h : b.p ≤ 4) : b.panels ≤ 16 := (Nat.pow_le_pow_right (by omega) h : 2 ^ b.p ≤ 2 ^ 4)

/-! ### A secure ring's store -/

/-- A store to a space that no panel serves as a management request waits for none. -/
theorem State.storeWaits_of_noPanels {sp : Nat} (h1 : sp ≠ 1) (h2 : sp ≠ 2) (off : Nat) : s.storeWaits ring sp off = false := by
  simp [State.storeWaits, State.storePanels, h1, h2]

theorem State.regStore_live (hl : s.live) (hr : ring < 8) (sp off : Nat) (v : BitVec 64) :
    s.regStore ring sp off v = .next (if s.storeWaits ring sp off then s else s.spaceStore ring sp off v) := by
  unfold State.regStore State.atRing
  rw [if_pos (by omega), State.whenLive_of_open s _ hl.1 hl.2]

/-- A secure store to a word of space 0x6 that no lock holds. -/
theorem State.regStore_six (hl : s.live) (hr : ring < 8) {off : Nat} (hk : s.locked6 off = false) (v : BitVec 64) :
    s.regStore ring 6 off v = .next (s.store6 off v) := by
  rw [State.regStore_live hl hr, State.storeWaits_of_noPanels (by decide) (by decide)]
  simp [State.spaceStore, hr, hk]

theorem State.regStore_four (hl : s.live) (hr : ring < 8) (off : Nat) (v : BitVec 64) :
    s.regStore ring 4 off v = .next (s.store4 off v) := by
  rw [State.regStore_live hl hr, State.storeWaits_of_noPanels (by decide) (by decide)]
  simp [State.spaceStore, hr]

/-- A store to a port-status block, which the build has or lacks (R357). -/
theorem State.regStore_slot (hl : s.live) (hr : ring < 8) {n r : Nat} (hn : n < 256) (h : r < 0x100) (h8 : r % 8 = 0) (v : BitVec 64) :
    s.regStore ring 6 (0x100 * n + r) v = .next (if n < s.build.slots then s.psStore n r v else s) := by
  have hblk := Build.blk6_slot (b := s.build) hn h h8
  by_cases hslot : n < s.build.slots
  · rw [if_pos hslot] at hblk ⊢
    rw [State.regStore_six hl hr (by rw [State.locked6, hblk]), State.store6, hblk]
  · rw [if_neg hslot] at hblk ⊢
    rw [State.regStore_six hl hr (by rw [State.locked6, hblk]), State.store6, hblk]

theorem State.regStore_router (hl : s.live) (hr : ring < 8) {r o : Nat} (hn : r < 41) (h : o < 0x2000) (h8 : o % 8 = 0)
    (v : BitVec 64) : s.regStore ring 6 (rtBase r + o) v = .next (if s.build.hasRouter r then s.rtStore r o v else s) := by
  have hblk := Build.blk6_router (b := s.build) hn h h8
  by_cases hhas : s.build.hasRouter r = true
  · rw [if_pos hhas] at hblk ⊢
    rw [State.regStore_six hl hr (by rw [State.locked6, hblk]), State.store6, hblk]
  · rw [if_neg hhas] at hblk ⊢
    rw [State.regStore_six hl hr (by rw [State.locked6, hblk]), State.store6, hblk]

/-- A store to a panel's control block outside its shadow slots. -/
theorem State.regStore_panel (hl : s.live) (hr : ring < 8) {p o : Nat} (hp : p < 16) (hlo : 0x400 ≤ o) (h : o < 0x1000) (h8 : o % 8 = 0)
    (v : BitVec 64) : s.regStore ring 6 (pnBase p + o) v = .next (if p < s.build.panels then s.pnStore p o v else s) := by
  have hblk := Build.blk6_panel (b := s.build) hp h h8
  have hlo' : ¬ o < 0x400 := by omega
  by_cases hpanel : p < s.build.panels
  · rw [if_pos hpanel] at hblk ⊢
    rw [State.regStore_six hl hr (by simp [State.locked6, hblk, hlo']), State.store6, hblk]
  · rw [if_neg hpanel] at hblk ⊢
    rw [State.regStore_six hl hr (by rw [State.locked6, hblk]), State.store6, hblk]

end Sys2Proof.Machine
end

section
/-! Obligation O59: stores of port, deadline, counter and window registers. -/

namespace Sys2Proof.Machine

variable {s : State} {ring : Nat}

theorem StoreFrame.refl (s : State) : StoreFrame s s := ⟨⟨rfl, rfl, rfl⟩, ⟨rfl, rfl⟩, rfl, rfl, rfl, rfl, rfl, rfl, rfl, rfl⟩

theorem SameHomes.refl (s : State) : SameHomes s s := ⟨rfl, rfl, rfl⟩

/-! ### One port changed -/

/-- Port `n` has become `x`, and nothing else has changed. -/
def PortBecomes (s t : State) (n : Nat) (x : Port) : Prop := (∃ m, t = { s with ports := m }) ∧ t.port n = x ∧ OtherPorts s t n

theorem PortBecomes.setPort (s : State) (n : Nat) (x : Port) : PortBecomes s (s.setPort n x) n x :=
  ⟨⟨_, rfl⟩, State.port_setPort .., fun _ h => State.port_setPort_ne _ _ h⟩

theorem PortBecomes.trans {s t u : State} {n : Nat} {x y : Port} (h : PortBecomes s t n x) (k : PortBecomes t u n y) :
    PortBecomes s u n y := by
  obtain ⟨⟨a, rfl⟩, -, hs⟩ := h
  obtain ⟨⟨b, rfl⟩, hy, ht⟩ := k
  exact ⟨⟨b, rfl⟩, hy, fun m hm => (ht m hm).trans (hs m hm)⟩

/-! ### PRIO -/

/-- No REQ of the port waits, and every one under way has had its response (R205). -/
def State.prioFree (s : State) (n : Nat) : Prop :=
  (∀ e ∈ (s.port n).reqs, e.resp = true) ∧ s.q (.leafUp n) cREQ = [] ∧ ∀ f ∈ (s.port n).upq, f.chan ≠ cREQ

theorem State.settlePrio_free {n v : Nat} (hp : (s.port n).prioPend = some v) (h : s.prioFree n) :
    s.settlePrio n = s.setPort n { s.port n with prio := v, prioPend := none } := by
  obtain ⟨hreqs, hq, hupq⟩ := h
  simp only [State.settlePrio, hp]
  exact if_pos (by simpa [hq] using And.intro hreqs hupq)

theorem State.settlePrio_busy {n v : Nat} (hp : (s.port n).prioPend = some v) (h : ¬ s.prioFree n) : s.settlePrio n = s := by
  simp only [State.settlePrio, hp]
  refine if_neg fun hcond => h ?_
  simpa [State.prioFree, and_assoc] using hcond

/-- A port as a store of PRIO `v` leaves it (R202, R205). -/
def State.prioStored (s : State) (n v : Nat) (free : Bool) : Port :=
  let w := if v = 0 then 1 else v
  let x := s.port n
  if w = x.prio then { x with prioPend := none }
  else if (w = 1 ∨ x.prio = 1) ∧ free = false then { x with prioPend := some w }
  else { x with prio := w, prioPend := none }

/-- A store of PRIO changes the port, at once or when its REQs have had their responses (R202, R205). -/
theorem State.setPrio_becomes (s : State) (n v : Nat) [Decidable (s.prioFree n)] :
    PortBecomes s (s.setPrio n v) n (s.prioStored n v (decide (s.prioFree n))) := by
  unfold State.setPrio State.prioStored
  simp only
  generalize (if v = 0 then 1 else v) = w
  by_cases heq : w = (s.port n).prio
  · rw [if_pos heq, if_pos heq]
    exact .setPort ..
  rw [if_neg heq, if_neg heq]
  by_cases hone : w = 1 ∨ (s.port n).prio = 1
  · rw [if_pos hone]
    let u := s.setPort n { s.port n with prioPend := some w }
    have hu : u.port n = { s.port n with prioPend := some w } := State.port_setPort ..
    have hiff : u.prioFree n ↔ s.prioFree n := by simp only [State.prioFree, hu]; rfl
    by_cases hfree : s.prioFree n
    · rw [if_neg (by simp [hfree]), State.settlePrio_free (s := u) (by rw [hu]) (hiff.2 hfree), hu]
      exact .trans (.setPort ..) (.setPort ..)
    · rw [if_pos ⟨hone, by simp [hfree]⟩, State.settlePrio_busy (s := u) (by rw [hu]) (fun h => hfree (hiff.1 h))]
      exact .setPort ..
  · rw [if_neg hone, if_neg fun h => hone h.1]
    exact .setPort ..

/-! ### Space 0x4 -/

/-- A word of 48 writable bits. -/
theorem toNat_and_mask48 (v : BitVec 64) : (v &&& 0xFFFFFFFFFFFF#64).toNat = v.toNat % 2 ^ 48 := by
  rw [BitVec.toNat_and]
  exact Nat.and_two_pow_sub_one_eq_mod v.toNat 48

/-- A store to a counter of a panel that the build has (R497). -/
theorem State.store4_counter {p i : Nat} (hp : p < 16) (hb : p < s.build.panels) (hi : i < 8) (v : BitVec 64) :
    s.store4 (0x100 * p + 0x80 + 8 * i) v =
      (s.dropEvents (0x100 * p + 0x80 + 8 * i)).w4s (0x100 * p + 0x80 + 8 * i) (v &&& 0xFFFFFFFFFFFF#64) := by
  have hr : (0x100 * p + 0x80 + 8 * i) % 0x100 = 0x80 + 8 * i := by omega
  have hmask : mask4 (0x100 * p + 0x80 + 8 * i) = some 0xFFFFFFFFFFFF := by
    unfold mask4
    simp only [hr]
    rw [if_neg (by omega), if_pos (by omega), if_neg (by omega), if_neg (by omega), if_neg (by omega), if_pos (by omega)]
  have hhas : s.build.has4 (0x100 * p + 0x80 + 8 * i) = true := by
    unfold Build.has4
    rw [if_pos (by omega), decide_eq_true_eq]
    omega
  have hlow : 0x100 * p + 0x80 + 8 * i < 0x1000 := by omega
  simp [State.store4, hmask, hhas, hr, hlow, show ¬ 0x80 + 8 * i = 0x10 by omega, show ¬ 0x80 + 8 * i < 0x80 by omega,
    show 0x80 + 8 * i < 0xC0 by omega, show ¬ 0x1000 ≤ 0x100 * p + 0x80 + 8 * i by omega]

/-- A store to a port's bandwidth window: its control abandons the window, its maxima are compared (R505). -/
theorem State.store4_window {n r : Nat} (hn : n < 256) (hb : n < s.build.slots) (v : BitVec 64) :
    s.store4 (0x1000 + 0x40 * n) v = (s.w4s (0x1000 + 0x40 * n) (v &&& 0x3F#64)).modPort n (fun x => { x with winUp := 0, winDn := 0 }) ∧
    (r = 0x18 ∨ r = 0x20 → s.store4 (0x1000 + 0x40 * n + r) v =
      s.w4s (0x1000 + 0x40 * n + r) (s.storeMax (0x1000 + 0x40 * n + r) (v &&& 0xFFFFFFFFFFFF#64))) := by
  have hhas {o : Nat} (ho : o < 0x40) : s.build.has4 (0x1000 + 0x40 * n + o) = true := by
    unfold Build.has4
    rw [if_neg (by omega), if_pos (by omega), decide_eq_true_eq]
    omega
  constructor
  · have hmask : mask4 (0x1000 + 0x40 * n) = some 0x3F := by
      unfold mask4
      simp only
      rw [if_neg (by omega), if_neg (by omega), if_pos (by omega), if_pos (by omega)]
    have h0 : s.build.has4 (0x1000 + 0x40 * n) = true := hhas (o := 0) (by omega)
    have hdrop (t : State) : t.dropWindow (0x1000 + 0x40 * n) = t.modPort n fun x => { x with winUp := 0, winDn := 0 } := by
      unfold State.dropWindow
      rw [if_pos (by omega), show (0x1000 + 0x40 * n - 0x1000) / 0x40 = n by omega]
    simp [State.store4, hmask, h0, hdrop, show ¬ 0x1000 + 0x40 * n < 0x1000 by omega, show 0x1000 + 0x40 * n < 0x5200 by omega,
      show (0x1000 + 0x40 * n) % 0x40 = 0 by omega]
  · intro hr
    have hmask : mask4 (0x1000 + 0x40 * n + r) = some 0xFFFFFFFFFFFF := by
      unfold mask4
      simp only
      rw [if_neg (by omega), if_neg (by omega), if_pos (by omega), if_neg (by omega), if_pos (by omega)]
    simp [State.store4, hmask, hhas (o := r) (by omega), show ¬ 0x1000 + 0x40 * n + r < 0x1000 by omega,
      show 0x1000 ≤ 0x1000 + 0x40 * n + r by omega, show 0x1000 + 0x40 * n + r < 0x5200 by omega,
      show ¬ (0x1000 + 0x40 * n + r) % 0x40 = 0 by omega]

end Sys2Proof.Machine

open Sys2Proof Sys2Proof.Machine

/-- Settles O59: a store of PRIO waits or acts (`State.setPrio_becomes`), a counter's store discards its events (`State.store4_counter`), a
window's is compared with a window that has ended (`State.store4_window`), and one to what the build lacks finds no block. -/
theorem controlRegisterStores : Obligations.ControlRegisterStores := by
  intro ring v s hl hr hp
  have hpanels := Build.panels_le hp
  have hslot {n o : Nat} (hn : n < 256) (ho : o < 0x100) (h8 : o % 8 = 0) := State.regStore_slot (v := v) hl hr hn ho h8
  refine ⟨fun n hb hn => ?_, fun n hb hn => ?_, fun n hb => ?_, fun p g hb => ?_, fun p g hb hg => ?_, fun p i hb hi => ?_,
    fun p hb => ?_, fun n hb hn => ?_, fun n hb hn => ?_⟩
  · classical
    have hrun : exec (.psPrioWrite ring n v) s = .next (s.setPrio n (v.toNat % 4)) := by
      refine (if_pos hn).trans ((hslot hn (by decide) (by decide)).trans ?_)
      rw [if_pos hb]; rfl
    obtain ⟨⟨m, hm⟩, hport, hother⟩ := s.setPrio_becomes n (v.toNat % 4)
    have hframe : StoreFrame s (s.setPrio n (v.toNat % 4)) := by rw [hm]; exact .refl s
    have hhomes : SameHomes s (s.setPrio n (v.toNat % 4)) := by rw [hm]; exact .refl s
    refine ⟨_, hrun, hframe, hhomes, hother, fun h => ?_, fun h h1 h2 => ?_, fun h h1 hidle => ?_, fun h h1 hbusy => ?_⟩ <;>
      rw [hport] <;> simp only [State.prioStored]
    · rw [if_pos h]
    · rw [if_neg h, if_neg (by simp [h1, h2])]
    · rw [if_neg h, if_neg fun hheld => of_decide_eq_false (p := s.prioFree n) hheld.2 hidle]
    · rw [if_neg h, if_pos ⟨h1, decide_eq_false hbusy⟩]
  · refine (if_pos hn).trans ((hslot hn (by decide) (by decide)).trans ?_)
    rw [if_pos hb]; rfl
  · by_cases hn : n < 256
    · exact ⟨(if_pos hn).trans ((hslot hn (by decide) (by decide)).trans (congrArg _ (if_neg (by omega)))),
        (if_pos hn).trans ((hslot hn (by decide) (by decide)).trans (congrArg _ (if_neg (by omega))))⟩
    · exact ⟨if_neg hn, if_neg hn⟩
  · by_cases hg : g < 8
    · refine (if_pos hg).trans ?_
      by_cases hp16 : p < 16
      · refine (if_pos hp16).trans ?_
        rw [Nat.add_assoc, State.regStore_panel hl hr hp16 (by omega) (by omega) (by omega), if_neg (by omega)]
      · exact if_neg hp16
    · exact if_neg hg
  · have hrun : exec (.dlLimWrite ring p g v) s = .next (s.w6s (0x90000 + 0x1000 * p + 0x800 + 8 * g) (v &&& 0xFFFFF#64)) := by
      refine (if_pos hg).trans ((if_pos (by omega)).trans ?_)
      rw [Nat.add_assoc, State.regStore_panel hl hr (by omega) (by omega) (by omega) (by omega), if_pos hb, State.pnStore,
        if_neg (by omega), if_neg (by omega), if_pos (by omega), ← Nat.add_assoc]; rfl
    exact ⟨_, hrun, .refl s, .refl s, rfl, State.w6g_w6s .., fun o ho => State.w6g_w6s_ne _ _ ho⟩
  · have hrun := State.regStore_four hl hr (0x100 * p + 0x80 + 8 * i) v
    rw [State.store4_counter (by omega) hb hi] at hrun
    exact ⟨_, hrun, .refl s, .refl s, rfl, State.w4g_w4s .., fun o ho => State.w4g_w4s_ne _ _ ho,
      fun k => if_pos (smGet_smSet_self ..)⟩
  · have hmask : mask4 (0x100 * p + 0x18) = none := by
      unfold mask4
      rw [if_neg (by omega), if_pos (by omega), show (0x100 * p + 0x18) % 0x100 = 0x18 by omega]; rfl
    refine (State.regStore_four hl hr _ v).trans (congrArg _ ?_)
    simp [State.store4, hmask]
  · have hrun := State.regStore_four hl hr (0x1000 + 0x40 * n) v
    rw [(State.store4_window (r := 0) hn hb v).1] at hrun
    exact ⟨_, hrun, .refl s, .refl s, fun m hm => State.port_modPort_ne _ _ hm, State.port_modPort .., State.w4g_w4s ..,
      fun o ho => State.w4g_w4s_ne _ _ ho⟩
  · have hrun := State.regStore_four hl hr (0x1000 + 0x40 * n + 0x18) v
    rw [(State.store4_window (r := 0x18) hn hb v).2 (.inl rfl)] at hrun
    refine ⟨_, hrun, .refl s, .refl s, rfl, fun o ho => State.w4g_w4s_ne _ _ ho, fun hno => ?_, fun u d hw hu => ?_⟩
    · rw [State.w4g_w4s, State.storeMax, show 0x1000 + 0x40 * n + 0x18 - (0x1000 + 0x40 * n + 0x18) % 0x40 = 0x1000 + 0x40 * n by omega]
      split
      next k up dn hfind => exact if_neg fun h => hno k up dn hfind h.1
      next => rfl
    · rw [State.w4g_w4s, State.storeMax, show 0x1000 + 0x40 * n + 0x18 - (0x1000 + 0x40 * n + 0x18) % 0x40 = 0x1000 + 0x40 * n by omega, hw]
      simp only [toNat_and_mask48]
      rw [if_pos (show (0x1000 + 0x40 * n + 0x18) % 0x40 = 0x18 by omega)]
      split
      next h => rw [BitVec.toNat_ofNat]; omega
      next h => rw [toNat_and_mask48]; simp only [State.kclk, true_and] at h; omega
end

section
/-! Obligation O58: router stores and array word stores. -/

namespace Sys2Proof.Machine

variable {s : State} {ring : Nat}

/-! ### Routers -/

theorem hasRouter_lt {b : Build} {r : Nat} (h : b.hasRouter r = true) : r < 41 := by
  by_contra hr
  unfold Build.hasRouter at h
  rw [if_neg (by omega), if_neg (by omega), decide_eq_true_eq] at h
  omega

/-- A router as a flip of the root leaves it: a mirrored one follows at once, another in three HCLK (R215, R474). -/
def State.followed (s : State) (e r : Nat) : Router :=
  if s.mirrored r then { s.router r with epoch := e, flipAt := none } else { s.router r with flipAt := some (s.clk.cyc + 3) }

/-- Every router of a list follows the root, and no other changes. -/
theorem foldl_followed (e : Nat) {l : List Nat} (hl : l.Nodup) (s : State) :
    let t := l.foldl (fun (s : State) r =>
      if s.mirrored r then s.modRouter r fun x => { x with epoch := e, flipAt := none }
      else s.modRouter r fun x => { x with flipAt := some (s.clk.cyc + 3) }) s
    (∃ m, t = { s with routers := m }) ∧ ∀ q, t.router q = if q ∈ l then s.followed e q else s.router q := by
  induction l generalizing s with
  | nil => exact ⟨⟨_, rfl⟩, fun _ => rfl⟩
  | cons r l ih =>
    obtain ⟨hr, hl⟩ := List.nodup_cons.1 hl
    have hstep : (if s.mirrored r then s.modRouter r fun x => { x with epoch := e, flipAt := none }
        else s.modRouter r fun x => { x with flipAt := some (s.clk.cyc + 3) }) = s.modRouter r fun _ => s.followed e r := by
      unfold State.followed
      split <;> rfl
    obtain ⟨⟨m, hm⟩, hq⟩ := ih hl (s.modRouter r fun _ => s.followed e r)
    rw [List.foldl_cons, hstep]
    refine ⟨⟨m, hm⟩, fun q => (hq q).trans ?_⟩
    by_cases hqr : q = r
    · subst hqr
      rw [if_neg hr, if_pos List.mem_cons_self, State.router_modRouter]
    · have hsame : (s.modRouter r fun _ => s.followed e r).router q = s.router q := State.router_modRouter_ne _ _ hqr
      have hfol : (s.modRouter r fun _ => s.followed e r).followed e q = s.followed e q := by
        rw [State.followed, hsame]; rfl
      rw [hsame, hfol]
      simp [hqr]

/-- ROOT_FLIP inverts the root's epoch, and every router of the build follows (R215). -/
theorem State.flipRoot_spec (s : State) :
    (∃ m, s.flipRoot = { s with routers := m }) ∧
      s.flipRoot.router 40 = { s.router 40 with epoch := 1 - (s.router 40).epoch % 2, flipped := true } ∧
      ∀ r, r < 40 → s.build.hasRouter r = true → s.flipRoot.router r = s.followed (1 - (s.router 40).epoch % 2) r := by
  let e := 1 - (s.router 40).epoch % 2
  let u := s.modRouter 40 fun x => { x with epoch := e, flipped := true }
  obtain ⟨⟨m, hm⟩, hq⟩ := foldl_followed e (List.nodup_range.filter u.build.hasRouter) u (l := (List.range 40).filter u.build.hasRouter)
  refine ⟨⟨m, hm⟩, (hq 40).trans ?_, fun r hr hb => (hq r).trans ?_⟩
  · rw [if_neg (by simp)]
    exact State.router_modRouter ..
  · have hmem : r ∈ (List.range 40).filter u.build.hasRouter := List.mem_filter.2 ⟨List.mem_range.2 hr, hb⟩
    rw [if_pos hmem]
    have hsame : u.router r = s.router r := State.router_modRouter_ne _ _ (by omega)
    rw [State.followed, hsame]; rfl

theorem clear_pair {α : Type} (z a b : α) (v : Nat) :
    ([a, b].zipIdx.map fun e => if bitN v e.2 then z else e.1) = [if bitN v 0 then z else a, if bitN v 1 then z else b] := rfl

theorem bitN_mod_four (v : BitVec 64) {i : Nat} (h : i < 2) : bitN (v.toNat % 4) i = v.getLsbD i := by
  rw [show 4 = 2 ^ 2 from rfl, bitN, Nat.testBit_mod_two_pow, BitVec.testBit_toNat]
  simp [h]

/-! ### Array words -/

/-- The panels of a list that are not frozen take a store, and no other changes. -/
theorem foldl_stored (g : Nat → Panel → Panel) {l : List Nat} (hl : l.Nodup) (s : State) :
    let t := l.foldl (fun (s : State) p => if s.panelFrozen p then s else s.modPanel p (g s.kclk)) s
    (∃ m, t = { s with panels := m }) ∧
      ∀ q, t.panel q = if q ∈ l ∧ s.panelFrozen q = false then g s.kclk (s.panel q) else s.panel q := by
  induction l generalizing s with
  | nil => exact ⟨⟨_, rfl⟩, fun _ => rfl⟩
  | cons p l ih =>
    obtain ⟨hp, hl⟩ := List.nodup_cons.1 hl
    rw [List.foldl_cons]
    by_cases hf : s.panelFrozen p = true
    · rw [if_pos hf]
      obtain ⟨hm, hq⟩ := ih hl s
      refine ⟨hm, fun q => (hq q).trans ?_⟩
      by_cases hqp : q = p
      · subst hqp
        rw [if_neg (by simp [hf]), if_neg (by simp [hf])]
      · simp [hqp]
    · rw [if_neg hf]
      obtain ⟨hm, hq⟩ := ih hl (s.modPanel p (g s.kclk))
      refine ⟨hm, fun q => (hq q).trans ?_⟩
      by_cases hqp : q = p
      · subst hqp
        rw [if_neg fun h => hp h.1, if_pos ⟨List.mem_cons_self, by simpa using hf⟩, State.panel_modPanel]
      · rw [State.panel_modPanel_ne _ _ hqp]
        have hfq : (s.modPanel p (g s.kclk)).panelFrozen q = s.panelFrozen q := rfl
        simp only [hfq, List.mem_cons, hqp, false_or]; rfl

/-- The bits of an offset by division. -/
theorem bitsN_eq_div (v lo len : Nat) : bitsN v lo len = v / 2 ^ lo % 2 ^ len := by rw [bitsN, Nat.shiftRight_eq_div_pow]

theorem bitN_eq_div (v i : Nat) : bitN v i = decide (v / 2 ^ i % 2 = 1) := Nat.testBit_eq_decide_div_mod_eq

/-- The directory word of one panel, or of all, that an offset names (R363). -/
theorem Build.dirWord_eq {b : Build} {set way : Nat} (hs : set < b.sets) (hset : set < 2 ^ 15) (hway : way < 16) :
    (∀ p, p < b.panels → p < 16 → b.dirWord (p * 2 ^ 22 + set * 2 ^ 7 + way * 8) = some ([p], set * 16 + way)) ∧
      b.dirWord (2 ^ 26 + set * 2 ^ 7 + way * 8) = some (List.range b.panels, set * 16 + way) := by
  constructor
  · intro p hp hp16
    unfold Build.dirWord
    simp only [bitsN_eq_div, bitN_eq_div]
    rw [show (p * 2 ^ 22 + set * 2 ^ 7 + way * 8) / 2 ^ 7 % 2 ^ 15 = set by omega,
      show (p * 2 ^ 22 + set * 2 ^ 7 + way * 8) / 2 ^ 3 % 2 ^ 4 = way by omega,
      show (p * 2 ^ 22 + set * 2 ^ 7 + way * 8) / 2 ^ 22 % 2 ^ 4 = p by omega,
      if_neg (by omega), if_neg (by simp; omega), if_pos hp]
  · unfold Build.dirWord
    simp only [bitsN_eq_div, bitN_eq_div]
    rw [show (2 ^ 26 + set * 2 ^ 7 + way * 8) / 2 ^ 7 % 2 ^ 15 = set by omega,
      show (2 ^ 26 + set * 2 ^ 7 + way * 8) / 2 ^ 3 % 2 ^ 4 = way by omega, if_neg (by omega), if_pos (by simp; omega)]

/-- The Palette codeword of one panel, or of all, that an offset names (R364). -/
theorem Build.palWord_eq {b : Build} {pal cw : Nat} (hb : pal < 4 * b.palSets) (hpal : pal < 2 ^ 14) (hcw : cw < 5) :
    (∀ p, p < b.panels → p < 16 → b.palWord (p * 2 ^ 20 + pal * 2 ^ 6 + cw * 8) = some ([p], pal * 8 + cw)) ∧
      b.palWord (2 ^ 24 + pal * 2 ^ 6 + cw * 8) = some (List.range b.panels, pal * 8 + cw) := by
  constructor
  · intro p hp hp16
    unfold Build.palWord
    simp only [bitsN_eq_div, bitN_eq_div]
    rw [show (p * 2 ^ 20 + pal * 2 ^ 6 + cw * 8) / 2 ^ 6 % 2 ^ 14 = pal by omega,
      show (p * 2 ^ 20 + pal * 2 ^ 6 + cw * 8) / 2 ^ 3 % 2 ^ 3 = cw by omega,
      show (p * 2 ^ 20 + pal * 2 ^ 6 + cw * 8) / 2 ^ 20 % 2 ^ 4 = p by omega,
      if_neg (by omega), if_neg (by simp; omega), if_pos hp]
  · unfold Build.palWord
    simp only [bitsN_eq_div, bitN_eq_div]
    rw [show (2 ^ 24 + pal * 2 ^ 6 + cw * 8) / 2 ^ 6 % 2 ^ 14 = pal by omega,
      show (2 ^ 24 + pal * 2 ^ 6 + cw * 8) / 2 ^ 3 % 2 ^ 3 = cw by omega, if_neg (by omega), if_pos (by simp; omega)]

/-- A panel of the list has had its management request of this KCLK (R152). -/
def State.anyAsked (s : State) (ps : List Nat) : Prop :=
  ∃ p ∈ ps, s.panelFrozen p = false ∧ (s.panel p).mgmtAt = some (s.clk.cyc / 8)

/-- The panels `ps` that are not frozen have become what `g` makes of them, and nothing else has changed. -/
def Stored (s t : State) (ps : List Nat) (g : Panel → Panel) : Prop :=
  (∃ m, t = { s with panels := m }) ∧ ∀ q, t.panel q = if q ∈ ps ∧ s.panelFrozen q = false then g (s.panel q) else s.panel q

theorem Stored.at {t : State} {ps : List Nat} {g : Panel → Panel} (h : Stored s t ps g) {p : Nat} (hp : p ∈ ps)
    (hf : s.panelFrozen p = false) : t.panel p = g (s.panel p) := (h.2 p).trans (if_pos ⟨hp, hf⟩)

theorem Stored.other {t : State} {ps : List Nat} {g : Panel → Panel} (h : Stored s t ps g) {p : Nat} (hp : p ∉ ps) :
    t.panel p = s.panel p := (h.2 p).trans (if_neg fun k => hp k.1)

theorem Stored.frame {t : State} {ps : List Nat} {g : Panel → Panel} (h : Stored s t ps g) :
    StoreFrame s t ∧ t.ports = s.ports ∧ t.mps = s.mps ∧ t.rgn = s.rgn := by
  obtain ⟨⟨m, rfl⟩, -⟩ := h
  exact ⟨.refl s, rfl, rfl, rfl⟩

/-- A secure store of an array word before PROFILE: it waits for a panel that has had its management request, or reaches all that it
names (R152, R370). -/
theorem State.regStore_array (hl : s.live) (hr : ring < 8) (hprof : s.host.prof = 0) {sp off : Nat} {v : BitVec 64} {ps : List Nat}
    {g : Nat → Panel → Panel} (hnodup : ps.Nodup) (hps : s.storePanels sp off = ps.filter fun p => !s.panelFrozen p)
    (hst : s.spaceStore ring sp off v = ps.foldl (fun (s : State) p => if s.panelFrozen p then s else s.modPanel p (g s.kclk)) s) :
    (s.anyAsked ps → s.regStore ring sp off v = .next s) ∧
      (¬ s.anyAsked ps → ∃ t, s.regStore ring sp off v = .next t ∧ Stored s t ps (g (s.clk.cyc / 8))) := by
  have hiff : s.storeWaits ring sp off = true ↔ s.anyAsked ps := by
    have hasked : s.anyAsked ps ↔ ∃ p ∈ ps, s.panelFrozen p = false ∧ (s.panel p).mgmtAt = some s.kclk := Iff.rfl
    simp [hasked, State.storeWaits, hps, hr, hprof]
  rw [State.regStore_live hl hr, hst]
  exact ⟨fun h => congrArg _ (if_pos (hiff.2 h)), fun h =>
    ⟨_, congrArg _ (if_neg fun k => h (hiff.1 k)), foldl_stored g hnodup s⟩⟩

/-- A directory word's check bits. -/
def dirCode (v : BitVec 64) : BitVec 72 := BitVec.ofNat 72 (strongEnc 56 (v.toNat % 2 ^ 56))

theorem directoryWordStore_spec (hl : s.live) (hr : ring < 8) (hprof : s.host.prof = 0) {off i : Nat} {ps : List Nat} (v : BitVec 64)
    (hw : s.build.dirWord off = some (ps, i)) (hnodup : ps.Nodup) :
    (s.anyAsked ps → exec (.directoryWordStore ring off v) s = .next s) ∧
      (¬ s.anyAsked ps → ∃ t, exec (.directoryWordStore ring off v) s = .next t ∧
        Stored s t ps fun x => { x with dir := smSet x.dir i (dirCode v), mgmtAt := some (s.clk.cyc / 8) }) :=
  State.regStore_array (g := fun k x => { x with dir := smSet x.dir i (dirCode v), mgmtAt := some k }) hl hr hprof hnodup
    (by simp [State.storePanels, hw]) (by simp [State.spaceStore, State.dirStore, hr, hprof, hw]; rfl)

theorem paletteCodewordStore_spec (hl : s.live) (hr : ring < 8) (hprof : s.host.prof = 0) {off i : Nat} {ps : List Nat} (v : BitVec 64)
    (hw : s.build.palWord off = some (ps, i)) (hnodup : ps.Nodup) :
    (s.anyAsked ps → exec (.paletteCodewordStore ring off v) s = .next s) ∧
      (¬ s.anyAsked ps → ∃ t, exec (.paletteCodewordStore ring off v) s = .next t ∧
        Stored s t ps fun x => { x with pal := smSet x.pal i (encW v), mgmtAt := some (s.clk.cyc / 8) }) :=
  State.regStore_array (g := fun k x => { x with pal := smSet x.pal i (encW v), mgmtAt := some k }) hl hr hprof hnodup
    (by simp [State.storePanels, hw]) (by simp [State.spaceStore, State.palStore, hr, hprof, hw])

theorem State.anyAsked_one {p : Nat} (hf : s.panelFrozen p = false) : s.anyAsked [p] ↔ (s.panel p).mgmtAt = some (s.clk.cyc / 8) := by
  simp [State.anyAsked, hf]

theorem State.anyAsked_range (n : Nat) : s.anyAsked (List.range n) ↔
    ∃ p, p < n ∧ s.panelFrozen p = false ∧ (s.panel p).mgmtAt = some (s.clk.cyc / 8) := by
  simp [State.anyAsked]

/-! ### Region-map words -/

theorem State.refreshLeaves_eq (s : State) (qs : List Nat) : ∃ m, s.refreshLeaves qs = { s with routers := m } := by
  unfold State.refreshLeaves
  induction qs generalizing s with
  | nil => exact ⟨_, rfl⟩
  | cons q qs ih => exact ih (s.modRouter q fun x => { x with copy := s.inForce })

/-- What follows a region-map write touches the leaves' copies, before PROFILE, and the Easel's boot decode (R182, R398). -/
theorem State.rgnWritten_eq (s : State) :
    ∃ m b, s.rgnWritten = { s with routers := m, ez := { s.ez with everRegion := b } } ∧ (s.host.prof ≠ 0 → m = s.routers) := by
  have hcopy : ∃ m, (if s.host.prof = 0 then s.refreshLeaves (List.range s.build.leafN) else s) = { s with routers := m } ∧
      (s.host.prof ≠ 0 → m = s.routers) := by
    by_cases hp : s.host.prof = 0
    · obtain ⟨m, hm⟩ := State.refreshLeaves_eq s (List.range s.build.leafN)
      exact ⟨m, by rw [if_pos hp, hm], fun h => absurd hp h⟩
    · exact ⟨s.routers, if_neg hp, fun _ => rfl⟩
  obtain ⟨m, hm, hprof⟩ := hcopy
  unfold State.rgnWritten
  simp only [hm]
  split
  · exact ⟨m, s.ez.everRegion, rfl, hprof⟩
  · exact ⟨m, true, rfl, hprof⟩

/-- The words of the regions, and of the hash keys that the build has (R306, R310). -/
theorem Build.rgnIndex_region (b : Build) {i : Nat} (h : i < 32) : b.rgnIndex (8 * i) = some i := by
  unfold Build.rgnIndex
  rw [if_neg (by omega), if_pos (by omega), Nat.mul_div_cancel_left i (by decide)]

theorem Build.rgnIndex_key {b : Build} {j : Nat} (h : j < b.p) : b.rgnIndex (0x100 + 8 * j) = some (32 + j) := by
  unfold Build.rgnIndex
  rw [if_neg (by omega), if_neg (by omega), if_pos (by omega), show (0x100 + 8 * j - 0x100) / 8 = j by omega]

theorem Build.rgnIndex_noKey {b : Build} {j : Nat} (h : ¬ j < b.p) : b.rgnIndex (0x100 + 8 * j) = none := by
  unfold Build.rgnIndex
  rw [if_neg (by omega), if_neg (by omega), if_neg (by omega)]

theorem State.regStore_noRegion (hl : s.live) (hr : ring < 8) (hlock : s.host.locks.getLsbD 0 = false) {off : Nat} (v : BitVec 64)
    (hw : s.build.rgnIndex off = none) : s.regStore ring 3 off v = .next s := by
  have hopen : s.locked 0 = false := hlock
  rw [State.regStore_live hl hr, State.storeWaits_of_noPanels (by decide) (by decide)]
  simp [State.spaceStore, State.rgnStore, hr, hopen, hw]

/-- A secure store of a region-map word: a hash key only before PROFILE (R306, R393). -/
theorem State.regStore_region (hl : s.live) (hr : ring < 8) (hlock : s.host.locks.getLsbD 0 = false) {off i : Nat} (v : BitVec 64)
    (hw : s.build.rgnIndex off = some i) :
    (32 ≤ i → s.host.prof ≠ 0 → s.regStore ring 3 off v = .next s) ∧
      (i < 32 ∨ s.host.prof = 0 → ∃ t, s.regStore ring 3 off v = .next t ∧ StoreFrame s t ∧ t.ports = s.ports ∧ t.panels = s.panels ∧
        t.mps = s.mps ∧ (s.host.prof ≠ 0 → t.routers = s.routers) ∧ t.rgnRaw i = encW (v &&& rgnMask i) ∧
        ∀ j, j ≠ i → t.rgnRaw j = s.rgnRaw j) := by
  have hrun : s.regStore ring 3 off v =
      .next (if 32 ≤ i ∧ s.host.prof ≠ 0 then s else (s.setRgn i (v &&& rgnMask i)).rgnWritten) := by
    rw [State.regStore_live hl hr, State.storeWaits_of_noPanels (by decide) (by decide)]
    have hopen : s.locked 0 = false := hlock
    simp [State.spaceStore, State.rgnStore, hr, hopen, hw]
  rw [hrun]
  refine ⟨fun hi hp => congrArg _ (if_pos ⟨hi, hp⟩), fun h => ?_⟩
  rw [if_neg fun k => h.elim (fun hi => by omega) k.2]
  obtain ⟨m, b, heq, hm⟩ := (s.setRgn i (v &&& rgnMask i)).rgnWritten_eq
  rw [heq]
  exact ⟨_, rfl, .refl s, rfl, rfl, rfl, hm, State.rgnRaw_setRgn .., fun j hj => State.rgnRaw_setRgn_ne _ _ hj⟩

/-! ### Router stores -/

/-- A secure store to the control block of a router, which the build has or lacks (R357). -/
theorem State.regStoreAt_router (hl : s.live) (hr : ring < 8) {r o : Nat} (ho : o < 0x2000) (h8 : o % 8 = 0) (v : BitVec 64) :
    s.regStoreAt ring r 41 6 (rtBase r + o) v = .next (if s.build.hasRouter r then s.rtStore r o v else s) := by
  unfold State.regStoreAt
  by_cases hr41 : r < 41
  · rw [if_pos hr41, State.regStore_router hl hr hr41 ho h8]
  · rw [if_neg hr41, if_neg fun h => hr41 (hasRouter_lt h)]

/-- A store to a route entry reaches the table of its epoch (R213). -/
theorem execRouteEntryWrite_live (hl : s.live) (hr : ring < 8) {r e id : Nat} (he : e < 2) (hid : id < 256) (v : BitVec 64) :
    exec (.routeEntryWrite ring r e id v) s = .next (if s.build.hasRouter r then s.routeStore r e id v else s) := by
  refine (if_pos ⟨he, hid⟩).trans ?_
  rw [show rtBase r + 0x1000 + 0x800 * e + 8 * id = rtBase r + (0x1000 + 0x800 * e + 8 * id) by omega,
    State.regStoreAt_router hl hr (by omega) (by omega)]
  have hroute : s.rtStore r (0x1000 + 0x800 * e + 8 * id) v = s.routeStore r e id v := by
    refine (if_pos (by omega)).trans ?_
    rw [show (0x1000 + 0x800 * e + 8 * id - 0x1000) / 0x800 = e by omega,
      show (0x1000 + 0x800 * e + 8 * id - 0x1000) % 0x800 / 8 = id by omega]
  rw [hroute]

theorem execRootFlip_live (hl : s.live) (hr : ring < 8) (v : BitVec 64) :
    exec (.rootFlip ring v) s = .next (if v.getLsbD 0 then s.flipRoot else s) := by
  refine (State.regStore_router (r := 40) (o := 0x48) hl hr (by decide) (by decide) (by decide) v).trans ?_
  rw [if_pos (show s.build.hasRouter 40 = true from rfl)]
  change Host.Outcome.next (if 40 = 40 ∧ v.getLsbD 0 then s.flipRoot else s) = _
  simp

end Sys2Proof.Machine

open Sys2Proof Sys2Proof.Machine

/-- Settles O58: router stores by `execRouteEntryWrite_live` and `State.flipRoot_spec`, array stores by `directoryWordStore_spec` and
`paletteCodewordStore_spec`, region-map words by `State.regStore_region`. -/
theorem routerAndArrayStores : Obligations.RouterAndArrayStores := by
  refine ⟨fun ring v s hl hr => ⟨fun r e id hb he hid => ?_, fun hv => ?_, fun hv => ?_, fun r a b c d hb hinj hej => ?_,
      fun r hb => ?_, fun r e id hb => ?_⟩,
    fun ring v s hl hr hprof hp => ⟨fun off p set way hpanel hs hset hway hf hoff => ?_, fun set way hs hset hway => ?_,
      fun p pal cw hpanel hb hpal hcw hf => ?_, fun pal cw hb hpal hcw => ?_, fun j hj hlock => ?_⟩,
    fun ring v s hl hr hp hlock => ⟨fun i hi => ?_, fun j hprof => ?_⟩⟩
  · have hrun := execRouteEntryWrite_live hl hr (r := r) he hid v
    rw [if_pos hb] at hrun
    refine ⟨fun huse => ?_, fun huse => ?_⟩
    · rw [State.routeStore, if_pos huse] at hrun
      exact ⟨_, hrun, .refl s, .refl s, rfl, rfl, State.router_modRouter .., fun q hq => State.router_modRouter_ne _ _ hq⟩
    · rw [State.routeStore, if_neg huse] at hrun
      refine ⟨_, hrun, .refl s, .refl s, rfl, rfl, fun q hq => State.router_modRouter_ne _ _ hq, ?_, ?_, fun i => ?_⟩
      · rw [State.router_modRouter]
      · rw [State.router_modRouter]
      · rw [State.router_modRouter]
        by_cases h : i = e * 256 + id
        · rw [if_pos h, h]
          exact smGet_smPut_self ..
        · rw [if_neg h]
          exact smGet_smPut_ne _ _ _ _ h
  · have hrun := execRootFlip_live hl hr v
    rw [if_pos hv] at hrun
    obtain ⟨⟨m, hm⟩, hroot, hall⟩ := s.flipRoot_spec
    refine ⟨s.flipRoot, hrun, by rw [hm]; exact .refl s, by rw [hm]; exact .refl s, by rw [hm], by rw [hm], by rw [hroot], by rw [hroot],
      fun r hr40 hb => ⟨fun hmir => ?_, fun hmir => ?_⟩⟩
    · rw [hall r hr40 hb, State.followed, if_neg (by simp [hmir])]
      exact ⟨rfl, rfl⟩
    · rw [hall r hr40 hb, State.followed, if_pos hmir]
  · rw [execRootFlip_live hl hr v, hv]; rfl
  · have hrun := State.regStoreAt_router (r := r) (o := 0x30) hl hr (by decide) (by decide) v
    rw [if_pos hb, show s.rtStore r 0x30 v = s.modRouter r fun x => x.clear (v.toNat % 4) from rfl] at hrun
    refine ⟨_, hrun, .refl s, .refl s, rfl, fun q hq => State.router_modRouter_ne _ _ hq, ?_, ?_⟩
    · rw [← bitN_mod_four v (by decide : 0 < 2), ← bitN_mod_four v (by decide : 1 < 2), ← clear_pair 0 a b, ← hinj]
      exact congrArg Router.inj (State.router_modRouter ..)
    · rw [← bitN_mod_four v (by decide : 0 < 2), ← bitN_mod_four v (by decide : 1 < 2), ← clear_pair 0 c d, ← hej]
      exact congrArg Router.ej (State.router_modRouter ..)
  · have hrun := State.regStoreAt_router (r := r) (o := 0x50) hl hr (by decide) (by decide) v
    rw [if_pos hb, show s.rtStore r 0x50 v = s.modRouter r fun x =>
      { x with snpdl := v.setWidth 20, snpOld := some (s.clk.cyc, x.snpdlAt s.clk.cyc) } from rfl] at hrun
    exact ⟨_, hrun, .refl s, .refl s, rfl, fun q hq => State.router_modRouter_ne _ _ hq, State.router_modRouter ..⟩
  · have hno {o : Nat} (ho : o < 0x2000) (h8 : o % 8 = 0) : s.regStoreAt ring r 41 6 (rtBase r + o) v = .next s := by
      rw [State.regStoreAt_router hl hr ho h8, hb]; rfl
    refine ⟨?_, hno (by decide) (by decide), hno (by decide) (by decide)⟩
    by_cases he : e < 2 ∧ id < 256
    · rw [execRouteEntryWrite_live hl hr he.1 he.2, hb]; rfl
    · exact if_neg he
  · subst hoff
    have hp16 : p < 16 := hpanel.trans_le (Build.panels_le hp)
    obtain ⟨hwait, hact⟩ := directoryWordStore_spec hl hr hprof v ((Build.dirWord_eq hs hset hway).1 p hpanel hp16) (List.nodup_singleton p)
    rw [State.anyAsked_one hf] at hwait hact
    refine ⟨hwait, fun hfree => ?_⟩
    obtain ⟨t, hrun, hst⟩ := hact hfree
    have hat := hst.at List.mem_cons_self hf
    obtain ⟨hframe, hports, hmps, hrgn⟩ := hst.frame
    refine ⟨t, hrun, hframe, hports, hmps, hrgn, fun q hq => hst.other (by simpa using hq), ?_⟩
    rw [hat]
    exact ⟨rfl, rfl, rfl, smFind_smSet_self .., fun i hi => smFind_smSet_ne _ _ hi⟩
  · obtain ⟨hwait, hact⟩ := directoryWordStore_spec hl hr hprof v (Build.dirWord_eq hs hset hway).2 List.nodup_range
    rw [State.anyAsked_range] at hwait hact
    refine ⟨hwait, fun hfree => ?_⟩
    obtain ⟨t, hrun, hst⟩ := hact fun ⟨p, hpanel, hf, hasked⟩ => hfree p hpanel hf hasked
    refine ⟨t, hrun, hst.frame.1, fun p hpanel hf => ?_⟩
    rw [hst.at (List.mem_range.2 hpanel) hf]
    exact ⟨rfl, smFind_smSet_self ..⟩
  · have hp16 : p < 16 := hpanel.trans_le (Build.panels_le hp)
    obtain ⟨hwait, hact⟩ := paletteCodewordStore_spec hl hr hprof v ((Build.palWord_eq hb hpal hcw).1 p hpanel hp16) (List.nodup_singleton p)
    rw [State.anyAsked_one hf] at hwait hact
    refine ⟨hwait, fun hfree => ?_⟩
    obtain ⟨t, hrun, hst⟩ := hact hfree
    refine ⟨t, hrun, hst.frame.1, hst.frame.2.1, fun q hq => hst.other (by simpa using hq), ?_⟩
    rw [hst.at List.mem_cons_self hf]
    exact ⟨rfl, rfl, smFind_smSet_self .., fun i hi => smFind_smSet_ne _ _ hi⟩
  · obtain ⟨hwait, hact⟩ := paletteCodewordStore_spec hl hr hprof v (Build.palWord_eq hb hpal hcw).2 List.nodup_range
    rw [State.anyAsked_range] at hwait hact
    refine ⟨hwait, fun hfree => ?_⟩
    obtain ⟨t, hrun, hst⟩ := hact fun ⟨p, hpanel, hf, hasked⟩ => hfree p hpanel hf hasked
    refine ⟨t, hrun, hst.frame.1, hst.frame.2.1, fun p hpanel hf => ?_⟩
    rw [hst.at (List.mem_range.2 hpanel) hf]
    exact ⟨rfl, rfl, smFind_smSet_self .., fun i hi => smFind_smSet_ne _ _ hi⟩
  · have hw := Build.rgnIndex_key hj
    obtain ⟨t, hrun, hframe, hports, hpanels, hmps, -, hraw, hother⟩ := (State.regStore_region hl hr hlock v hw).2 (.inr hprof)
    rw [rgnMask, if_pos (by omega)] at hraw
    exact ⟨t, (if_pos (by omega)).trans hrun, hframe, hports, hpanels, hmps, hraw, hother⟩
  · have hw := s.build.rgnIndex_region hi
    obtain ⟨t, hrun, hframe, hports, hpanels, hmps, hrouters, hraw, hother⟩ := (State.regStore_region hl hr hlock v hw).2 (.inl hi)
    rw [rgnMask, if_neg (by omega)] at hraw
    exact ⟨t, (if_pos (by omega)).trans hrun, hframe, hports, hpanels, hmps, hrouters, hraw, hother⟩
  · by_cases hj : j < 4
    · refine (if_pos hj).trans ?_
      by_cases hjp : j < s.build.p
      · exact (State.regStore_region hl hr hlock v (Build.rgnIndex_key hjp)).1 (by omega) hprof
      · exact State.regStore_noRegion hl hr hlock v (Build.rgnIndex_noKey hjp)
    · exact if_neg hj
end

section
/-! Obligations O19 and O20, refuted. Both rank the heads of an output by `Beats`, where a head of none of the classes of R203 comes after a
REQ; the model gives it the rank of a REQ (`clsRank`), so that the round robin decides between the two. The statements take any queues,
also one with a head of such a class, which R39 lists no queue for; in the bounded profile the branch has the credit it asks for. -/

namespace Sys2Proof.Machine

/-- A packet of class 8 for an agent that no port holds, at the head of port 0's first queue. -/
def unclassed : Packet := { hdr := { cls := 8, opc := 0, prio := 2, src := 5, dst := 256 } }

/-- A WrU of port 1 with the release mark. -/
def releasedWrite : Packet := { hdr := { cls := cREQ, opc := oWrU, prio := 2, src := 6, tag := 9, addr := 28, marks := 4, size := 3 } }

/-- The two of them before leaf 0, in the bounded profile. -/
def tiedHeads : State :=
  let s : State := { overlapBlock {} with
    ports := [(0, overlapPort), (1, { overlapPort with agent := 6 })], host := { (overlapBlock {}).host with prof := 1 } }
  (s.setQ (.leafUp 0) 0 [unclassed]).setQ (.leafUp 1) cREQ [releasedWrite]

/-- The head of port 1 as a candidate. -/
def releasedHead : Cand := { l := .leafUp 1, key := cREQ, k := releasedWrite }

theorem tiedHeads_cands : tiedHeads.cands (.leafToBranch 0) = [{ l := .leafUp 0, key := 0, k := unclassed }, releasedHead] := by
  decide +kernel

theorem tiedHeads_live : tiedHeads.live ∧ tiedHeads.routerFrozen 0 = false := by
  unfold State.live
  decide +kernel

/-- Its build, of one leaf with eight slots, is one that the specification has. -/
theorem tiedHeads_build_ok : tiedHeads.build.ok := by
  have hleaves : ∀ c, c < 7 → tiedHeads.build.hasLeaf (c + 1) → tiedHeads.build.hasLeaf c := by
    unfold Build.hasLeaf
    decide +kernel
  refine ⟨.inl rfl, .inl rfl, by decide, by decide, by decide, by decide, ⟨0, by decide, by decide⟩, by decide, fun x hx => ?_,
    ⟨0, by decide, by decide⟩, hleaves, by decide⟩
  rcases List.mem_cons.1 (show x ∈ some (0, 8) :: List.replicate 31 none from hx) with rfl | hx
  · decide
  · rw [List.eq_of_mem_replicate hx]; trivial

/-- The write comes before the other head, and no PRIO is above 3. -/
theorem tiedHeads_beats : (∀ c ∈ tiedHeads.cands (.leafToBranch 0), c.k.hdr.prio ≤ 3) ∧
    ∀ c ∈ tiedHeads.cands (.leafToBranch 0), c ≠ releasedHead → Beats (.leafToBranch 0) releasedHead c := by
  rw [tiedHeads_cands]
  unfold Beats
  decide +kernel

/-- The leaf forwards the other head, and the write stays where it waits. -/
theorem tiedHeads_hop {t : State} (h : exec (.packetHop (.leafToBranch 0) {}) tiedHeads = .next t) : t.q (.leafUp 1) cREQ ≠ [] := by
  have hrun : (match exec (.packetHop (.leafToBranch 0) {}) tiedHeads with
    | .next u => u.q (.leafUp 1) cREQ
    | _ => []) ≠ [] := by decide +kernel
  rwa [h] at hrun

theorem tiedHeads_release {t : State} (h : exec (.rlsHoldReleased 1) tiedHeads = .next t) : t.q (.leafUp 1) cREQ ≠ [] := by
  have hrun : (match exec (.rlsHoldReleased 1) tiedHeads with
    | .next u => u.q (.leafUp 1) cREQ
    | _ => []) ≠ [] := by decide +kernel
  rwa [h] at hrun

/-- What the second clause of O20 asks of the write. -/
theorem tiedHeads_write : 1 < tiedHeads.build.slots ∧ tiedHeads.q (.leafUp 1) cREQ = [releasedWrite] ∧ (tiedHeads.port 1).reqs = [] ∧
    releasedWrite.home < tiedHeads.build.panels ∧
    tiedHeads.hasCredit (.branchUp (tiedHeads.build.leafOf 1)) (tiedHeads.laneKey (.branchUp (tiedHeads.build.leafOf 1)) releasedWrite) = true := by
  decide +kernel

end Sys2Proof.Machine

open Sys2Proof Sys2Proof.Machine

/-- Refutes O19: the leaf forwards a head of no class in the place of a REQ of the same PRIO, which the statement has win. -/
theorem not_leafForwardsTheArbitrationWinner : ¬ Obligations.LeafForwardsTheArbitrationWinner := by
  intro hall
  obtain ⟨hlive, hfrozen⟩ := tiedHeads_live
  obtain ⟨hprio, hbeats⟩ := tiedHeads_beats
  have hmem : releasedHead ∈ tiedHeads.cands (.leafToBranch 0) := by simp [tiedHeads_cands]
  obtain ⟨t, -, hrun, -, -, -, -, -, -, -, htail, -⟩ :=
    hall.1 tiedHeads 0 1 cREQ releasedWrite hlive tiedHeads_build_ok (by decide) hfrozen hmem hprio hbeats (fun _ => rfl)
  rw [tiedHeads_write.2.1] at htail
  exact tiedHeads_hop hrun htail

/-- Refutes O20: the same head goes before the released write, where the statement has the write go. -/
theorem not_releaseHoldsForEarlierWrites : ¬ Obligations.ReleaseHoldsForEarlierWrites := by
  intro hall
  obtain ⟨hlive, hfrozen⟩ := tiedHeads_live
  obtain ⟨hprio, hbeats⟩ := tiedHeads_beats
  obtain ⟨hslot, hq, hreqs, hhome, hcredit⟩ := tiedHeads_write
  obtain ⟨-, hgoes, -⟩ := hall tiedHeads 1 releasedWrite [] hlive tiedHeads_build_ok hslot hq rfl (.inl rfl) rfl (by decide) hhome rfl
  obtain ⟨t, -, hrun, -, -, -, -, htail, -⟩ := hgoes (by simp [hreqs]) hcredit hfrozen hprio hbeats
  exact tiedHeads_release hrun htail
end

section
/-! Obligation O33, refuted. The set sweep reads the Palette slots of the ways in S-pal and O-pal (R427), and a codeword of a slot with a
correctable error is counted in the panel's bucket of its Palette (R407, R415). The statement asks that the ways of the set read free of
errors and not that their slots do; where the sweep starts it has the words of space 0x6 stay. -/

namespace Sys2Proof.Machine

/-- A slot of agents 5 and 6. -/
def pairSlot : PSlot := { vec := vbit 5 ||| vbit 6, ref := 1, part := 3, valid := true }

/-- Its codewords, the first with one bit inverted. -/
def pairSlotCode (cw : Nat) : BitVec 80 := if cw = 0 then encW (pairSlot.word 0) ^^^ 1 else encW (pairSlot.word cw)

/-- The ways of the set: way 1 holds a line in S-pal, under slot 3. -/
def pairSet (w : Nat) : Ent := if w = 1 then { tag := 1, st := 5, pal := 3 } else {}

/-- Panel 0 with a trigger of set 7, which reads as `pairSet`; agents 5 and 6 have sweep support. -/
def pairSweep : State :=
  { overlapBlock { dir := (List.range 16).map fun w => (7 * 16 + w, (pairSet w).enc), trigs := [(7, 0)],
                   pal := (List.range 5).map fun cw => (3 * 8 + cw, pairSlotCode cw) } with
    ports := [(0, { overlapPort with mode := { kind := 1, feats := 4 } }),
      (1, { overlapPort with agent := 6, mode := { kind := 1, feats := 4 } })] }

theorem pairSweep_acts : pairSweep.acts 0 ∧ (pairSweep.panel 0).calm ∧ pairSweep.setReads 0 7 pairSet := by
  unfold State.acts Panel.calm State.setReads
  decide +kernel

/-- What the clause of the sweep that starts asks of the panel. -/
theorem pairSweep_starts : 7 < pairSweep.build.sets ∧ (7, 0) ∈ (pairSweep.panel 0).trigs ∧ (pairSweep.panel 0).htcs = [] ∧
    (pairSweep.px 0 {}).freeHtc 2 = some 992 ∧ (pairSweep.px 0 {}).setClear 992 7 = true ∧
    (pairSweep.caching fun y => y.mode.feats.testBit 2) ≠ 0 := by decide +kernel

/-- Every holder of the set has sweep support. -/
theorem pairSweep_able : ∀ w, w < 16 → let e := pairSet w
    e.st = 0 ∨ e.st = 8 ∨ let d := ((pairSweep.px 0 {}).holders e.canon).2
      (∀ a, a < 256 → d.vec.getLsbD a = true → pairSweep.feat a 2 = true) ∧ (isO d.ent.st = true → pairSweep.feat d.ent.agent 2 = true) := by
  decide +kernel

/-- The sweep counts the corrected codeword. -/
theorem pairSweep_run {t : State} (h : exec (.setSweepStart 0 7 {}) pairSweep = .next t) : t.w6 ≠ pairSweep.w6 := by
  have hrun : (match exec (.setSweepStart 0 7 {}) pairSweep with
    | .next u => u.w6
    | _ => pairSweep.w6) ≠ pairSweep.w6 := by decide +kernel
  rwa [h] at hrun

end Sys2Proof.Machine

open Sys2Proof Sys2Proof.Machine

/-- Refutes O33: a set sweep that starts reads a Palette slot with a correctable codeword, and counts it. -/
theorem not_setSweepStarts : ¬ Obligations.SetSweepStarts := by
  intro hall
  obtain ⟨hacts, hcalm, hreads⟩ := pairSweep_acts
  obtain ⟨hset, htrig, hnone, hfree, hclear, hask⟩ := pairSweep_starts
  obtain ⟨-, hstart⟩ := hall pairSweep 0 7 hacts hcalm hset
  obtain ⟨-, hgoes⟩ := hstart 992 0 htrig (by simp [hnone]) hfree (by simp [hnone])
  obtain ⟨t, hrun, ⟨-, -, -, -, -, -, -, -, -, -, -, -, -, hw6, -⟩, -⟩ :=
    (hgoes hclear (by simp [hnone]) hask (by simp [hnone])).1 pairSet hreads pairSweep_able
  exact pairSweep_run hrun hw6
end

section
/-! SUPPORT. The places of the tree: their queues stand apart, and where the leaves of a build lie. -/

namespace Sys2Proof.Machine

/-! ### Places -/

/-- Queues of two places are two. -/
theorem locKey_ne_of_locId {l k : Loc} {c d : Nat} (h : locId l ≠ locId k) (hc : c < 32) (hd : d < 32) : locKey l c ≠ locKey k d := by
  unfold locKey
  omega

/-- Queues of two classes at a place are two. -/
theorem locKey_ne_of_key {l : Loc} {c d : Nat} (h : c ≠ d) : locKey l c ≠ locKey l d := by
  unfold locKey
  omega

theorem Build.leafN_le (b : Build) : b.leafN ≤ 32 := by
  have h := List.length_filter_le (fun i => (b.leaves.getD i none).isSome) (List.range 32)
  rwa [List.length_range] at h

theorem Build.branchOf_lt (b : Build) (q : Nat) : b.branchOf q < 8 := by
  unfold Build.branchOf Build.leafPos
  cases h : b.positions[q]? with
  | none => decide
  | some i =>
    have hi : i ∈ b.positions := List.mem_of_getElem? h
    have : i < 32 := List.mem_range.1 (List.mem_filter.1 hi).1
    simp only [Option.getD_some]
    omega

/-- A slot lies at one of the leaves counted. -/
theorem slotGo_lt (l : List Nat) {n q : Nat} {e : Nat × Nat} (h : slotGo l n q = some e) : e.1 < q + l.length := by
  induction l generalizing n q with
  | nil => exact absurd h (by simp [slotGo])
  | cons c l ih =>
    rw [slotGo] at h
    rw [List.length_cons]
    split at h
    · simp only [Option.some.injEq] at h
      subst h
      simp
    · have := ih h
      omega

theorem Build.leafOf_lt (b : Build) (n : Nat) : b.leafOf n < 32 := by
  unfold Build.leafOf Build.slotAt
  cases h : slotGo b.portCounts n 0 with
  | none => decide
  | some e =>
    have hlt := slotGo_lt _ h
    have hlen : b.portCounts.length = b.leafN := List.length_map ..
    have := b.leafN_le
    simp only [Option.getD_some]
    omega

end Sys2Proof.Machine
end

section
/-! Obligation O21: multicasts split and acknowledgements combine in a router. -/

namespace Sys2Proof.Machine

variable {s : State} {r : Nat} {e : Comb} {k : Packet}

/-! ### Combining -/

/-- A combining entry with an acknowledgement added (R196). -/
def Comb.added (e : Comb) (k : Packet) : Comb :=
  let first := decide (e.combined = 0)
  let same := first || decide (e.epoch = k.hdr.epoch)
  { e with
    sum := e.sum + k.hdr.tag % 512, flags := e.flags ||| (k.hdr.marks + 16 * (k.hdr.size % 2)), who := e.who ||| k.vec,
    src := if first then k.hdr.src else e.src, epoch := if first then k.hdr.epoch else e.epoch,
    combined := e.combined + (if same then 1 else 0), other := e.other + (if same then 0 else 1) }

/-- What the entry counts: the epoch it emits with, and whether this acknowledgement has it. -/
theorem Comb.added_counts (e : Comb) (k : Packet) :
    let ep := if e.combined = 0 then k.hdr.epoch else e.epoch
    let here := if ep = k.hdr.epoch then 1 else 0
    (e.added k).src = (if e.combined = 0 then k.hdr.src else e.src) ∧ (e.added k).epoch = ep ∧
      (e.added k).combined = e.combined + here ∧ (e.added k).other = e.other + (1 - here) := by
  by_cases h : e.combined = 0
  · simp [Comb.added, h]
  · by_cases hk : e.epoch = k.hdr.epoch <;> simp [Comb.added, h, hk]

/-- A router in which the entry stands with the acknowledgement added. -/
def State.withAdded (s : State) (r : Nat) (e : Comb) (k : Packet) : State :=
  s.modRouter r fun x => { x with comb := x.comb.map fun y => if y.htc = e.htc then e.added k else y }

theorem State.combAdd_waits (hready : e.ready = false) (hlt : (e.added k).sum < e.expect) : s.combAdd r e k = s.withAdded r e k := by
  refine if_neg fun h => ?_
  rcases h with h | h
  · exact absurd h (Nat.not_le.2 hlt)
  · exact absurd h (by simp [hready])

theorem State.combAdd_emits (hle : e.expect ≤ (e.added k).sum) : s.combAdd r e k = (s.withAdded r e k).emit r (e.added k) :=
  if_pos (.inl hle)

/-- A router that an entry has left. -/
def Router.emitted (x : Router) (e : Comb) : Router :=
  { x with
    comb := x.comb.filter fun y => y.htc ≠ e.htc
    ej := (x.ej.set e.epoch (x.ej.getD e.epoch 0 + BitVec.ofNat 32 (e.combined - 1))).set (1 - e.epoch)
      ((x.ej.set e.epoch (x.ej.getD e.epoch 0 + BitVec.ofNat 32 (e.combined - 1))).getD (1 - e.epoch) 0 + BitVec.ofNat 32 e.other) }

/-- The acknowledgements that an entry combined away are counted in the epochs they had (R216). -/
theorem Router.emitted_ej {x : Router} (hlen : x.ej.length = 2) (hep : e.epoch < 2) :
    (x.emitted e).ej.getD e.epoch 0 = x.ej.getD e.epoch 0 + BitVec.ofNat 32 (e.combined - 1) ∧
      (x.emitted e).ej.getD (1 - e.epoch) 0 = x.ej.getD (1 - e.epoch) 0 + BitVec.ofNat 32 e.other := by
  obtain ⟨a, b, hab⟩ := List.length_eq_two.1 hlen
  have hcases : e.epoch = 0 ∨ e.epoch = 1 := by omega
  rcases hcases with h | h <;> simp [Router.emitted, hab, h]

/-- An entry that its output has a credit for goes out, and nothing else changes but its router. -/
theorem State.emit_credited (h : s.hasCredit (upLoc r) (combPacket e).hdr.cls = true) :
    (∃ m n, s.emit r e = { s with routers := m, net := n }) ∧ (s.emit r e).router r = (s.router r).emitted e ∧
      ∀ l c, locKey l c ≠ locKey (upLoc r) (combPacket e).hdr.cls → (s.emit r e).q l c = s.q l c := by
  unfold State.emit
  simp only
  rw [if_pos h]
  refine ⟨⟨_, _, rfl⟩, ?_, fun l c hne => ?_⟩
  · simp [State.addEj, State.router, State.modRouter, State.push, State.setQ, Router.emitted]
  · rw [State.q_push_ne _ _ hne]; rfl

/-- The acknowledgement at the head of a branch's input is taken and added to its entry (R196). -/
theorem State.combine_branch {q key : Nat} (hhead : (s.q (.branchUp q) key).head? = some k) (hack : isAck k = true)
    (hhas : s.combHas (32 + s.build.branchOf q) e) (hhtc : e.htc = k.hdr.htc) (hflaw : e.flaw = .ok)
    (hfroz : s.routerFrozen (32 + s.build.branchOf q) = false) :
    s.combine (.branchUp q) key .ok = if k.aux = 0 then (s.take (.branchUp q) key).combAdd (32 + s.build.branchOf q) e k else s := by
  have hat : routerAt s.build (.branchUp q) = 32 + s.build.branchOf q := rfl
  unfold State.combine
  simp only [hhead, hat]
  by_cases haux : k.aux = 0
  · have hof : s.combOf (32 + s.build.branchOf q) k = some e := by
      rw [State.combOf, if_pos ⟨hack, haux⟩, ← hhtc]
      exact hhas.find
    rw [hof, if_pos haux]
    simp only
    rw [if_neg (by simp [hfroz, upward])]
    exact State.withComb_sound _ hflaw
  · have hof : s.combOf (32 + s.build.branchOf q) k = none := if_neg fun h => haux h.2
    rw [hof, if_neg haux]

theorem execCombineAck_live {q : Nat} (hl : s.live) (hq : q < s.build.leafN) (mgt : Bool) :
    exec (.combineAck (.branchUp q) mgt .ok) s = .next (s.combine (.branchUp q) (if mgt then cMGT else cRSP) .ok) := by
  refine congrArg _ ((if_pos (by simpa [State.hasLoc] using hq)).trans ?_)
  exact State.whenLive_of_open s _ hl.1 hl.2

/-- Short of EXPECT the entry keeps the sum (R196). -/
theorem combineAck_adds {q key : Nat} (hhas : s.combHas (32 + s.build.branchOf q) e) (hready : e.ready = false)
    (hlt : (e.added k).sum < e.expect) :
    let t := (s.take (.branchUp q) key).combAdd (32 + s.build.branchOf q) e k
    SameBase s t ∧ SameHomes s t ∧ SamePins s t ∧ t.ports = s.ports ∧ Took s t (.branchUp q) key ∧
      e.added k ∈ (t.router (32 + s.build.branchOf q)).comb := by
  intro t
  have ht : t = (s.take (.branchUp q) key).withAdded (32 + s.build.branchOf q) e k := State.combAdd_waits hready hlt
  rw [ht]
  refine ⟨⟨rfl, rfl, rfl⟩, ⟨rfl, rfl, rfl⟩, ⟨rfl, rfl⟩, rfl, ⟨State.q_take .., State.owed_take .., fun l c hne => ⟨State.q_take_ne _ hne, ?_⟩⟩, ?_⟩
  · exact State.owed_owe_ne _ hne
  · rw [State.withAdded, State.router_modRouter]
    exact List.mem_map.2 ⟨e, hhas.1, if_pos rfl⟩

/-- At EXPECT the entry goes out as one acknowledgement (R196, R216). -/
theorem combineAck_emits {q key : Nat} (hq : q < 32) (hkey : key = if e.mgt then cMGT else cRSP) (hle : e.expect ≤ (e.added k).sum)
    (hcredit : s.hasCredit (.rootUp (s.build.branchOf q)) key = true) :
    let t := (s.take (.branchUp q) key).combAdd (32 + s.build.branchOf q) e k
    let a : Packet := { combPacket (e.added k) with capt := s.clk.cyc, skips := [] }
    SameBase s t ∧ SameHomes s t ∧ SamePins s t ∧ t.ports = s.ports ∧ t.q (.branchUp q) key = (s.q (.branchUp q) key).tail ∧
      t.q (.rootUp (s.build.branchOf q)) key = s.q (.rootUp (s.build.branchOf q)) key ++ [a] ∧
      ∃ x : Router, x.ej = (s.router (32 + s.build.branchOf q)).ej ∧
        t.router (32 + s.build.branchOf q) = x.emitted (e.added k) := by
  intro t a
  let u := (s.take (.branchUp q) key).withAdded (32 + s.build.branchOf q) e k
  have hcls : (combPacket (e.added k)).hdr.cls = key := hkey.symm
  have hloc : upLoc (32 + s.build.branchOf q) = .rootUp (s.build.branchOf q) := by
    rw [upLoc, if_neg (by omega), Nat.add_sub_cancel_left]
  have hkey32 : key < 32 := by rw [hkey]; split <;> decide
  have hne : locKey (.rootUp (s.build.branchOf q)) key ≠ locKey (.branchUp q) key :=
    locKey_ne_of_locId (by simp only [locId]; omega) hkey32 hkey32
  have huq : u.q (.rootUp (s.build.branchOf q)) key = s.q (.rootUp (s.build.branchOf q)) key := State.q_take_ne _ hne
  have howed : u.owed (.rootUp (s.build.branchOf q)) key = s.owed (.rootUp (s.build.branchOf q)) key := State.owed_owe_ne _ hne
  have hcr : u.hasCredit (upLoc (32 + s.build.branchOf q)) (combPacket (e.added k)).hdr.cls = true := by
    rw [hcls, hloc, State.hasCredit, huq, howed]
    exact hcredit
  have ht : t = u.emit (32 + s.build.branchOf q) (e.added k) := State.combAdd_emits hle
  obtain ⟨⟨m, n, heq⟩, hrouter, hother⟩ := State.emit_credited hcr
  have hq' := State.emit_q hcr
  rw [hcls, hloc] at hother hq'
  rw [ht]
  refine ⟨by rw [heq]; exact ⟨rfl, rfl, rfl⟩, by rw [heq]; exact ⟨rfl, rfl, rfl⟩, by rw [heq]; exact ⟨rfl, rfl⟩, by rw [heq]; rfl, ?_, ?_,
    u.router (32 + s.build.branchOf q), ?_, hrouter⟩
  · rw [hother _ _ hne.symm]
    exact State.q_take ..
  · rw [hq', huq]; rfl
  · simp only [u, State.withAdded, State.router_modRouter]; rfl

end Sys2Proof.Machine

end

section
/-! Obligation O21, its multicasts. A branch makes the combining entry as it begins to send, gives each leaf a copy with the leaf's part of
the vector, and answers itself for an agent that no leaf is mapped to (R191 to R195). -/

namespace Sys2Proof.Machine

variable {s : State} {o : HopOut} {w : Cand}

/-! ### A hop with one candidate -/

theorem bestBy_singleton (f : Cand → Nat) (c : Cand) : bestBy f [c] = some c := by
  simp [bestBy]

/-- A router whose output has last served a place. -/
def Router.served (o : HopOut) (l : Loc) (x : Router) : Router := { x with rr := smSet x.rr (outId o) (locId l) }

/-- The state in which the winner of an output has left its place, and the output has noted where it stood. -/
def State.granted (s : State) (o : HopOut) (w : Cand) : State :=
  (s.takeFor o w).1.modRouter (routerOut s.build o) (Router.served o w.l)

/-- An output that one head alone may take forwards it (R203). -/
theorem packetHop_only (h : s.only o w) (hout : s.hasOut o = true) (hne : ∀ p, o ≠ .rootToPanel p) :
    exec (.packetHop o {}) s = .next ((s.granted o w).arrive o w.l (s.takeFor o w).2 false {}) := by
  obtain ⟨hlive, -, hfroz, hcands⟩ := h
  have hpass : s.passOver o w [w] = s := if_pos ⟨rfl, rfl⟩
  have hone : s.hopOne o w [w] false {} = (s.granted o w).arrive o w.l (s.takeFor o w).2 false {} := by
    unfold State.hopOne State.granted
    simp only [State.bucket, ite_self, hpass, reduceCtorEq, false_and, and_false, if_false]
    split
    · exact absurd rfl (hne _)
    · exact absurd rfl (hne _)
    · rfl
  have hhop : s.hop o {} = s.hopOne o w [w] false {} := by
    unfold State.hop
    simp only [hfroz, Bool.false_eq_true, if_false]
    change (match s.pickOut (routerOut s.build o) o (s.cands o) with | some c => s.hopOne o c (s.cands o) false {} | none => s) = _
    rw [hcands, State.pickOut, bestBy_singleton]
  rw [← hone, ← hhop]
  exact congrArg _ ((if_pos hout).trans (State.whenLive_of_open s _ hlive.1 hlive.2))

/-! ### A part of a multicast -/

variable {k : Packet} {v : Vec}

/-- A packet of class SNP for many agents. -/
theorem tgtOf_multi (b : Build) (hcls : k.hdr.cls = cSNP) (hdst : k.hdr.dst = nMulti) : tgtOf b k = .multi := by
  have hsnoop : isSnoop k = true := by simp [isSnoop, hcls]
  unfold tgtOf
  simp only [hcls]
  rw [if_neg (by decide), if_neg (by decide), if_pos hsnoop, if_pos hdst]

/-- The output's part is the one that the multicast lists for it. -/
theorem find_part {la : List (HopOut × Vec)} (hmem : (o, v) ∈ la) (hnodup : (la.map (·.1)).Nodup) :
    la.find? (fun e => decide (e.1 = o)) = some (o, v) := by
  obtain ⟨e, he⟩ : ∃ e, la.find? (fun e => decide (e.1 = o)) = some e :=
    Option.isSome_iff_exists.1 (List.find?_isSome.2 ⟨_, hmem, by simp⟩)
  have heq : e.1 = o := by simpa using List.find?_some he
  rw [he, List.inj_on_of_nodup_map hnodup (List.mem_of_find?_eq_some he) hmem heq]

/-- What is left of a multicast at its place once a part of it has gone (R191). -/
def State.partGone (s : State) (o : HopOut) (w : Cand) (v : Vec) : State :=
  if w.k.la.erase (o, v) = [] then s.popAt w.l w.key
  else s.setQ w.l w.key
    ({ w.k with vec := w.k.vec &&& ~~~v, la := w.k.la.erase (o, v), whole := false, skips := w.k.skips.filter fun e => e.1 ≠ o } ::
      (s.q w.l w.key).tail)

/-- The copy of a multicast that an output sends: to an agent by its name, and else with its part of the vector (R191, R192). -/
def partCopy (o : HopOut) (k : Packet) (v : Vec) : Packet :=
  match o with
  | .leafToPort _ => { k with vec := 0, la := [], whole := false, hdr := { k.hdr with dst := (lowest v).getD 0 } }
  | _ => { k with vec := v, la := [], whole := false }

/-- An output takes its part of a multicast that comes down; with the first part the router begins to forward it (R191, R194). -/
theorem takeFor_part (hmulti : tgtOf s.build w.k = .multi) (hdown : upward w.l = false) (hplace : ∀ p, w.l ≠ .panelOut p)
    (hmem : (o, v) ∈ w.k.la) (hnodup : (w.k.la.map (·.1)).Nodup) :
    s.takeFor o w = ((if w.k.whole then s.split (routerAt s.build w.l) w.k else s).partGone o w v, partCopy o w.k v) := by
  have hla : s.laOf w.l w.k = w.k.la := if_neg (List.ne_nil_of_mem hmem)
  obtain ⟨l, key, k⟩ := w
  unfold State.takeFor
  simp only at hla hmulti hdown hmem hnodup hplace ⊢
  rw [if_pos (Or.inl ⟨hmulti, by simp [hdown]⟩), hla, find_part hmem hnodup]
  cases o <;> rfl

/-! ### What a router answers itself -/

/-- Router `r` has put answers of class `c` among its own, and counted them; nothing else has changed. -/
structure Answering (s t : State) (r c : Nat) : Prop where
  frame : ∃ m n, t = { s with routers := m, net := { s.net with qs := n } }
  queues : ∀ l d, locKey l d ≠ locKey (.synth r) c → t.q l d = s.q l d
  others : ∀ i, i ≠ r → t.router i = s.router i
  own : ∃ a b, t.router r = { s.router r with unrouted := a, inj := b }

variable {r c : Nat}

theorem Answering.refl (s : State) (r c : Nat) : Answering s s r c := ⟨⟨_, _, rfl⟩, fun _ _ _ => rfl, fun _ _ => rfl, ⟨_, _, rfl⟩⟩

theorem Answering.trans {s t u : State} (h : Answering s t r c) (k : Answering t u r c) : Answering s u r c := by
  obtain ⟨⟨m, n, rfl⟩, hq, ho, a, b, hown⟩ := h
  obtain ⟨⟨m', n', rfl⟩, hq', ho', a', b', hown'⟩ := k
  refine ⟨⟨m', n', rfl⟩, fun l d hne => (hq' l d hne).trans (hq l d hne), fun i hi => (ho' i hi).trans (ho i hi), a', b', ?_⟩
  rw [hown', hown]

theorem Answering.unrouted (s : State) (r c n : Nat) : Answering s (s.unrouted r n) r c :=
  ⟨⟨_, _, rfl⟩, fun _ _ _ => rfl, fun _ hi => State.router_modRouter_ne _ _ hi, ⟨_, _, State.router_modRouter ..⟩⟩

theorem Answering.addInj (s : State) (r c e : Nat) (n : BitVec 32) : Answering s (s.addInj r e n) r c :=
  ⟨⟨_, _, rfl⟩, fun _ _ _ => rfl, fun _ hi => State.router_modRouter_ne _ _ hi, ⟨_, _, State.router_modRouter ..⟩⟩

theorem Answering.push (s : State) (r c : Nat) (x : Packet) : Answering s (s.push (.synth r) c x) r c :=
  ⟨⟨_, _, rfl⟩, fun _ _ hne => State.q_push_ne _ _ hne, fun _ _ => rfl, ⟨_, _, rfl⟩⟩

theorem Answering.inject (s : State) (r : Nat) (h : Hdr) (own : Bool) (who : Vec) :
    Answering s (s.inject r h own who) r (if h.cls = cSNP then cRSP else h.cls) := (Answering.push ..).trans (.addInj ..)

/-- What a router answers stands last in its own queue of that class. -/
theorem State.inject_q (s : State) (r : Nat) (h : Hdr) (own : Bool) (who : Vec) {c : Nat} (hc : (if h.cls = cSNP then cRSP else h.cls) = c) :
    (s.inject r h own who).q (.synth r) c =
      s.q (.synth r) c ++ [{ hdr := { h with cls := c }, vec := who, aux := b2n own, capt := s.clk.cyc, skips := [] }] := by
  subst hc
  exact State.q_push ..

/-- A snoop of class SNP is answered with class RSP. -/
theorem Answering.notHeld (s : State) (r : Nat) {h : Hdr} (hcls : h.cls = cSNP) (a : Nat) : Answering s (s.notHeld r h a) r cRSP := by
  have hans := Answering.inject s r (synthAck { h with epoch := s.ansEpoch r h.epoch } h.cls a 0 1) (ownOpc h.opc) (vbit a)
  rwa [show (synthAck { h with epoch := s.ansEpoch r h.epoch } h.cls a 0 1).cls = cSNP from hcls, if_pos rfl] at hans

theorem Answering.answerUnmapped (s : State) (r : Nat) (hcls : k.hdr.cls = cSNP) (un : Vec) :
    Answering s (s.answerUnmapped r k un) r cRSP := by
  unfold State.answerUnmapped
  generalize members un = l
  induction l generalizing s with
  | nil => exact .refl ..
  | cons a l ih => exact ((Answering.unrouted ..).trans (.notHeld _ _ hcls a)).trans (ih _)

theorem members_zero : members 0 = [] := by simp [members]

theorem members_vbit {a : Nat} (ha : a < 256) : members (vbit a) = [a] := by
  unfold members
  have hfilter : (List.range 256).filter (fun b => (vbit a).getLsbD b) = (List.range 256).filter (fun b => b == a) :=
    List.filter_congr fun b hb => by rw [getLsbD_vbit (List.mem_range.1 hb)]; rfl
  rw [hfilter, List.filter_beq, List.count_eq_one_of_mem List.nodup_range (List.mem_range.2 ha)]; rfl

/-- The answer of a router for one agent of a snoop of class SNP. -/
theorem answerUnmapped_one {a : Nat} (ha : a < 256) (hcls : k.hdr.cls = cSNP) :
    let t := s.answerUnmapped r k (vbit a)
    (t.router r).unrouted = ctrAdd (s.router r).unrouted 1 ∧ ∃ y, t.q (.synth r) cRSP = s.q (.synth r) cRSP ++ [y] ∧
      y.hdr.cls = cRSP ∧ y.hdr.opc = oSnpAck ∧ y.hdr.htc = k.hdr.htc ∧ y.hdr.prio = k.hdr.prio ∧ y.hdr.src = a ∧ y.hdr.tag = 1 ∧
      y.hdr.marks = 0 ∧ y.hdr.size = 1 := by
  have hone : s.answerUnmapped r k (vbit a) = (s.unrouted r 1).notHeld r k.hdr a := by
    rw [State.answerUnmapped, members_vbit ha]; rfl
  rw [hone]
  refine ⟨?_, ?_⟩
  · simp [State.notHeld, State.inject, State.addInj, State.unrouted, State.router, State.modRouter, State.push, State.setQ]
  · refine ⟨_, State.inject_q (s.unrouted r 1) r _ _ _ (if_pos hcls), rfl, ?_, rfl, rfl, rfl, rfl, rfl, rfl⟩
    simp [synthAck, hcls]

/-! ### The split at a branch -/

/-- A router's combining table once a multicast begins: an entry more, or a COMB_MISS (R194, R195). -/
def Router.allocated (x : Router) (k : Packet) (cap cyc : Nat) : Router :=
  if cap ≤ x.comb.length then { x with combMiss := ctrAdd x.combMiss 1 }
  else { x with comb := x.comb ++ [
    { htc := k.hdr.htc, mgt := decide (k.hdr.cls = cMGT), expect := popc k.vec, born := cyc, world := k.hdr.world,
      part := k.hdr.part, prio := k.hdr.prio, epoch := k.hdr.epoch, addr := k.hdr.addr }] }

/-- The agents of a multicast that its router has no output for. -/
def unmappedOf (k : Packet) : Vec := k.vec &&& ~~~(k.la.foldl (fun z e => z ||| e.2) 0)

/-- A router that begins to forward a multicast makes its entry, and answers for the agents that it has no output for (R191 to R195). -/
structure Splits (s t : State) (r : Nat) (k : Packet) : Prop where
  frame : ∃ m n, t = { s with routers := m, net := { s.net with qs := n } }
  queues : ∀ l d, locKey l d ≠ locKey (.synth r) cRSP → t.q l d = s.q l d
  others : ∀ i, i ≠ r → t.router i = s.router i
  comb : (t.router r).comb = ((s.router r).allocated k (combCap r) s.clk.cyc).comb
  miss : (t.router r).combMiss = ((s.router r).allocated k (combCap r) s.clk.cyc).combMiss
  none : unmappedOf k = 0 → t.q (.synth r) cRSP = s.q (.synth r) cRSP ∧ (t.router r).unrouted = (s.router r).unrouted
  one : ∀ a, a < 256 → unmappedOf k = vbit a → (t.router r).unrouted = ctrAdd (s.router r).unrouted 1 ∧
    ∃ y, Answered s t r k y ∧ y.hdr.src = a ∧ y.hdr.tag = 1 ∧ y.hdr.marks = 0 ∧ y.hdr.size = 1

theorem Router.allocated_unrouted (x : Router) (k : Packet) (cap cyc : Nat) : (x.allocated k cap cyc).unrouted = x.unrouted := by
  unfold Router.allocated
  split <;> rfl

theorem State.split_splits (s : State) (hr : r < 40) (hmany : 2 ≤ popc k.vec) (hcls : k.hdr.cls = cSNP) : Splits s (s.split r k) r k := by
  let u := s.modRouter r fun x => x.allocated k (combCap r) s.clk.cyc
  have hu : u.router r = (s.router r).allocated k (combCap r) s.clk.cyc := State.router_modRouter ..
  have halloc : s.combAlloc r k = u := if_neg (by omega)
  have hsplit : s.split r k = (u.answerUnmapped r k (unmappedOf k)).addInj r k.hdr.epoch (BitVec.ofNat 32 (k.la.length - 1)) := by
    rw [← halloc]; rfl
  have hunr : ((s.split r k).router r).unrouted = ((u.answerUnmapped r k (unmappedOf k)).router r).unrouted := by
    rw [hsplit, State.addInj, State.router_modRouter]
  have hq (l : Loc) (d : Nat) : (s.split r k).q l d = (u.answerUnmapped r k (unmappedOf k)).q l d := by rw [hsplit]; rfl
  obtain ⟨⟨m, n, heq⟩, hqueues, hothers, a, b, hown⟩ : Answering u (s.split r k) r cRSP := by
    rw [hsplit]
    exact (Answering.answerUnmapped _ r hcls _).trans (.addInj ..)
  refine ⟨⟨m, n, heq⟩, hqueues, fun i hi => (hothers i hi).trans (State.router_modRouter_ne _ _ hi), by rw [hown, hu], by rw [hown, hu],
    fun hno => ?_, fun a ha hno => ?_⟩
  · rw [hq, hunr, hno, State.answerUnmapped, members_zero]
    exact ⟨rfl, by rw [List.foldl_nil, hu, Router.allocated_unrouted]⟩
  · obtain ⟨hcount, y, hy, hycls, hyopc, hyhtc, hyprio, hysrc, hytag, hymarks, hysize⟩ := answerUnmapped_one (s := u) (r := r) ha hcls
    rw [hunr, hno, hcount, hu, Router.allocated_unrouted]
    have hsnp : ¬ k.hdr.cls = cMGT := by rw [hcls]; decide
    refine ⟨rfl, y, ?_, hysrc, hytag, hymarks, hysize⟩
    unfold Answered
    simp only [if_neg hsnp]
    refine ⟨by rw [hq, hno, hy]; rfl, fun d _ hd => hqueues _ _ (locKey_ne_of_key hd), hycls, hyopc, hyhtc, hyprio⟩

/-! ### Into the leaf -/

/-- A multicast that its leaf has an output for stands in the leaf's queue, its outputs looked ahead (R178, R193). -/
theorem State.enter_leaf {q a : Nat} (hq : q < 32) (hcls : k.hdr.cls = cSNP) (hdst : k.hdr.dst = nMulti) (ha : a < 256)
    (hmem : k.vec.getLsbD a = true) (hchild : (s.child q k.hdr.epoch a).isSome = true) :
    ∃ c, s.enter (.leafDown q) k = s.push (.leafDown q) cSNP c ∧ c.hdr = k.hdr ∧ c.vec = k.vec ∧ c.desc = k.desc := by
  have hmulti := tgtOf_multi s.build hcls hdst
  have hnotReq : ¬ k.hdr.cls = cREQ := by rw [hcls]; decide
  have hkey : s.laneKey (.leafDown q) k = cSNP := (if_neg fun h => hnotReq h.2.1).trans hcls
  have hroute : s.routeOf (.leafDown q) k ≠ [] := by
    obtain ⟨o, ho⟩ := Option.isSome_iff_exists.1 hchild
    have hin : (o, vbit a) ∈ s.routeOf (.leafDown q) k := by
      unfold State.routeOf
      simp only [hmulti, upward, Bool.false_eq_true, if_false]
      rw [if_pos (show routerAt s.build (.leafDown q) < 32 from hq)]
      exact List.mem_flatMap.2 ⟨a, by simp [members, ha, hmem],
        by simp [show s.child (routerAt s.build (.leafDown q)) k.hdr.epoch a = some o from ho]⟩
    exact List.ne_nil_of_mem hin
  have hahead : s.lookAhead (.leafDown q) k = { k with la := s.routeOf (.leafDown q) k, whole := true } := by
    unfold State.lookAhead
    rw [hmulti]; rfl
  have henter : s.enter (.leafDown q) k = s.enterMulti q (.leafDown q) cSNP k := by
    unfold State.enter
    simp only [upward, Bool.false_eq_true, if_false, hmulti, hkey]; rfl
  refine ⟨{ k with la := s.routeOf (.leafDown q) k, whole := true }, ?_, rfl, rfl, rfl⟩
  rw [henter, State.enterMulti, hahead]
  exact if_neg hroute

/-- A child depends on its router's table alone. -/
theorem State.child_congr {t : State} {q : Nat} (hb : t.build = s.build) (hr : t.router q = s.router q) (e a : Nat) :
    t.child q e a = s.child q e a := by rw [State.child, State.child, hb, hr]

/-- A part of the multicast at the head of a branch's own queue has gone, and nothing else has changed (R191). -/
structure PartGone (u g : State) (b : Nat) (k : Packet) (e : HopOut × Vec) (rest : List Packet) : Prop where
  frame : ∃ n, g = { u with net := n }
  queues : ∀ l d, locKey l d ≠ locKey (.branchDown b) cSNP → g.q l d = u.q l d
  last : k.la = [e] → g.q (.branchDown b) cSNP = rest
  more : k.la ≠ [e] → ∃ y, g.q (.branchDown b) cSNP = y :: rest ∧ y.hdr = k.hdr ∧ y.vec = k.vec &&& ~~~e.2 ∧ y.whole = false ∧
    y.la = k.la.erase e

theorem State.partGone_branch {u : State} {b : Nat} {rest : List Packet} (hq : u.q (.branchDown b) cSNP = k :: rest) (hmem : (o, v) ∈ k.la) :
    PartGone u (u.partGone o { l := .branchDown b, key := cSNP, k := k } v) b k (o, v) rest := by
  have hiff : k.la.erase (o, v) = [] ↔ k.la = [(o, v)] := by
    rw [List.erase_eq_nil_iff]
    exact or_iff_right (List.ne_nil_of_mem hmem)
  unfold State.partGone
  by_cases hlast : k.la = [(o, v)]
  · rw [if_pos (hiff.2 hlast)]
    refine ⟨⟨_, rfl⟩, fun l d hne => State.q_take_ne _ hne, fun _ => ?_, fun h => absurd hlast h⟩
    exact (State.q_take ..).trans (by rw [hq, List.tail_cons])
  · rw [if_neg (mt hiff.1 hlast)]
    let y : Packet := { k with
      vec := k.vec &&& ~~~v, la := k.la.erase (o, v), whole := false, skips := k.skips.filter fun e => e.1 ≠ o }
    refine ⟨⟨_, rfl⟩, fun l d hne => State.q_setQ_ne _ _ hne, fun h => absurd h hlast, fun _ => ⟨y, ?_, rfl, rfl, rfl, rfl⟩⟩
    exact (State.q_setQ ..).trans (by rw [hq, List.tail_cons])

/-- A branch begins a multicast with the part of leaf `q`: it splits, the part leaves, and its copy stands in the leaf's queue (R191 to
R195). -/
theorem branchToLeaf_next {q a : Nat} {rest : List Packet} (hq : q < s.build.leafN)
    (honly : s.only (.branchToLeaf q) { l := .branchDown (s.build.branchOf q), key := cSNP, k := k })
    (hhead : s.q (.branchDown (s.build.branchOf q)) cSNP = k :: rest) (hcls : k.hdr.cls = cSNP) (hdst : k.hdr.dst = nMulti)
    (hmany : 2 ≤ popc k.vec) (hwhole : k.whole = true) (hmem : (.branchToLeaf q, v) ∈ k.la) (hnodup : (k.la.map (·.1)).Nodup)
    (ha : a < 256) (hva : v.getLsbD a = true) (hchild : (s.child q k.hdr.epoch a).isSome = true) :
    ∃ u g c, Splits s u (32 + s.build.branchOf q) k ∧ PartGone u g (s.build.branchOf q) k (.branchToLeaf q, v) rest ∧
      exec (.packetHop (.branchToLeaf q) {}) s =
        .next ((g.modRouter (32 + s.build.branchOf q) (Router.served (.branchToLeaf q) (.branchDown (s.build.branchOf q)))).push
          (.leafDown q) cSNP c) ∧ c.hdr = k.hdr ∧ c.vec = v ∧ c.desc = k.desc := by
  let b := s.build.branchOf q
  let o := HopOut.branchToLeaf q
  let w : Cand := { l := .branchDown b, key := cSNP, k := k }
  have hq32 : q < 32 := hq.trans_le s.build.leafN_le
  have hb8 : b < 8 := s.build.branchOf_lt q
  have hrun := packetHop_only honly (decide_eq_true hq) (by simp)
  have htake : s.takeFor o w = ((s.split (32 + b) k).partGone o w v, partCopy o k v) := by
    rw [takeFor_part (w := w) (tgtOf_multi _ hcls hdst) rfl (by simp [w]) hmem hnodup, if_pos hwhole]; rfl
  have hsplit : Splits s (s.split (32 + b) k) (32 + b) k := s.split_splits (by omega) hmany hcls
  have hheadSplit : (s.split (32 + b) k).q (.branchDown b) cSNP = k :: rest := by
    rw [hsplit.queues _ _ (locKey_ne_of_locId (by simp only [locId]; omega) (by decide) (by decide)), hhead]
  have hgone := State.partGone_branch (v := v) hheadSplit hmem
  have hgranted : s.granted o w = ((s.split (32 + b) k).partGone o w v).modRouter (32 + b) (Router.served o w.l) := by
    rw [State.granted, htake]; rfl
  rw [hgranted, htake] at hrun
  obtain ⟨m, n', hframe⟩ := hsplit.frame
  obtain ⟨n, hnet⟩ := hgone.frame
  generalize (s.split (32 + b) k).partGone o w v = g at hgone hnet hrun
  have hbuild : (g.modRouter (32 + b) (Router.served o w.l)).build = s.build := by rw [hnet, hframe]; rfl
  have hrouter : (g.modRouter (32 + b) (Router.served o w.l)).router q = s.router q := by
    rw [State.router_modRouter_ne _ _ (by omega), ← hsplit.others q (by omega), hnet]; rfl
  obtain ⟨c, henter, hchdr, hcvec, hcdesc⟩ := State.enter_leaf (s := g.modRouter (32 + b) (Router.served o w.l)) (k := partCopy o k v) hq32
    hcls hdst ha hva (by rw [State.child_congr hbuild hrouter]; exact hchild)
  exact ⟨_, g, c, hsplit, hgone, hrun.trans (congrArg _ henter), hchdr, hcvec, hcdesc⟩

end Sys2Proof.Machine
end

section
/-! Obligation O21, settled. A leaf sends the agent at a port a copy of a multicast without vector, under the agent's own name (R195). -/

namespace Sys2Proof.Machine

variable {s : State} {n : Nat} {k : Packet} {v : Vec}

/-! ### The port output -/

/-- A change of lane that waits touches no more of the port than its PRIO (R205). -/
theorem State.settlePrio_becomes (s : State) (n : Nat) :
    ∃ p q, PortBecomes s (s.settlePrio n) n { s.port n with prio := p, prioPend := q } := by
  have hkeep : PortBecomes s s n { s.port n with prio := (s.port n).prio, prioPend := (s.port n).prioPend } :=
    ⟨⟨_, rfl⟩, rfl, fun _ _ => rfl⟩
  cases hp : (s.port n).prioPend with
  | none =>
    have hsame : s.settlePrio n = s := by simp only [State.settlePrio, hp]
    exact ⟨_, _, by rw [hsame]; exact hkeep⟩
  | some w =>
    by_cases hfree : s.prioFree n
    · exact ⟨_, _, by rw [State.settlePrio_free hp hfree]; exact .setPort ..⟩
    · exact ⟨_, _, by rw [State.settlePrio_busy hp hfree]; exact hkeep⟩

/-- What leaves the downward dual-clock queue of a class, and its credits (R278). -/
def State.sendDown (s : State) (n : Nat) (can : Nat → Nat) (c : Nat) : State :=
  (s.setQ (.portDown n) c ((s.q (.portDown n) c).drop (can c))).modPort n fun y =>
    { y with dnCrd := y.dnCrd.set c (y.dnCrd.getD c 0 - can c) }

/-- Sending from the queues of a list of classes changes them and the port's credits, and nothing else. -/
theorem foldl_sendDown (n : Nat) (can : Nat → Nat) {l : List Nat} (hl : l.Nodup) (s : State) :
    let t := l.foldl (fun (s : State) c => s.sendDown n can c) s
    ∃ m y d, t = { s with ports := m, net := { s.net with qs := y } } ∧ OtherPorts s t n ∧ t.port n = { s.port n with dnCrd := d } ∧
      d.length = (s.port n).dnCrd.length ∧
      (∀ c, c < d.length → d.getD c 0 = if c ∈ l then (s.port n).dnCrd.getD c 0 - can c else (s.port n).dnCrd.getD c 0) ∧
      ∀ p e, (∀ c ∈ l, locKey p e ≠ locKey (.portDown n) c) → t.q p e = s.q p e := by
  induction l generalizing s with
  | nil => exact ⟨s.ports, s.net.qs, (s.port n).dnCrd, rfl, fun _ _ => rfl, rfl, rfl, fun _ _ => (if_neg List.not_mem_nil).symm, fun _ _ _ => rfl⟩
  | cons c l ih =>
    obtain ⟨hc, hl⟩ := List.nodup_cons.1 hl
    obtain ⟨m, y, d, heq, hother, hport, hlen, hcrd, hq⟩ := ih hl (s.sendDown n can c)
    have hp : (s.sendDown n can c).port n = { s.port n with dnCrd := (s.port n).dnCrd.set c ((s.port n).dnCrd.getD c 0 - can c) } :=
      State.port_modPort ..
    rw [hp] at hport hlen hcrd
    rw [List.length_set] at hlen
    refine ⟨m, y, d, heq, fun i hi => (hother i hi).trans (State.port_modPort_ne _ _ hi), hport, hlen, fun i hi => ?_, fun p e hne => ?_⟩
    · rw [hcrd i hi]
      by_cases hic : i = c
      · subst hic
        rw [if_neg hc, if_pos List.mem_cons_self, List.getD_eq_getElem _ _ (by rw [List.length_set]; omega), List.getElem_set_self]
      · have hget : ((s.port n).dnCrd.set c ((s.port n).dnCrd.getD c 0 - can c)).getD i 0 = (s.port n).dnCrd.getD i 0 := by
          rw [List.getD_eq_getElem?_getD, List.getElem?_set_ne (Ne.symm hic), ← List.getD_eq_getElem?_getD]
        simp only [hget, List.mem_cons, hic, false_or]
    · rw [List.foldl_cons, hq p e fun i hi => hne i (List.mem_cons_of_mem c hi)]
      exact State.q_setQ_ne _ _ (hne c List.mem_cons_self)

/-- Where one packet of class SNP alone waits for a partner with a credit, it is sent (R278). -/
theorem State.pumpPort_one (hq : s.q (.portDown n) cSNP = [k]) (hempty : ∀ c, c < 6 → c ≠ cSNP → s.q (.portDown n) c = [])
    (hcredit : 0 < (s.port n).dnCrd.getD cSNP 0) (hfroz : s.routerFrozen (s.build.leafOf n) = false) (hpoison : k.hdr.poison = false) :
    ∃ can, can cSNP = 1 ∧ s.pumpPort n .ok .ok =
      ((List.range 6).foldl (fun (s : State) c => s.sendDown n can c) s).out (.pkt n k (k.flits (s.port n).width)) := by
  let can (c : Nat) : Nat := min (s.q (.portDown n) c).length ((s.port n).dnCrd.getD c 0)
  have hone : can cSNP = 1 := by
    simp only [can, hq, List.length_singleton]
    omega
  have hout : ((List.range 6).flatMap fun c => (s.q (.portDown n) c).take (can c)) = [k] := by
    have htake (c : Nat) (hc : c < 6) (hne : c ≠ cSNP) : (s.q (.portDown n) c).take (can c) = [] := by rw [hempty c hc hne, List.take_nil]
    have hsnp : (s.q (.portDown n) 2).take (can 2) = [k] := by
      rw [show can 2 = 1 from hone, show s.q (.portDown n) 2 = [k] from hq]; rfl
    simp only [List.range_succ, List.range_zero, List.nil_append, List.flatMap_append, List.flatMap_cons, List.flatMap_nil, List.append_nil]
    rw [htake 0 (by decide) (by decide), htake 1 (by decide) (by decide), hsnp, htake 3 (by decide) (by decide),
      htake 4 (by decide) (by decide), htake 5 (by decide) (by decide)]; rfl
  have hpartner : forPartner (s.port n) k = k := if_neg fun h => by simp [hpoison] at h
  refine ⟨can, hone, ?_⟩
  unfold State.pumpPort
  simp only
  rw [hout]
  simp only [List.isEmpty_cons, hfroz, Bool.or_self, Bool.false_eq_true, if_false, reduceCtorEq, State.bucket, ite_self, and_false,
    List.foldl_cons, List.foldl_nil, hpartner]
  rfl

/-- A snoop that its port owes an acknowledgement for (R442). -/
def Owes (x y : Port) (k : Packet) : Prop :=
  ∃ e, y.psnp = x.psnp ++ [e] ∧ e.htc = k.hdr.htc ∧ e.mgt = false ∧ e.tiv = false

/-- A snoop of class SNP crosses to an admitted port: the port owes it, and it stands in the downward queue under the agent's name. -/
theorem State.deliverPort_enters (hadm : (s.port n).lstate = .admitted) (hcls : k.hdr.cls = cSNP) :
    ∃ x : Port, Owes (s.port n) x k ∧ x.dnCrd = (s.port n).dnCrd ∧ s.deliverPort n k .ok .ok =
      ((((s.setPort n x).addEj (s.build.leafOf n) k.hdr.epoch 1).push (.portDown n) cSNP
        { k with hdr := { k.hdr with dst := (s.port n).agent } }).settlePrio n).pumpPort n .ok .ok := by
  have hsnoop : isSnoop k = true := by simp [isSnoop, hcls]
  have htiv : isTiv k = false := by simp [isTiv, hcls]
  unfold State.deliverPort
  simp only
  rw [if_neg (not_not.2 hadm), if_pos (by simp [hsnoop]), hcls]
  refine ⟨_, ?_, ?_, rfl⟩
  · exact ⟨_, rfl, if_neg (by simp [htiv]), rfl, htiv⟩
  · rfl

/-- Port `n` has sent packet `c` to its partner: its queues and its port have changed, and nothing else. -/
structure Sends (s t : State) (n : Nat) (c : Packet) : Prop where
  frame : ∃ m y fl, t = { s with ports := m, net := { s.net with qs := y }, outs := s.outs ++ [.pkt n c fl] }
  others : OtherPorts s t n
  queues : ∀ l e, (∀ d, d < 6 → locKey l e ≠ locKey (.portDown n) d) → t.q l e = s.q l e

theorem State.port_out (o : Out) (i : Nat) : (s.out o).port i = s.port i := by rw [State.port, State.port, State.out_ports]

theorem State.q_out (o : Out) (l : Loc) (c : Nat) : (s.out o).q l c = s.q l c := by rw [State.q, State.q, State.out_net]

/-- The one packet that waits is sent, and its credit is used (R278). -/
theorem State.pumpPort_sends (hq : s.q (.portDown n) cSNP = [k]) (hempty : ∀ c, c < 6 → c ≠ cSNP → s.q (.portDown n) c = [])
    (hlen : (s.port n).dnCrd.length = 6) (hcredit : 0 < (s.port n).dnCrd.getD cSNP 0)
    (hfroz : s.routerFrozen (s.build.leafOf n) = false) (hpoison : k.hdr.poison = false) (hopen : s.clk.cellsOpen = true) :
    Sends s (s.pumpPort n .ok .ok) n k ∧ ((s.pumpPort n .ok .ok).port n).psnp = (s.port n).psnp ∧
      ((s.pumpPort n .ok .ok).port n).dnCrd.getD cSNP 0 = (s.port n).dnCrd.getD cSNP 0 - 1 := by
  obtain ⟨can, hcan, hpump⟩ := State.pumpPort_one hq hempty hcredit hfroz hpoison
  obtain ⟨m, y, d, hframe, hother, hport, hdlen, hd, hqueues⟩ := foldl_sendDown n can (List.nodup_range (n := 6)) s
  rw [hpump]
  generalize (List.range 6).foldl (fun (s : State) c => s.sendDown n can c) s = z at hframe hother hport hqueues
  have hlt : cSNP < d.length := by rw [hdlen, hlen]; decide
  refine ⟨⟨⟨m, y, k.flits (s.port n).width, ?_⟩, fun i hi => ?_, fun l e hne => ?_⟩, ?_, ?_⟩
  · rw [State.out, hframe, if_pos hopen]
  · rw [State.port_out, hother i hi]
  · rw [State.q_out, hqueues l e fun i hi => hne i (List.mem_range.1 hi)]
  · rw [State.port_out, hport]
  · rw [State.port_out, hport, hd cSNP hlt, if_pos (by decide), hcan]

/-- The port sends it to its partner, which has a credit (R278, R442). -/
theorem State.deliverPort_sends (hadm : (s.port n).lstate = .admitted) (hcls : k.hdr.cls = cSNP) (hpoison : k.hdr.poison = false)
    (hempty : ∀ c, c < 6 → s.q (.portDown n) c = []) (hlen : (s.port n).dnCrd.length = 6) (hcredit : 0 < (s.port n).dnCrd.getD cSNP 0)
    (hfroz : s.routerFrozen (s.build.leafOf n) = false) (hopen : s.clk.cellsOpen = true) :
    let t := s.deliverPort n k .ok .ok
    ∃ c fl, SameBase s t ∧ SameHomes s t ∧ t.clk = s.clk ∧ OtherPorts s t n ∧ t.outs = s.outs ++ [.pkt n c fl] ∧
      c.hdr = { k.hdr with dst := (s.port n).agent } ∧ c.vec = k.vec ∧ c.desc = k.desc ∧ Owes (s.port n) (t.port n) k ∧
      (t.port n).dnCrd.getD cSNP 0 = (s.port n).dnCrd.getD cSNP 0 - 1 ∧
      ∀ l d, (∀ c, c < 6 → locKey l d ≠ locKey (.portDown n) c) → t.q l d = s.q l d := by
  obtain ⟨x, ⟨e, hpsnp, hentry⟩, hcrd, heq⟩ := State.deliverPort_enters hadm hcls
  let a : Packet := { k with hdr := { k.hdr with dst := (s.port n).agent } }
  let g := (s.setPort n x).addEj (s.build.leafOf n) k.hdr.epoch 1
  let c : Packet := { a with capt := g.clk.cyc, skips := [] }
  have hgport : (g.push (.portDown n) cSNP a).port n = x := State.port_setPort ..
  have hgother : OtherPorts s (g.push (.portDown n) cSNP a) n := fun i hi => State.port_setPort_ne s x hi
  have hg {d : Nat} (hd : d < 6) : g.q (.portDown n) d = [] := hempty d hd
  have hgsnp : (g.push (.portDown n) cSNP a).q (.portDown n) cSNP = [c] := by
    rw [State.q_push, hg (by decide), List.nil_append]
  have hgempty (d : Nat) (hd : d < 6) (hne : d ≠ cSNP) : (g.push (.portDown n) cSNP a).q (.portDown n) d = [] := by
    rw [State.q_push_ne _ _ (locKey_ne_of_key hne), hg hd]
  have hgq (l : Loc) (d : Nat) (hne : ∀ c, c < 6 → locKey l d ≠ locKey (.portDown n) c) :
      (g.push (.portDown n) cSNP a).q l d = s.q l d := State.q_push_ne _ _ (hne cSNP (by decide))
  have hgframe : ∃ m y z, g.push (.portDown n) cSNP a = { s with ports := m, routers := y, net := { s.net with qs := z } } := ⟨_, _, _, rfl⟩
  change s.deliverPort n k .ok .ok = ((g.push (.portDown n) cSNP a).settlePrio n).pumpPort n .ok .ok at heq
  generalize g.push (.portDown n) cSNP a = u at hgport hgother hgsnp hgempty hgq hgframe heq
  obtain ⟨m, y, z, hgframe⟩ := hgframe
  obtain ⟨p, q, ⟨m', hset⟩, hsport, hsother⟩ := State.settlePrio_becomes u n
  rw [hgport] at hsport
  generalize u.settlePrio n = w at hset hsport hsother heq
  have hwq (l : Loc) (d : Nat) : w.q l d = u.q l d := by rw [hset]; rfl
  have hwcrd : (w.port n).dnCrd = (s.port n).dnCrd := by rw [hsport]; exact hcrd
  obtain ⟨⟨⟨m'', y', fl, hsent⟩, hother, hq⟩, hkeep, hused⟩ := State.pumpPort_sends (s := w) (n := n) (k := c) ((hwq _ _).trans hgsnp)
    (fun d hd hne => (hwq _ _).trans (hgempty d hd hne)) (by rw [hwcrd, hlen]) (by rw [hwcrd]; exact hcredit)
    (by rw [hset, hgframe]; exact hfroz) hpoison (by rw [hset, hgframe]; exact hopen)
  rw [heq]
  generalize w.pumpPort n .ok .ok = t at hsent hother hq hkeep hused
  rw [hset, hgframe] at hsent
  refine ⟨c, fl, by rw [hsent]; exact ⟨rfl, rfl, rfl⟩, by rw [hsent]; exact ⟨rfl, rfl, rfl⟩, by rw [hsent], fun i hi => ?_, by rw [hsent],
    rfl, rfl, rfl, ⟨e, ?_, hentry⟩, by rw [hused, hwcrd], fun l d hne => ?_⟩
  · rw [hother i hi, hsother i hi, hgother i hi]
  · rw [hkeep, hsport]; exact hpsnp
  · rw [hq l d hne, hwq, hgq l d hne]

/-- A leaf sends the agent at a port its copy of a multicast, which the port then owes (R192, R442). -/
theorem leafToPort_sends {rest : List Packet} (hn : n < s.build.slots)
    (honly : s.only (.leafToPort n) { l := .leafDown (s.build.leafOf n), key := cSNP, k := k })
    (hhead : s.q (.leafDown (s.build.leafOf n)) cSNP = k :: rest) (hcls : k.hdr.cls = cSNP) (hdst : k.hdr.dst = nMulti)
    (hpoison : k.hdr.poison = false) (hwhole : k.whole = false) (hla : k.la = [(.leafToPort n, v)])
    (hadm : (s.port n).lstate = .admitted) (hempty : ∀ c, c < 6 → s.q (.portDown n) c = []) (hlen : (s.port n).dnCrd.length = 6)
    (hcredit : 0 < (s.port n).dnCrd.getD cSNP 0) :
    ∃ t c fl, exec (.packetHop (.leafToPort n) {}) s = .next t ∧ SameBase s t ∧ SameHomes s t ∧ t.clk = s.clk ∧ OtherPorts s t n ∧
      t.q (.leafDown (s.build.leafOf n)) cSNP = rest ∧ t.outs = s.outs ++ [.pkt n c fl] ∧ c.hdr = { k.hdr with dst := (s.port n).agent } ∧
      c.vec = 0 ∧ c.desc = k.desc ∧ Owes (s.port n) (t.port n) k ∧
      (t.port n).dnCrd.getD cSNP 0 = (s.port n).dnCrd.getD cSNP 0 - 1 := by
  let q := s.build.leafOf n
  let w : Cand := { l := .leafDown q, key := cSNP, k := k }
  have hq32 : q < 32 := s.build.leafOf_lt n
  have hmem : ((.leafToPort n, v) : HopOut × Vec) ∈ w.k.la := by rw [hla]; exact List.mem_singleton_self _
  have htake : s.takeFor (.leafToPort n) w = (s.take (.leafDown q) cSNP, partCopy (.leafToPort n) k v) := by
    rw [takeFor_part (w := w) (tgtOf_multi _ hcls hdst) rfl (by simp [w]) hmem (by simp [w, hla])]
    simp [w, hwhole, State.partGone, hla, State.popAt]
  obtain ⟨⟨hlive, hopen⟩, -, hfroz, -⟩ := id honly
  have hrun := packetHop_only honly (decide_eq_true hn) (by simp)
  rw [State.granted, htake] at hrun
  let g := (s.take (.leafDown q) cSNP).modRouter (routerOut s.build (.leafToPort n)) (Router.served (.leafToPort n) w.l)
  have hdown {c d : Nat} (hc : c < 32) (hd : d < 32) : locKey (.leafDown q) c ≠ locKey (.portDown n) d :=
    locKey_ne_of_locId (by simp only [locId]; omega) hc hd
  have hgempty : ∀ c, c < 6 → g.q (.portDown n) c = [] := fun c hc =>
    (State.q_take_ne s (hdown (by decide) (by omega)).symm).trans (hempty c hc)
  obtain ⟨c, fl, hbase, hhomes, hclk, hother, houts, hchdr, hcvec, hcdesc, howes, hcrd, hqueues⟩ :=
    State.deliverPort_sends (s := g) (n := n) (k := partCopy (.leafToPort n) k v) hadm hcls hpoison hgempty hlen hcredit hfroz hopen
  refine ⟨_, c, fl, hrun, hbase, hhomes, hclk, hother, ?_, houts, hchdr, hcvec, hcdesc, howes, hcrd⟩
  refine (hqueues _ _ fun d hd => hdown (by decide) (by omega)).trans ?_
  exact (State.q_take ..).trans (by rw [hhead, List.tail_cons])

end Sys2Proof.Machine

open Sys2Proof Sys2Proof.Machine

/-- Settles O21: an acknowledgement is added to its entry, which goes out at EXPECT (`combineAck_adds`, `combineAck_emits`); a branch splits
a multicast (`branchToLeaf_next`), and a leaf sends an agent its copy (`leafToPort_sends`). -/
theorem acknowledgementsCombine : Obligations.AcknowledgementsCombine := by
  refine ⟨?_, ?_, ?_⟩
  · intro s q mgt k e hl hok hq r key sum flags hhead hack hhas hhtc hmgt hready hflaw hfroz ep here
    obtain ⟨hsrc, hep, hcomb, hother⟩ := e.added_counts k
    have hrun := (execCombineAck_live hl hq mgt).trans (congrArg _ (State.combine_branch hhead hack hhas hhtc hflaw hfroz))
    refine ⟨fun haux => ?_, fun haux hlt => ?_, fun haux hle hcredit => ?_⟩
    · rwa [if_neg haux] at hrun
    · rw [if_pos haux] at hrun
      obtain ⟨hbase, hhomes, hpins, hports, htook, hmem⟩ := combineAck_adds (key := key) hhas hready hlt
      exact ⟨_, hrun, hbase, hhomes, hpins, hports, htook, _, hmem, rfl, rfl, rfl, rfl, hsrc, hep, hcomb, hother⟩
    · rw [if_pos haux] at hrun
      have hkey : key = if e.mgt then cMGT else cRSP := by rw [hmgt]
      obtain ⟨hbase, hhomes, hpins, hports, htail, hq', x, hej, hrouter⟩ :=
        combineAck_emits (k := k) (hq.trans_le s.build.leafN_le) hkey hle hcredit
      refine ⟨_, _, hrun, hbase, hhomes, hpins, hports, htail, hq', hkey.symm, rfl, rfl, hsrc, rfl, by simp [combPacket, Comb.added, hmgt]; rfl, hep,
        fun hlt hlen => ?_, fun y hy => ?_⟩
      · have hcount := Router.emitted_ej (e := e.added k) (x := x) (by rw [hej]; exact hlen) (by rw [hep]; exact hlt)
        rw [hep, hcomb, hother, hej] at hcount
        rw [hrouter]
        exact hcount
      · rw [hrouter, Router.emitted, List.mem_filter] at hy
        simpa [Comb.added] using hy.2
  · intro s q k rest v hq o b x no honly hhead hcls hdst hown hmany hwhole hmem hnodup hchild
    obtain ⟨a, ha, hva, hsome⟩ := hchild
    have hq32 : q < 32 := hq.trans_le s.build.leafN_le
    have hb8 : b < 8 := s.build.branchOf_lt q
    obtain ⟨u, g, c, ⟨⟨m, n', hframe⟩, hqueues, -, hcomb, hmiss, hnone, hone⟩, ⟨⟨n, hnet⟩, hgoneQ, hlast, hmore⟩, hnext, hchdr, hcvec, hcdesc⟩ :=
      branchToLeaf_next hq honly hhead hcls hdst hmany hwhole hmem hnodup ha hva hsome
    have hleafDown : locKey (.leafDown q) cSNP ≠ locKey (.branchDown b) cSNP :=
      locKey_ne_of_locId (by simp only [locId]; omega) (by decide) (by decide)
    have hsynthBranch {d : Nat} (hd : d < 32) : locKey (.synth (32 + b)) d ≠ locKey (.branchDown b) cSNP :=
      locKey_ne_of_locId (by simp only [locId]; omega) hd (by decide)
    have hsynthLeaf {d : Nat} (hd : d < 32) : locKey (.synth (32 + b)) d ≠ locKey (.leafDown q) cSNP :=
      locKey_ne_of_locId (by simp only [locId]; omega) hd (by decide)
    have hself : (g.modRouter (32 + b) (Router.served o (.branchDown b))).router (32 + b) =
        (u.router (32 + b)).served o (.branchDown b) := by rw [State.router_modRouter, hnet]; rfl
    have hkeep {l : Loc} {d : Nat} (hne : locKey l d ≠ locKey (.leafDown q) cSNP) :
        ((g.modRouter (32 + b) (Router.served o (.branchDown b))).push (.leafDown q) cSNP c).q l d = g.q l d := State.q_push_ne _ _ hne
    have hsynth {d : Nat} (hd : d < 32) :
        ((g.modRouter (32 + b) (Router.served o (.branchDown b))).push (.leafDown q) cSNP c).q (.synth (32 + b)) d =
          u.q (.synth (32 + b)) d := by rw [hkeep (hsynthLeaf hd), hgoneQ _ _ (hsynthBranch hd)]
    rw [show combCap (32 + b) = 256 from if_neg (by omega)] at hcomb hmiss
    refine ⟨_, { c with capt := s.clk.cyc, skips := [] }, hnext, by rw [hnet, hframe]; exact ⟨rfl, rfl, rfl⟩,
      by rw [hnet, hframe]; exact ⟨rfl, rfl, rfl⟩, by rw [hnet, hframe]; exact ⟨rfl, rfl⟩, by rw [hnet, hframe]; rfl, ?_, hchdr, hcvec, hcdesc,
      rfl, fun hla => ?_, fun hla => ?_, fun hroom => ?_, fun hfull => ?_, fun hno => ?_, fun a ha hno => ?_⟩
    · rw [State.q_push, show (g.modRouter (32 + b) (Router.served o (.branchDown b))).q (.leafDown q) cSNP = s.q (.leafDown q) cSNP from
        (hgoneQ _ _ hleafDown).trans (hqueues _ _ (hsynthLeaf (by decide)).symm),
        show (g.modRouter (32 + b) (Router.served o (.branchDown b))).clk = s.clk by rw [hnet, hframe]; rfl]
    · rw [hkeep hleafDown.symm, hlast hla]
    · rw [hkeep hleafDown.symm]
      exact hmore hla
    · rw [Router.allocated, if_neg (Nat.not_le.2 hroom)] at hcomb hmiss
      exact ⟨(congrArg Router.combMiss hself).trans hmiss, _, (congrArg Router.comb hself).trans hcomb, rfl,
        by simp [hcls, cSNP, cMGT], rfl, rfl, rfl, rfl, rfl⟩
    · rw [Router.allocated, if_pos hfull] at hcomb hmiss
      exact ⟨(congrArg Router.comb hself).trans hcomb, (congrArg Router.combMiss hself).trans hmiss⟩
    · exact ⟨(hsynth (by decide)).trans (hnone hno).1, (congrArg Router.unrouted hself).trans (hnone hno).2⟩
    · obtain ⟨hcount, y, ⟨hy, hyother, hyhdr⟩, hyfields⟩ := hone a ha hno
      have hsnp : ¬ k.hdr.cls = cMGT := by rw [hcls]; decide
      rw [if_neg hsnp] at hy
      refine ⟨(congrArg Router.unrouted hself).trans hcount, y, ⟨?_, fun d hd hne => (hsynth (by omega)).trans (hyother d hd hne), hyhdr⟩, hyfields⟩
      rw [if_neg hsnp]
      exact (hsynth (by decide)).trans hy
  · intro s n k rest v hn q o x honly hhead hcls hdst hpoison hwhole hla hadm hempty hlen hcredit
    obtain ⟨t, c, fl, hrun, hbase, hhomes, hclk, hother, hq, houts, hchdr, hcvec, hcdesc, ⟨e, hpsnp, hhtc, hmgt, htiv⟩, hcrd⟩ :=
      leafToPort_sends hn honly hhead hcls hdst hpoison hwhole hla hadm hempty hlen hcredit
    exact ⟨t, c, fl, e, hrun, hbase, hhomes, hclk, hother, hq, houts, hchdr, hcvec, hcdesc, hpsnp, hhtc, hmgt, htiv, hcrd⟩
end

section
/-! SUPPORT. A port's entry to DEAD (R290, R292, R444, R445): what becomes of its queues, and what the leaf sends in its place. -/

namespace Sys2Proof.Machine

variable {s t u : State} {n q : Nat}

/-! ### Queues that change alone -/

/-- Nothing has changed but queues of the tree, and what the routers count. -/
def QueuesOnly (s t : State) : Prop := ∃ m y, t = { s with routers := m, net := { s.net with qs := y } }

theorem QueuesOnly.refl (s : State) : QueuesOnly s s := ⟨_, _, rfl⟩

theorem QueuesOnly.trans (h : QueuesOnly s t) (k : QueuesOnly t u) : QueuesOnly s u := by
  obtain ⟨_, _, rfl⟩ := h
  obtain ⟨_, _, rfl⟩ := k
  exact ⟨_, _, rfl⟩

theorem QueuesOnly.foldl {α : Type} {f : State → α → State} (hf : ∀ s a, QueuesOnly s (f s a)) (l : List α) (s : State) :
    QueuesOnly s (l.foldl f s) := by
  induction l generalizing s with
  | nil => exact .refl s
  | cons a l ih => exact (hf s a).trans (ih _)

/-- Queues of place `l` have been emptied, and no other place's have changed. -/
structure Empties (s t : State) (l : Loc) : Prop where
  only : QueuesOnly s t
  others : ∀ k d, (∀ c, c < 6 → locKey k d ≠ locKey l c) → t.q k d = s.q k d
  stays : ∀ d, s.q l d = [] → t.q l d = []

theorem Empties.trans {l : Loc} (h : Empties s t l) (k : Empties t u l) : Empties s u l :=
  ⟨h.only.trans k.only, fun i d hi => (k.others i d hi).trans (h.others i d hi), fun d hd => k.stays d (h.stays d hd)⟩

theorem Empties.setQ {l : Loc} {c : Nat} (hc : c < 6) (hqs : t.net.qs = s.net.qs) (ht : QueuesOnly s t) : Empties s (t.setQ l c []) l where
  only := ht.trans ⟨_, _, rfl⟩
  others k d h := (State.q_setQ_ne _ _ (h c hc)).trans (by rw [State.q, State.q, hqs])
  stays d h := by
    by_cases hdc : d = c
    · rw [hdc]; exact State.q_setQ ..
    · rw [State.q_setQ_ne _ _ (locKey_ne_of_key hdc), State.q, hqs]; exact h

/-- One queue of a place after the other is emptied. -/
theorem Empties.foldl {l : Loc} {f : State → Nat → State} {cs : List Nat}
    (hf : ∀ s, ∀ c ∈ cs, Empties s (f s c) l ∧ (f s c).q l c = []) (s : State) :
    Empties s (cs.foldl f s) l ∧ ∀ c ∈ cs, (cs.foldl f s).q l c = [] := by
  induction cs generalizing s with
  | nil => exact ⟨⟨.refl s, fun _ _ _ => rfl, fun _ h => h⟩, by simp⟩
  | cons a cs ih =>
    obtain ⟨hone, hgone⟩ := hf s a (by simp)
    obtain ⟨hrest, hall⟩ := ih (fun u c hc => hf u c (by simp [hc])) (f s a)
    refine ⟨hone.trans hrest, fun c hc => ?_⟩
    rcases List.mem_cons.1 hc with rfl | hc
    · exact hrest.stays _ hgone
    · exact hall c hc

/-- A router's own queues have grown, and no other queue has changed. -/
structure Grows (s t : State) (r : Nat) : Prop where
  only : QueuesOnly s t
  others : ∀ l d, d < 32 → locId l ≠ locId (.synth r) → t.q l d = s.q l d
  more : ∀ c, ∀ k ∈ s.q (.synth r) c, k ∈ t.q (.synth r) c

variable {r c : Nat}

theorem Grows.refl (s : State) (r : Nat) : Grows s s r := ⟨.refl s, fun _ _ _ _ => rfl, fun _ _ h => h⟩

theorem Grows.trans (h : Grows s t r) (k : Grows t u r) : Grows s u r :=
  ⟨h.only.trans k.only, fun l d hd hl => (k.others l d hd hl).trans (h.others l d hd hl), fun c x hx => k.more c x (h.more c x hx)⟩

theorem Grows.push (s : State) (r : Nat) (hc : c < 32) (x : Packet) : Grows s (s.push (.synth r) c x) r where
  only := ⟨_, _, rfl⟩
  others l d hd hl := State.q_push_ne _ _ (locKey_ne_of_locId hl hd hc)
  more d k hk := by
    by_cases hdc : d = c
    · rw [hdc] at hk ⊢
      rw [State.q_push]
      exact List.mem_append_left _ hk
    · rwa [State.q_push_ne _ _ (locKey_ne_of_key hdc)]

theorem Grows.inject (s : State) (r : Nat) (h : Hdr) (own : Bool) (who : Vec) (hc : h.cls < 32) : Grows s (s.inject r h own who) r := by
  have hcls : (if h.cls = cSNP then cRSP else h.cls) < 32 := by split <;> [decide; exact hc]
  obtain ⟨-, hother, hmore⟩ := Grows.push s r hcls { hdr := { h with cls := if h.cls = cSNP then cRSP else h.cls }, vec := who, aux := b2n own }
  exact ⟨⟨_, _, rfl⟩, hother, hmore⟩

/-- What a router sends of its own, one packet after the other. -/
theorem Grows.foldl {α : Type} {f : State → α → State} (hf : ∀ s a, Grows s (f s a) r) (l : List α) (s : State) :
    Grows s (l.foldl f s) r := by
  induction l generalizing s with
  | nil => exact .refl s r
  | cons a l ih => exact (hf s a).trans (ih _)

/-- What one element of the list puts there stays there. -/
theorem Grows.foldl_mem {α : Type} {f : State → α → State} (hf : ∀ s a, Grows s (f s a) r) {P : Packet → Prop} {l : List α} {a : α}
    (ha : a ∈ l) (hp : ∀ u, ∃ k ∈ (f u a).q (.synth r) c, P k) (s : State) : ∃ k ∈ (l.foldl f s).q (.synth r) c, P k := by
  obtain ⟨pre, post, rfl⟩ := List.append_of_mem ha
  rw [List.foldl_append, List.foldl_cons]
  obtain ⟨k, hk, hpk⟩ := hp (pre.foldl f s)
  exact ⟨k, (Grows.foldl hf post _).more c k hk, hpk⟩

/-! ### The steps of the entry to DEAD -/

/-- A port as it enters DEAD. -/
def Port.died (x : Port) (cause : Nat) : Port :=
  { x with
    lstate := .dead, fencing := false, eclOp := false, cause := cause, held := x.shold, psnp := [], reqs := [], upq := [],
    prio := x.prioPend.getD x.prio, prioPend := none, rstSince := x.rst || decide (cause = 4), reclaimed := false,
    upFreed := [0, 0, 0, 0, 0, 0] }

/-- The downward queues of a port that dies are emptied. -/
def State.cutDown (s : State) (n : Nat) : State := (List.range 6).foldl (fun s c => s.setQ (.portDown n) c []) s

/-- The packets of a port that dies are discarded from the leaf's input, and counted as gone. -/
def State.cutUp (s : State) (n q : Nat) : State :=
  [cREQ, cWBK, cRSP, cDAT, cMGT].foldl (fun s c =>
    (s.q (.leafUp n) c).foldl (fun s y => s.addEj q y.hdr.epoch 1) s |>.setQ (.leafUp n) c []) s

/-- The leaf's answer to a message that a dead port owes (R444, R445). -/
def State.answerFor (q agent ep : Nat) (s : State) (e : PSnp) : State :=
  if e.tiv then s.inject q (tivDone agent e.htc ep e.world e.part)
  else s.inject q (synthAck { htc := e.htc, world := e.world, part := e.part, prio := e.prio, epoch := ep, addr := e.addr }
    (if e.mgt then cMGT else cRSP) agent (if e.owner then (if e.fwd then 5 else 1) else 0) (if e.owner then 0 else 1)) e.owner

/-- The death marker to panel `p` (R292). -/
def State.markerTo (q agent ep : Nat) (cut : BitVec 256) (s : State) (p : Nat) : State :=
  s.push (.synth q) cWBK { hdr := { cls := cWBK, opc := 63, src := agent, epoch := ep }, desc := cut, home := p, aux := agent }

/-- The queues of the tree once a port has died, as the leaf leaves them. -/
def State.deathQueues (s : State) (n cause : Nat) : State :=
  let x := s.port n
  let q := s.build.leafOf n
  let ep := (s.router q).epoch
  let u := x.psnp.foldl (State.answerFor q x.agent ep) (((s.setPort n (x.died cause)).cutDown n).cutUp n q)
  (List.range u.build.panels).foldl (State.markerTo q x.agent ep (packHtcs (s.heldFwds n))) u

/-- What the entry of port `n` to DEAD tells the rest of the block (R290, R389, R390, R544). -/
def State.tellDeath (s : State) (n : Nat) : State := ((((s.eclipseEnds n 5).event 0).irqS 19).stage 0x60 1).sendState n

theorem State.portDead_eq (s : State) (n cause : Nat) : s.portDead n cause = (s.deathQueues n cause).tellDeath n := rfl

theorem State.q_tellDeath (s : State) (n : Nat) (l : Loc) (c : Nat) : (s.tellDeath n).q l c = s.q l c := State.q_out ..

theorem State.port_tellDeath (s : State) (n i : Nat) : (s.tellDeath n).port i = s.port i := State.port_out ..

theorem State.tellDeath_frame (s : State) (n : Nat) : (s.tellDeath n).panels = s.panels ∧ (s.tellDeath n).mps = s.mps ∧
    (s.tellDeath n).clk = s.clk ∧ (s.tellDeath n).host.prof = s.host.prof ∧ (s.tellDeath n).ez.events = s.ez.events ||| 1 ∧
    (s.tellDeath n).host.irqStatS = s.host.irqStatS ||| (1#25 <<< 19) := by
  simp only [State.tellDeath, State.sendState, State.out_panels, State.out_mps, State.out_clk, State.out_host, State.out_ez]
  exact ⟨rfl, rfl, rfl, rfl, rfl, rfl⟩

theorem State.outs_tellDeath (hopen : s.clk.cellsOpen = true) (n : Nat) : (s.tellDeath n).outs =
    s.outs ++ [.link n (linkWords [BitVec.ofNat 32 (0x84000000 + lsCode (s.port n).lstate)])] := if_pos hopen

theorem State.cutDown_empties (s : State) (n : Nat) :
    Empties s (s.cutDown n) (.portDown n) ∧ ∀ c, c < 6 → (s.cutDown n).q (.portDown n) c = [] := by
  obtain ⟨h, hall⟩ := Empties.foldl (l := .portDown n) (f := fun s c => s.setQ (.portDown n) c []) (cs := List.range 6)
    (fun s c hc => ⟨.setQ (List.mem_range.1 hc) rfl (.refl s), State.q_setQ ..⟩) s
  exact ⟨h, fun c hc => hall c (List.mem_range.2 hc)⟩

theorem State.addEjs_only (s : State) (q : Nat) (l : List Packet) :
    QueuesOnly s (l.foldl (fun s y => s.addEj q y.hdr.epoch 1) s) ∧ (l.foldl (fun s y => s.addEj q y.hdr.epoch 1) s).net = s.net := by
  induction l generalizing s with
  | nil => exact ⟨.refl s, rfl⟩
  | cons y l ih =>
    obtain ⟨hall, hnet⟩ := ih (s.addEj q y.hdr.epoch 1)
    exact ⟨.trans ⟨_, _, rfl⟩ hall, hnet⟩

theorem State.cutUp_empties (s : State) (n q : Nat) :
    Empties s (s.cutUp n q) (.leafUp n) ∧ ∀ c ∈ [cREQ, cWBK, cRSP, cDAT, cMGT], (s.cutUp n q).q (.leafUp n) c = [] := by
  refine Empties.foldl (l := .leafUp n) (fun u c hc => ?_) s
  obtain ⟨honly, hnet⟩ := u.addEjs_only q (u.q (.leafUp n) c)
  have hlt : ∀ c ∈ [cREQ, cWBK, cRSP, cDAT, cMGT], c < 6 := by decide
  exact ⟨.setQ (hlt c hc) (congrArg _ hnet) honly, State.q_setQ ..⟩

theorem Grows.answerFor (q agent ep : Nat) (s : State) (e : PSnp) : Grows s (State.answerFor q agent ep s e) q := by
  unfold State.answerFor
  cases e.tiv
  · exact Grows.inject _ _ _ _ _ (by simp only [synthAck]; split <;> decide)
  · exact Grows.inject _ _ _ _ _ (show cRSP < 32 by decide)

theorem Grows.markerTo (q agent ep : Nat) (cut : BitVec 256) (s : State) (p : Nat) : Grows s (State.markerTo q agent ep cut s p) q :=
  .push _ _ (by decide) _

/-- A port's entry to DEAD, as far as the ports and the tree's queues go. -/
structure DeathQueues (s t : State) (n cause : Nat) : Prop where
  only : QueuesOnly (s.setPort n ((s.port n).died cause)) t
  down : ∀ c, c < 6 → t.q (.portDown n) c = []
  up : ∀ c, c < 6 → c ≠ cSNP → t.q (.leafUp n) c = []
  markers : ∀ p, p < s.build.panels → ∃ k ∈ t.q (.synth (s.build.leafOf n)) cWBK,
    k.home = p ∧ k.aux = (s.port n).agent ∧ k.hdr.src = (s.port n).agent ∧ k.hdr.opc = 63
  answers : ∀ e ∈ (s.port n).psnp, e.tiv = false → ∃ k ∈ t.q (.synth (s.build.leafOf n)) (if e.mgt then cMGT else cRSP),
    k.hdr.src = (s.port n).agent ∧ k.hdr.htc = e.htc ∧ k.hdr.tag = 1 ∧
    k.hdr.marks = (if e.owner then (if e.fwd then 5 else 1) else 0) ∧ k.hdr.size = (if e.owner then 0 else 1)
  tivs : ∀ e ∈ (s.port n).psnp, e.tiv = true → ∃ k ∈ t.q (.synth (s.build.leafOf n)) cRSP,
    k.hdr.src = (s.port n).agent ∧ k.hdr.opc = oTIvDone ∧ k.hdr.tag = e.htc

theorem answerFor_snoop (q agent ep : Nat) {e : PSnp} (he : e.tiv = false) (u : State) :
    ∃ k ∈ (State.answerFor q agent ep u e).q (.synth q) (if e.mgt then cMGT else cRSP), k.hdr.src = agent ∧ k.hdr.htc = e.htc ∧
      k.hdr.tag = 1 ∧ k.hdr.marks = (if e.owner then (if e.fwd then 5 else 1) else 0) ∧ k.hdr.size = (if e.owner then 0 else 1) := by
  have hcls : (if (if e.mgt then cMGT else cRSP) = cSNP then cRSP else if e.mgt then cMGT else cRSP) = if e.mgt then cMGT else cRSP := by
    cases e.mgt <;> decide
  rw [State.answerFor, he, if_neg Bool.false_ne_true, State.inject_q _ _ _ _ _ hcls]
  exact ⟨_, List.mem_append_right _ (List.mem_singleton_self _), rfl, rfl, rfl, rfl, rfl⟩

theorem answerFor_tiv (q agent ep : Nat) {e : PSnp} (he : e.tiv = true) (u : State) :
    ∃ k ∈ (State.answerFor q agent ep u e).q (.synth q) cRSP, k.hdr.src = agent ∧ k.hdr.opc = oTIvDone ∧ k.hdr.tag = e.htc := by
  rw [State.answerFor, if_pos he, State.inject_q (c := cRSP) _ _ _ _ _ rfl]
  exact ⟨_, List.mem_append_right _ (List.mem_singleton_self _), rfl, rfl, rfl⟩

theorem markerTo_marks (q agent ep : Nat) (cut : BitVec 256) (p : Nat) (u : State) :
    ∃ k ∈ (State.markerTo q agent ep cut u p).q (.synth q) cWBK, k.home = p ∧ k.aux = agent ∧ k.hdr.src = agent ∧ k.hdr.opc = 63 := by
  rw [State.markerTo, State.q_push]
  exact ⟨_, List.mem_append_right _ (List.mem_singleton_self _), rfl, rfl, rfl, rfl⟩

theorem State.deathQueues_spec (s : State) (hn : n < 256) (cause : Nat) : DeathQueues s (s.deathQueues n cause) n cause := by
  have hq : s.build.leafOf n < 32 := Build.leafOf_lt _ _
  obtain ⟨hdown, hdownGone⟩ := (s.setPort n ((s.port n).died cause)).cutDown_empties n
  obtain ⟨hup, hupGone⟩ := ((s.setPort n ((s.port n).died cause)).cutDown n).cutUp_empties n (s.build.leafOf n)
  have hanswer := Grows.foldl (Grows.answerFor (s.build.leafOf n) (s.port n).agent (s.router (s.build.leafOf n)).epoch) (s.port n).psnp
    (((s.setPort n ((s.port n).died cause)).cutDown n).cutUp n (s.build.leafOf n))
  have hmark (u : State) := Grows.foldl (Grows.markerTo (s.build.leafOf n) (s.port n).agent (s.router (s.build.leafOf n)).epoch
    (packHtcs (s.heldFwds n))) (List.range u.build.panels) u
  have honly := (hdown.only.trans hup.only).trans hanswer.only
  have hall := hanswer.trans (hmark _)
  have hupId : locId (.leafUp n) ≠ locId (.synth (s.build.leafOf n)) := by simp only [locId]; omega
  have hdownId : locId (.portDown n) ≠ locId (.synth (s.build.leafOf n)) := by simp only [locId]; omega
  refine ⟨honly.trans (hmark _).only, fun c hc => ?_, fun c hc hsnp => ?_, fun p hp => ?_, fun e he htiv => ?_, fun e he htiv => ?_⟩
  · refine (hall.others _ c (by omega) hdownId).trans ((hup.others _ c fun d hd => ?_).trans (hdownGone c hc))
    exact locKey_ne_of_locId (by simp only [locId]; omega) (by omega) (by omega)
  · have hmem : c ∈ [cREQ, cWBK, cRSP, cDAT, cMGT] := by
      have hsix : ∀ c, c < 6 → c ≠ cSNP → c ∈ [cREQ, cWBK, cRSP, cDAT, cMGT] := by decide
      exact hsix c hc hsnp
    exact (hall.others _ c (by omega) hupId).trans (hupGone c hmem)
  · refine Grows.foldl_mem (Grows.markerTo _ _ _ _) (List.mem_range.2 ?_) (markerTo_marks _ _ _ _ p) _
    obtain ⟨m, y, hu⟩ := honly
    rw [hu]
    exact hp
  · obtain ⟨k, hk, hspec⟩ := Grows.foldl_mem (Grows.answerFor _ _ _) he (answerFor_snoop _ _ _ htiv) _
    exact ⟨k, (hmark _).more _ k hk, hspec⟩
  · obtain ⟨k, hk, hspec⟩ := Grows.foldl_mem (Grows.answerFor _ _ _) he (answerFor_tiv _ _ _ htiv) _
    exact ⟨k, (hmark _).more _ k hk, hspec⟩

theorem State.portDead_port (s : State) (hn : n < 256) (cause : Nat) : (s.portDead n cause).port n = (s.port n).died cause := by
  obtain ⟨m, y, hu⟩ := (s.deathQueues_spec hn cause).only
  rw [State.portDead_eq, State.port_tellDeath, hu]
  exact State.port_setPort ..

/-- A port in DEAD has died (R290, R292). -/
theorem State.portDead_died (s : State) (hn : n < 256) (hopen : s.clk.cellsOpen = true) (cause : Nat) :
    Died s (s.portDead n cause) n cause := by
  have hport := s.portDead_port hn cause
  obtain ⟨⟨m, y, hu⟩, hdown, hup, hmarkers, hanswers, htivs⟩ := s.deathQueues_spec hn cause
  have hq (l : Loc) (c : Nat) : (s.portDead n cause).q l c = (s.deathQueues n cause).q l c := by
    rw [State.portDead_eq, State.q_tellDeath]
  have hother : OtherPorts s (s.portDead n cause) n := fun i hi => by
    rw [State.portDead_eq, State.port_tellDeath, hu]
    exact State.port_setPort_ne _ _ hi
  have houts : (s.portDead n cause).outs = s.outs ++ [.link n (linkWords [0x84000005#32])] := by
    have hstate : ((s.deathQueues n cause).port n).lstate = .dead := by rw [hu]; exact congrArg _ (State.port_setPort ..)
    rw [State.portDead_eq, State.outs_tellDeath (by rw [hu]; exact hopen), hstate, hu]
    rfl
  obtain ⟨hpanels, hmps, hclk, hprof, hevents, hirq⟩ := (s.deathQueues n cause).tellDeath_frame n
  rw [← State.portDead_eq] at hpanels hmps hclk hprof hevents hirq
  have hirqSet : (s.portDead n cause).host.irqStatS.getLsbD 19 = true := by rw [hirq, BitVec.getLsbD_or]; simp
  simp only [Died, hport, hq]
  refine ⟨rfl, rfl, rfl, rfl, rfl, rfl, rfl, rfl, rfl, rfl, rfl, rfl, rfl, rfl, hother, hpanels.trans ?_, hmps.trans ?_, hclk.trans ?_,
    hprof.trans ?_, hdown, hup, hevents.trans ?_, hirqSet, houts, hmarkers, hanswers, htivs⟩
  all_goals rw [hu]; rfl

/-! ### A header fault -/

/-- What of a port its death reads and records. -/
def SameDuties (x y : Port) : Prop :=
  y.shold = x.shold ∧ y.agent = x.agent ∧ y.part = x.part ∧ y.nsOnly = x.nsOnly ∧ y.limit = x.limit ∧ y.mode = x.mode ∧ y.psnp = x.psnp

/-- A port that dies after changes of its own has died. -/
theorem Died.of_port {s v t : State} {n cause : Nat} (hv : ∃ m w, v = { s with ports := m, hwSet := w }) (hother : OtherPorts s v n)
    (hsame : SameDuties (s.port n) (v.port n)) (h : Died v t n cause) : Died s t n cause := by
  obtain ⟨m, w, rfl⟩ := hv
  obtain ⟨hshold, hagent, hpart, hns, hlimit, hmode, hpsnp⟩ := hsame
  simp only [Died, hshold, hagent, hpart, hns, hlimit, hmode, hpsnp] at h ⊢
  obtain ⟨hdead, hcause, hheld, hfencing, heclOp, hanswered, hended, hempty, hreclaimed, hname, hpartition, hworld, hbound, hsettled,
    hrest, hall⟩ := h
  exact ⟨hdead, hcause, hheld, hfencing, heclOp, hanswered, hended, hempty, hreclaimed, hname, hpartition, hworld, hbound, hsettled,
    fun i hi => (hrest i hi).trans (hother i hi), hall⟩

/-- A port that has had a header fault. -/
def State.faulted (s : State) (n : Nat) : State := (s.noteSet (kPs n 17)).modPort n fun x => { x with hdrFault := true }

theorem State.faulted_port (s : State) (n : Nat) : (s.faulted n).port n = { s.port n with hdrFault := true } := State.port_modPort ..

theorem State.faulted_other (s : State) (n : Nat) : OtherPorts s (s.faulted n) n := fun _ hi => State.port_modPort_ne _ _ hi

/-- A header fault kills an admitted port (R272, R292). -/
theorem State.headerFault_admitted (hadm : (s.port n).lstate = .admitted) (cause : Nat) :
    s.headerFault n cause = (s.faulted n).portDead n cause := if_pos ((congrArg Port.lstate (s.faulted_port n)).trans hadm)

theorem State.headerFault_other (hadm : (s.port n).lstate ≠ .admitted) (cause : Nat) : s.headerFault n cause = s.faulted n :=
  if_neg fun h => hadm ((congrArg Port.lstate (s.faulted_port n)).symm.trans h)

/-! ### A protocol error -/

/-- A protocol error at a port whose bucket has no threshold is counted, and no more (R440, R441). -/
theorem State.protoErr_counts (hth : bitsN (s.port n).pebk.toNat 16 8 = 0) (kind cls opc : Nat) :
    ∃ m b l, s.protoErr n kind cls opc = { s with ports := m, bkNote := b } ∧
      (s.protoErr n kind cls opc).port n = { s.port n with
        protoErr := ctrAdd (s.port n).protoErr 1, peLevel := l, peLast := BitVec.ofNat 64 (cls % 8 * 2 ^ 24 + kind * 2 ^ 8 + opc % 64) } ∧
      OtherPorts s (s.protoErr n kind cls opc) n ∧
      (s.kclk % leakPeriod (bitsN (s.port n).pebk.toNat 0 6) ≠ 0 → l = min 255 ((s.port n).peLevel + 1)) := by
  have heq : s.protoErr n kind cls opc = (if (s.bkAdd n (bitsN (s.port n).pebk.toNat 0 6) (s.port n).peLevel).2 then s else s.bkMark n 2).setPort n
      { s.port n with
        protoErr := ctrAdd (s.port n).protoErr 1, peLevel := (s.bkAdd n (bitsN (s.port n).pebk.toNat 0 6) (s.port n).peLevel).1,
        peLast := BitVec.ofNat 64 (cls % 8 * 2 ^ 24 + kind * 2 ^ 8 + opc % 64) } := if_neg (by simp [hth])
  have hlevel : s.kclk % leakPeriod (bitsN (s.port n).pebk.toNat 0 6) ≠ 0 →
      (s.bkAdd n (bitsN (s.port n).pebk.toNat 0 6) (s.port n).peLevel).1 = min 255 ((s.port n).peLevel + 1) := fun h => by
    rw [State.bkAdd, if_neg fun hk => h hk.1]
  rw [heq]
  split
  · exact ⟨_, _, _, rfl, State.port_setPort .., fun _ hi => State.port_setPort_ne _ _ hi, hlevel⟩
  · exact ⟨_, _, _, rfl, State.port_setPort .., fun _ hi => State.port_setPort_ne _ _ hi, hlevel⟩

end Sys2Proof.Machine
end

section
/-! Obligation O16. A packet that arrives goes to the port's dual-clock queue; the leaf takes it from there as soon as it has room (R280),
and checks it row by row (R270 to R273). -/

namespace Sys2Proof.Machine

variable {s t u : State} {n : Nat} {f : UpFlits}

/-! ### The dual-clock queue -/

/-- A port that holds one upward packet, its credit used. -/
def Port.holding (x : Port) (f : UpFlits) : Port :=
  { x with upq := [f], upHeld := x.upHeld.set f.chan (x.upHeld.getD f.chan 0 - 1) }

/-- A port whose partner has a credit back; the upward window counts the bytes of the packet. -/
def Port.freed (x : Port) (f : UpFlits) : Port :=
  { x with winUp := x.winUp + 16 + (Hdr.ofFlit f.hdr).payload, upFreed := x.upFreed.set f.chan (x.upFreed.getD f.chan 0 + 1) }

/-- The port once the leaf has taken the one packet that it holds. -/
def Port.taken (x : Port) (f : UpFlits) : Port := Port.freed { x.holding f with upq := [] } f

@[simp] theorem Port.taken_lstate (x : Port) (f : UpFlits) : (x.taken f).lstate = x.lstate := rfl
@[simp] theorem Port.taken_agent (x : Port) (f : UpFlits) : (x.taken f).agent = x.agent := rfl
@[simp] theorem Port.taken_part (x : Port) (f : UpFlits) : (x.taken f).part = x.part := rfl
@[simp] theorem Port.taken_mode (x : Port) (f : UpFlits) : (x.taken f).mode = x.mode := rfl
@[simp] theorem Port.taken_width (x : Port) (f : UpFlits) : (x.taken f).width = x.width := rfl
@[simp] theorem Port.taken_nsOnly (x : Port) (f : UpFlits) : (x.taken f).nsOnly = x.nsOnly := rfl
@[simp] theorem Port.taken_prio (x : Port) (f : UpFlits) : (x.taken f).prio = x.prio := rfl
@[simp] theorem Port.taken_psnp (x : Port) (f : UpFlits) : (x.taken f).psnp = x.psnp := rfl
@[simp] theorem Port.taken_shold (x : Port) (f : UpFlits) : (x.taken f).shold = x.shold := rfl
@[simp] theorem Port.taken_limit (x : Port) (f : UpFlits) : (x.taken f).limit = x.limit := rfl
@[simp] theorem Port.taken_dataPar (x : Port) (f : UpFlits) : (x.taken f).dataPar = x.dataPar := rfl
@[simp] theorem Port.taken_protoErr (x : Port) (f : UpFlits) : (x.taken f).protoErr = x.protoErr := rfl
@[simp] theorem Port.taken_upHeld (x : Port) (f : UpFlits) :
    (x.taken f).upHeld = x.upHeld.set f.chan (x.upHeld.getD f.chan 0 - 1) := rfl
@[simp] theorem Port.taken_upFreed (x : Port) (f : UpFlits) :
    (x.taken f).upFreed = x.upFreed.set f.chan (x.upFreed.getD f.chan 0 + 1) := rfl

/-- The rows of R270, once the packet is taken. -/
def State.upRows (s : State) (n : Nat) (f : UpFlits) : State :=
  let h := Hdr.ofFlit f.hdr
  if upFaulty (s.port n).width f then s.headerFault n 2
  else if (s.port n).lstate ≠ .admitted then s.protoErr n (if (s.port n).lstate = .eclipsed then 8 else 4) h.cls h.opc
  else s.upAdmitted n f

/-- A packet that arrives enters the dual-clock queue (R277, R280). -/
theorem upwardPacketCheck_arrives (h : s.arrives n f) :
    exec (.upwardPacketCheck n f) s = .next ((s.setPort n ((s.port n).holding f)).upPump n) := by
  obtain ⟨⟨hslots, -, hlive⟩, -, -, hchan, hrst, hpend, hheld, -, -, -, hbr, hdead, hdown, hempty⟩ := h
  have hservice : (s.port n).inService = true := by simp [Port.inService, hrst, hpend]
  have hmem : f.chan ∈ upChans := hchan
  have henter : s.upCheck n f = (s.setPort n ((s.port n).holding f)).upPump n := by
    unfold State.upCheck
    simp only
    rw [if_neg (by simp [-List.getD_eq_getElem?_getD, hdead, hmem, hservice, Nat.ne_of_gt hheld, hbr])]
    simp only [hdown, decide_false, Bool.false_eq_true, if_false, hempty, List.nil_append]
    rfl
  exact congrArg _ ((if_pos hslots).trans ((State.whenLive_of_open s _ hlive.1 hlive.2).trans henter))

/-- The leaf takes the one packet of a dual-clock queue, or leaves it there. -/
theorem State.upPump_one (h : (s.port n).upq = [f]) :
    s.upPump n = if s.upCan n f then (s.modPort n fun x => { x with upq := x.upq.erase f }).upTake n f else s := by
  unfold State.upPump
  rw [h, List.foldl_cons, List.foldl_nil]
  unfold State.upOne
  by_cases hcan : s.upCan n f = true
  · rw [if_neg (by simp [h, hcan]), if_pos hcan]
  · rw [if_pos (by simp [hcan]), if_neg hcan]

/-- The leaf takes the packet, its check bits sound, and its credit is free. -/
theorem State.upTake_sound (hhd : f.hd = .ok) (hdat : f.dat = .ok) (hdead : (s.port n).lstate ≠ .dead) (hservice : (s.port n).inService = true) :
    ∃ u, PortBecomes s u n ((s.port n).freed f) ∧ s.upTake n f = u.upRows n f := by
  let counted := s.modPort n fun x => { x with winUp := x.winUp + 16 + (Hdr.ofFlit f.hdr).payload }
  have hport : counted.port n = { s.port n with winUp := (s.port n).winUp + 16 + (Hdr.ofFlit f.hdr).payload } := State.port_modPort ..
  refine ⟨counted.freeUp n f.chan, ?_, ?_⟩
  · have hfree : counted.freeUp n f.chan = counted.setPort n ((s.port n).freed f) := by
      unfold State.freeUp State.modPort
      rw [hport]
      exact congrArg _ (if_neg (not_or.2 ⟨hdead, not_not.2 hservice⟩))
    rw [hfree]
    exact (PortBecomes.setPort ..).trans (.setPort ..)
  · unfold State.upTake
    simp only [hhd, hdat, reduceCtorEq, if_false, ite_self, State.bucket]
    rfl

/-- What a packet that arrives needs for the leaf to take it (R39). -/
def State.upFits (s : State) (n : Nat) (f : UpFlits) : Prop :=
  (s.port n).lstate ≠ .admitted ∨ upFaulty (s.port n).width f = true ∨ s.upRoom n (Hdr.ofFlit f.hdr) = true

theorem State.upCan_holding (h : s.arrives n f) : (s.setPort n ((s.port n).holding f)).upCan n f = true ↔ s.upFits n f := by
  obtain ⟨-, hhd, -, -, -, -, -, -, -, hfrozen, hbr, -⟩ := h
  have hfrozen' : (s.setPort n ((s.port n).holding f)).routerFrozen ((s.setPort n ((s.port n).holding f)).build.leafOf n) = false := hfrozen
  have hbr' : (s.setPort n ((s.port n).holding f)).slotBr n < 2 := hbr
  have hroom : (s.setPort n ((s.port n).holding f)).upRoom n (Hdr.ofFlit f.hdr) = s.upRoom n (Hdr.ofFlit f.hdr) := by
    unfold State.upRoom
    rw [State.port_setPort]
    rfl
  unfold State.upCan State.upFits
  simp only [hfrozen', hbr', hroom, State.port_setPort, hhd]
  simp [Port.holding, Port.width, or_assoc]

theorem State.not_upFits (hadm : (s.port n).lstate = .admitted) (hsound : upFaulty (s.port n).width f = false)
    (hroom : s.upRoom n (Hdr.ofFlit f.hdr) = false) : ¬ s.upFits n f := by
  simp [State.upFits, hadm, hsound, hroom]

/-- The leaf has room for a packet that arrives: it takes it and checks it. -/
theorem upwardPacketCheck_takes (h : s.arrives n f) (hfits : s.upFits n f) :
    ∃ u, PortBecomes s u n ((s.port n).taken f) ∧ exec (.upwardPacketCheck n f) s = .next (u.upRows n f) := by
  have hrun := upwardPacketCheck_arrives h
  have hcan := (State.upCan_holding h).2 hfits
  obtain ⟨-, hhd, hdat, -, hrst, hpend, -, -, -, -, -, hdead, -⟩ := h
  let held := s.setPort n ((s.port n).holding f)
  have hheld : held.port n = (s.port n).holding f := State.port_setPort ..
  let freed := held.modPort n fun x => { x with upq := x.upq.erase f }
  have hfreed : freed.port n = { (s.port n).holding f with upq := [] } := by
    rw [State.port_modPort, hheld]
    simp [Port.holding]
  obtain ⟨u, hu, htake⟩ := State.upTake_sound (s := freed) (n := n) hhd hdat (by rw [hfreed]; exact hdead)
    (by rw [hfreed]; simp [Port.inService, Port.holding, hrst, hpend])
  have hpump : held.upPump n = u.upRows n f := by
    rw [State.upPump_one (by rw [hheld]; rfl), if_pos hcan, ← htake]
  rw [hfreed] at hu
  exact ⟨u, (PortBecomes.setPort s n _).trans ((PortBecomes.setPort held n _).trans hu), hrun.trans (congrArg _ hpump)⟩

/-- What the rows read of the port is as it was. -/
theorem PortBecomes.rows (hu : PortBecomes s u n ((s.port n).taken f)) : upFaulty (u.port n).width f = upFaulty (s.port n).width f ∧
    (u.port n).lstate = (s.port n).lstate ∧ (u.port n).agent = (s.port n).agent ∧ (u.port n).part = (s.port n).part ∧
    rowFive (u.port n) (Hdr.ofFlit f.hdr) = rowFive (s.port n) (Hdr.ofFlit f.hdr) := by
  simp [hu.2.1, rowFive]

/-- The leaf has no room for it: it stays in the dual-clock queue. -/
theorem upwardPacketCheck_waits (h : s.arrives n f) (hfull : ¬ s.upFits n f) :
    exec (.upwardPacketCheck n f) s = .next (s.setPort n ((s.port n).holding f)) := by
  rw [upwardPacketCheck_arrives h, State.upPump_one (by rw [State.port_setPort]; rfl), if_neg (hfull ∘ (State.upCan_holding h).1)]

/-! ### Row 6 of R270 -/

/-- Rows 1 to 3 find the CLASS of the header's channel, and a listed opcode. -/
theorem upFaulty_cls {w : Nat} (h : upFaulty w f = false) : (Hdr.ofFlit f.hdr).cls = f.chan := by
  simp only [upFaulty, Bool.or_eq_false_iff, decide_eq_false_iff_not, not_not] at h
  exact h.1.1.1.1.2

theorem noAddr_iff (h : Hdr) : noAddr h = true ↔ h.cls = cREQ ∧ h.opc ∈ [oEBar, oTIv, oTSy] := by
  simp [noAddr, or_assoc]

theorem Hdr.payload_dat {h : Hdr} (hcls : h.cls = cDAT) : h.payload = 64 := by
  simp [Hdr.payload, hcls]

theorem State.lookAhead_same (s : State) (l : Loc) (k : Packet) : ∃ la w, s.lookAhead l k = { k with la := la, whole := w } := by
  unfold State.lookAhead
  split <;> exact ⟨_, _, rfl⟩

theorem Port.owesOwner_congr {x y : Port} {k m : Packet} (hpsnp : x.psnp = y.psnp) (hhdr : k.hdr = m.hdr) : x.owesOwner k = y.owesOwner m := by
  simp only [Port.owesOwner, isAck, hpsnp, hhdr]

/-- The data flits of a packet that carries a line failed parity so many times (R273). -/
def badLine (f : UpFlits) (w : Nat) : Nat := if 16 + (Hdr.ofFlit f.hdr).payload = 80 then f.badFlits w else 0

/-- The leaf's buffer takes a packet that passes every row (R216, R273). -/
structure Forwards (s t : State) (n : Nat) (f : UpFlits) (k : Packet) : Prop where
  frame : ∃ m r y, t = { s with ports := m, routers := r, net := { s.net with qs := y } }
  queue : t.q (.leafUp n) (Hdr.ofFlit f.hdr).cls = s.q (.leafUp n) (Hdr.ofFlit f.hdr).cls ++ [k]
  queues : ∀ l c, locKey l c ≠ locKey (.leafUp n) (Hdr.ofFlit f.hdr).cls → t.q l c = s.q l c
  port : t.port n = { s.port n with dataPar := ctrAdd (s.port n).dataPar (badLine f (s.port n).width) }
  others : OtherPorts s t n
  inj : (t.router (s.build.leafOf n)).inj = (s.router (s.build.leafOf n)).inj.set (s.router (s.build.leafOf n)).epoch
    ((s.router (s.build.leafOf n)).inj.getD (s.router (s.build.leafOf n)).epoch 0 + 1)
  hdr : k.hdr = (s.upPacket n f).hdr
  data : k.data = (s.upPacket n f).data
  capt : k.capt = s.clk.cyc
  aux : k.aux = if (s.port n).owesOwner k then 1 else 0

theorem State.forward_forwards (s : State) (n : Nat) (f : UpFlits) : ∃ k, Forwards s (s.forward n f) n f k := by
  let k : Packet := { s.upPacket n f with
    aux := b2n ((s.port n).owesOwner (s.upPacket n f)), vec := if isAck (s.upPacket n f) then vbit (s.port n).agent else 0 }
  let v := s.setPort n { s.port n with dataPar := ctrAdd (s.port n).dataPar (badLine f (s.port n).width) }
  have hport : v.port n = { s.port n with dataPar := ctrAdd (s.port n).dataPar (badLine f (s.port n).width) } := State.port_setPort ..
  have hother : OtherPorts s v n := fun _ h => State.port_setPort_ne _ _ h
  have hinj : (v.addInj (s.build.leafOf n) (s.router (s.build.leafOf n)).epoch 1).router (s.build.leafOf n) = _ := State.router_modRouter ..
  obtain ⟨la, w, hla⟩ := v.lookAhead_same (.leafUp n) k
  have heq : s.forward n f = (v.addInj (s.build.leafOf n) (s.router (s.build.leafOf n)).epoch 1).push (.leafUp n) (Hdr.ofFlit f.hdr).cls
      { k with la := la, whole := w } := by rw [← hla]; rfl
  rw [heq]
  exact ⟨_, ⟨_, _, _, rfl⟩, State.q_push .., fun _ _ h => State.q_push_ne _ _ h, hport, hother,
    congrArg Router.inj hinj, rfl, rfl, rfl, congrArg b2n (Port.owesOwner_congr rfl rfl)⟩

/-- The packet that the leaf forwards, field by field (R201, R205, R214, R241, R271). -/
theorem State.upPacket_hdr (s : State) (n : Nat) (f : UpFlits) :
    let h := Hdr.ofFlit f.hdr
    let k := (s.upPacket n f).hdr
    k.cls = h.cls ∧ k.opc = h.opc ∧ k.src = h.src ∧ k.tag = h.tag ∧ k.part = h.part ∧
    k.addr = (if h.cls = cREQ ∧ h.opc ∈ [oEBar, oTIv, oTSy] then 0 else h.addr) ∧ k.epoch = (s.router (s.build.leafOf n)).epoch ∧
    k.world = (if (s.port n).nsOnly then 1 else h.world) ∧ (h.cls = cREQ → k.prio = (s.port n).prio) ∧ (h.cls = cMGT → k.prio = 0) :=
  ⟨rfl, rfl, rfl, rfl, rfl, if_congr (noAddr_iff _) rfl rfl, rfl, rfl,
    fun h => (if_neg (by rw [h]; decide)).trans (if_pos h), fun h => if_pos h⟩

/-- A line that the leaf forwards: POISON where a data flit failed parity (R273). -/
theorem State.upPacket_dat (hcls : (Hdr.ofFlit f.hdr).cls = cDAT) (hdat : f.dat = .ok) :
    (s.upPacket n f).data = f.data (s.port n).width ∧
    (s.upPacket n f).hdr.poison = ((Hdr.ofFlit f.hdr).poison || decide (f.badFlits (s.port n).width ≠ 0)) := by
  simp [State.upPacket, Hdr.payload_dat hcls, hdat]

/-! ### The rows, one by one -/

theorem State.upRows_faulty (h : upFaulty (s.port n).width f = true) : s.upRows n f = s.headerFault n 2 := if_pos h

theorem State.upRows_unadmitted (h : upFaulty (s.port n).width f = false) (hadm : (s.port n).lstate ≠ .admitted) :
    s.upRows n f = s.protoErr n (if (s.port n).lstate = .eclipsed then 8 else 4) (Hdr.ofFlit f.hdr).cls (Hdr.ofFlit f.hdr).opc :=
  (if_neg (by rw [h]; decide)).trans (if_pos hadm)

theorem State.upRows_admitted (h : upFaulty (s.port n).width f = false) (hadm : (s.port n).lstate = .admitted) :
    s.upRows n f = s.upAdmitted n f := (if_neg (by rw [h]; decide)).trans (if_neg (not_not.2 hadm))

theorem State.upAdmitted_foreign (h : (Hdr.ofFlit f.hdr).src ≠ (s.port n).agent ∨ (Hdr.ofFlit f.hdr).part ≠ (s.port n).part) :
    s.upAdmitted n f = s.protoErr n 2 (Hdr.ofFlit f.hdr).cls (Hdr.ofFlit f.hdr).opc := if_pos h

theorem State.upAdmitted_sound (hsrc : (Hdr.ofFlit f.hdr).src = (s.port n).agent) (hpart : (Hdr.ofFlit f.hdr).part = (s.port n).part)
    (hfive : rowFive (s.port n) (Hdr.ofFlit f.hdr) = false) (hpsnp : f.psnp = .ok) : s.upAdmitted n f = s.forward n f := by
  unfold State.upAdmitted
  simp [hsrc, hpart, hfive, hpsnp, State.bucket]

/-! ### The obligation -/

/-- A packet that arrives and passes every row is forwarded. -/
theorem upwardPacketCheck_forwards (h : s.arrives n f) (hadm : (s.port n).lstate = .admitted) (hsound : upFaulty (s.port n).width f = false)
    (hsrc : (Hdr.ofFlit f.hdr).src = (s.port n).agent) (hpart : (Hdr.ofFlit f.hdr).part = (s.port n).part)
    (hfive : rowFive (s.port n) (Hdr.ofFlit f.hdr) = false) (hpsnp : f.psnp = .ok)
    (hcredit : s.hasCredit (.leafUp n) (Hdr.ofFlit f.hdr).cls = true) :
    ∃ u, PortBecomes s u n ((s.port n).taken f) ∧ exec (.upwardPacketCheck n f) s = .next (u.forward n f) := by
  obtain ⟨u, hu, hrun⟩ := upwardPacketCheck_takes h (.inr (.inr (by rw [State.upRoom, hfive]; exact hcredit)))
  obtain ⟨hfaulty, hlstate, hagent, hown, hrow⟩ := hu.rows
  have hrows : u.upRows n f = u.forward n f := by
    rw [State.upRows_admitted (hfaulty.trans hsound) (hlstate.trans hadm),
      State.upAdmitted_sound (hsrc.trans hagent.symm) (hpart.trans hown.symm) (hrow.trans hfive) hpsnp]
  exact ⟨u, hu, hrun.trans (congrArg _ hrows)⟩

/-- A protocol error that a packet makes counts one, with the packet's KIND (R440). -/
theorem protoErr_counted (h : s.arrives n f) (hth : (s.port n).pebk.extractLsb' 16 8 = 0) {kind : Nat} (hu : PortBecomes s u n ((s.port n).taken f))
    (hrun : exec (.upwardPacketCheck n f) s = .next (u.protoErr n kind (Hdr.ofFlit f.hdr).cls (Hdr.ofFlit f.hdr).opc)) :
    ∃ t, exec (.upwardPacketCheck n f) s = .next t ∧ PortFrame s t n ∧ t.host = s.host ∧
      t.ez = s.ez ∧ t.outs = s.outs ∧ (t.port n).lstate = (s.port n).lstate ∧
      (t.port n).protoErr = ctrAdd (s.port n).protoErr 1 ∧
      (s.clk.cyc / 8 % 2 ^ max 10 (min 40 ((s.port n).pebk.toNat % 64)) ≠ 0 →
        (t.port n).peLevel = min 255 ((s.port n).peLevel + 1)) ∧
      (t.port n).peLast = BitVec.ofNat 64 ((Hdr.ofFlit f.hdr).cls * 2 ^ 24 + kind * 2 ^ 8 + (Hdr.ofFlit f.hdr).opc) ∧
      (t.port n).upFreed.getD f.chan 0 = (s.port n).upFreed.getD f.chan 0 + 1 := by
  obtain ⟨⟨p, rfl⟩, hport, hother⟩ := hu
  have hth' : bitsN (s.port n).pebk.toNat 16 8 = 0 := by
    simpa [BitVec.extractLsb'_toNat, bitsN] using congrArg BitVec.toNat hth
  obtain ⟨m, b, l, heq, hp, ho, hlevel⟩ := State.protoErr_counts (s := { s with ports := p }) (n := n) (by rw [hport]; exact hth') kind
    (Hdr.ofFlit f.hdr).cls (Hdr.ofFlit f.hdr).opc
  rw [hport] at hp hlevel
  have hcls : (Hdr.ofFlit f.hdr).cls % 8 = (Hdr.ofFlit f.hdr).cls := Nat.mod_mod _ _
  have hopc : (Hdr.ofFlit f.hdr).opc % 64 = (Hdr.ofFlit f.hdr).opc := Nat.mod_mod _ _
  have hfreed : (((s.port n).taken f).upFreed).getD f.chan 0 = (s.port n).upFreed.getD f.chan 0 + 1 := by
    obtain ⟨-, -, -, -, -, -, -, -, hlen, -⟩ := h
    simp [hlen]
  rw [hcls, hopc] at hp
  refine ⟨_, hrun, ?_⟩
  rw [hp]
  refine ⟨⟨?_, fun i hi => (ho i hi).trans (hother i hi), ?_⟩, ?_, ?_, ?_, Port.taken_lstate (s.port n) f,
    congrArg (ctrAdd · 1) (Port.taken_protoErr (s.port n) f), fun hk => hlevel hk, rfl, hfreed⟩
  · rw [heq]; exact ⟨rfl, rfl, rfl⟩
  · rw [heq]; exact ⟨rfl, rfl, rfl, rfl, rfl, rfl, rfl, rfl, rfl, rfl, rfl, rfl, rfl⟩
  all_goals rw [heq]

/-- A port that has changed, and then has had a header fault. -/
theorem PortBecomes.faulted {x : Port} (hu : PortBecomes s u n x) :
    (∃ m w, u.faulted n = { s with ports := m, hwSet := w }) ∧ OtherPorts s (u.faulted n) n ∧
    (u.faulted n).port n = { x with hdrFault := true } := by
  obtain ⟨⟨p, rfl⟩, rfl, hother⟩ := hu
  exact ⟨⟨_, _, rfl⟩, fun i hi => (State.faulted_other _ n i hi).trans (hother i hi), State.faulted_port ..⟩

/-- A header fault of an admitted port is its death (R263, R272, R292). -/
theorem upwardPacketCheck_dies (h : s.arrives n f) (hf : upFaulty (s.port n).width f = true) (hadm : (s.port n).lstate = .admitted) :
    ∃ t, exec (.upwardPacketCheck n f) s = .next t ∧ Died s t n 2 ∧ (t.port n).hdrFault = true := by
  obtain ⟨u, hu, hrun⟩ := upwardPacketCheck_takes h (.inr (.inl hf))
  obtain ⟨hfaulty, hlstate, -⟩ := hu.rows
  rw [State.upRows_faulty (hfaulty.trans hf), State.headerFault_admitted (hlstate.trans hadm)] at hrun
  obtain ⟨⟨-, hn, hlive⟩, -⟩ := h
  obtain ⟨hframe, hother, hfault⟩ := hu.faulted
  have hopen : (u.faulted n).clk.cellsOpen = true := by
    obtain ⟨m, w, hw⟩ := hframe
    rw [hw]
    exact hlive.2
  refine ⟨_, hrun, (State.portDead_died _ hn hopen 2).of_port hframe hother ?_, ?_⟩
  · simp [SameDuties, hfault]
  · rw [State.portDead_port _ hn, hfault]
    rfl

/-- A header fault of another port only sets HDR_FAULT (R263, R272). -/
theorem upwardPacketCheck_faults (h : s.arrives n f) (hf : upFaulty (s.port n).width f = true) (hadm : (s.port n).lstate ≠ .admitted) :
    ∃ t, exec (.upwardPacketCheck n f) s = .next t ∧ PortFrame s t n ∧ (t.port n).hdrFault = true ∧
      (t.port n).lstate = (s.port n).lstate := by
  obtain ⟨u, hu, hrun⟩ := upwardPacketCheck_takes h (.inl hadm)
  obtain ⟨hfaulty, hlstate, -⟩ := hu.rows
  rw [State.upRows_faulty (hfaulty.trans hf), State.headerFault_other (hlstate.symm ▸ hadm)] at hrun
  obtain ⟨⟨m, w, hw⟩, hother, hfault⟩ := hu.faulted
  refine ⟨_, hrun, ⟨?_, hother, ?_⟩, ?_⟩
  · rw [hw]
    exact ⟨rfl, rfl, rfl⟩
  · rw [hw]
    exact ⟨rfl, rfl, rfl, rfl, rfl, rfl, rfl, rfl, rfl, rfl, rfl, rfl, rfl⟩
  · simp [hfault]

end Sys2Proof.Machine

open Sys2Proof Sys2Proof.Machine

/-- Settles O16: the leaf takes the packet of an empty dual-clock queue at once where it has room; each row of R270 is then one branch. -/
theorem upwardPacketCheckedAtTheLeaf : Obligations.UpwardPacketCheckedAtTheLeaf := by
  unfold Obligations.UpwardPacketCheckedAtTheLeaf
  refine ⟨?_, ?_⟩
  · intro s n f h hadm hsound hdr q bad hsrc hpart hfive hpsnp hcredit hepoch
    obtain ⟨u, ⟨⟨p, rfl⟩, hport, hother⟩, hrun⟩ := upwardPacketCheck_forwards h hadm hsound hsrc hpart hfive hpsnp hcredit
    obtain ⟨-, -, hdat, -, -, -, -, hheld, hfreed, -⟩ := h
    obtain ⟨k, ⟨m, r, y, hframe⟩, hqueue, hqueues, hp, ho, hinj, hhdr, hdata, hcapt, haux⟩ := State.forward_forwards { s with ports := p } n f
    obtain ⟨hcls, hopc, hsrc', htag, hpart', haddr, hep, hworld, hprio, hmgt⟩ := State.upPacket_hdr { s with ports := p } n f
    rw [hport] at hp haux hworld hprio
    rw [Port.taken_dataPar, Port.taken_width] at hp
    rw [Port.taken_nsOnly] at hworld
    rw [Port.taken_prio] at hprio
    rw [← hhdr] at hcls hopc hsrc' htag hpart' haddr hep hworld hprio hmgt
    refine ⟨_, k, hrun, ?_⟩
    have hbytes (hdatCls : hdr.cls = cDAT) : badLine f (s.port n).width = bad := by
      rw [badLine, Hdr.payload_dat hdatCls]
      rfl
    have hline (hdatCls : hdr.cls = cDAT) := State.upPacket_dat (s := { s with ports := p }) (n := n) hdatCls hdat
    rw [hport, Port.taken_width, ← hhdr, ← hdata] at hline
    have hmark : ((s.port n).taken f).owesOwner k = (s.port n).owesOwner k :=
      Port.owesOwner_congr (Port.taken_psnp (s.port n) f) rfl
    rw [hmark] at haux
    rw [hp]
    refine ⟨?_, fun i hi => (ho i hi).trans (hother i hi), ?_, ?_, ?_, ?_, ?_, hqueue, hqueues, hcls, hopc, hsrc', htag, hpart', haddr, rfl, hep,
      hworld, hprio, hmgt, fun hdatCls => ⟨(hline hdatCls).1, (hline hdatCls).2, congrArg (ctrAdd (s.port n).dataPar) (hbytes hdatCls)⟩,
      hcapt, haux, ?_, ?_, Port.taken_protoErr (s.port n) f, (Port.taken_lstate (s.port n) f).trans hadm, fun hlen => ?_⟩
    case refine_7 => simp [hheld]
    case refine_8 => simp [hfreed]
    case refine_9 =>
      have hlt : (s.router q).epoch < (s.router q).inj.length := by omega
      rw [hinj]
      change ((s.router q).inj.set (s.router q).epoch ((s.router q).inj.getD (s.router q).epoch 0 + 1)).getD (s.router q).epoch 0 = _
      simp [hlt]
    all_goals rw [hframe]
    · exact ⟨rfl, rfl, rfl⟩
    · exact ⟨rfl, rfl, rfl⟩
    · exact ⟨rfl, rfl⟩
  · intro s n f h hdr counted faulty
    refine ⟨fun hf hadm => ?_, fun hf hadm => ?_, fun hf hadm hroom => ?_, fun hf hth => ⟨fun hadm => ?_, fun hadm hroom hforeign => ?_⟩⟩
    · exact upwardPacketCheck_dies h hf hadm
    · exact upwardPacketCheck_faults h hf hadm
    · exact upwardPacketCheck_waits h (State.not_upFits hadm hf hroom)
    · obtain ⟨u, hu, hrun⟩ := upwardPacketCheck_takes h (.inl hadm)
      obtain ⟨hfaulty, hlstate, -⟩ := hu.rows
      rw [State.upRows_unadmitted (hfaulty.trans hf) (hlstate.symm ▸ hadm), hlstate] at hrun
      exact protoErr_counted h hth hu hrun
    · obtain ⟨u, hu, hrun⟩ := upwardPacketCheck_takes h (.inr (.inr hroom))
      obtain ⟨hfaulty, hlstate, hagent, hown, -⟩ := hu.rows
      rw [State.upRows_admitted (hfaulty.trans hf) (hlstate.trans hadm), State.upAdmitted_foreign (by rw [hagent, hown]; exact hforeign)] at hrun
      exact protoErr_counted h hth hu hrun
end

section
/-! SUPPORT. A panel accepts a translation service (R249 to R253): the HTC that it enters and what the panel sends with it. -/

namespace Sys2Proof.Machine

variable {s : State} {p key pool i opc : Nat} {k : Packet} {x : PX} {h : Htc}

/-! ### The descriptor that goes on (R250) -/

/-- Bits 0 to 131 are the sender's, bit 136 is WORLD, and the others are zero. -/
theorem getLsbD_tivDesc (d : BitVec 256) (w j : Nat) :
    (tivDesc d w).getLsbD j = if j < 132 then d.getLsbD j else decide (j = 136) && w.testBit 0 := by
  have hlow : bitsN d.toNat 0 128 + bitsN d.toNat 128 4 * 2 ^ 128 = d.toNat % 2 ^ 132 := by
    rw [bitsN_eq_div, bitsN_eq_div]
    omega
  have hlt : d.toNat % 2 ^ 132 < 2 ^ 136 := (Nat.mod_lt _ (by decide)).trans (by decide)
  have hworld (n : Nat) : (w % 2).testBit n = (decide (n = 0) && w.testBit 0) := by
    rw [show w % 2 = w % 2 ^ 1 from rfl, Nat.testBit_mod_two_pow]
    cases n <;> simp
  rw [tivDesc, hlow, BitVec.getLsbD_ofNat, add_comm, mul_comm, Nat.testBit_two_pow_mul_add _ hlt, hworld, Nat.testBit_mod_two_pow]
  by_cases hj : j < 132
  · simp [hj, show j < 256 by omega, show j < 136 by omega, BitVec.getLsbD]
  · by_cases hj' : j < 136
    · simp [hj, hj', show j ≠ 136 by omega]
    · by_cases he : j = 136
      · simp [he]
      · simp [hj, hj', he, show j - 136 ≠ 0 by omega]

theorem tivDesc_descriptor (d : BitVec 256) (w : Nat) : (tivDesc d w).extractLsb' 0 132 = d.extractLsb' 0 132 :=
  BitVec.eq_of_getLsbD_eq fun j hj => by simp [getLsbD_tivDesc, hj]

theorem tivDesc_world (d : BitVec 256) (w : Nat) : (tivDesc d w).getLsbD 136 = w.testBit 0 := by
  rw [getLsbD_tivDesc]
  simp

theorem tivDesc_zero (d : BitVec 256) (w : Nat) {lo n : Nat} (hlo : 132 ≤ lo) (hout : lo + n ≤ 136 ∨ 137 ≤ lo) :
    (tivDesc d w).extractLsb' lo n = 0 := by
  refine BitVec.eq_of_getLsbD_eq fun j hj => ?_
  have hne : lo + j ≠ 136 := by omega
  simp [getLsbD_tivDesc, hne, show ¬ lo + j < 132 by omega]

/-! ### The step -/

/-- Panel `x` once it has accepted a service in HTC `i`, which stands as `h`, and has sent `ks`. -/
def PX.served (x : PX) (i : Nat) (h : Htc) (ks : List Packet) : Panel :=
  { x.pn with seq := x.pn.seq + 1, lastAcc := some x.s.clk.cyc, outq := x.pn.outq ++ ks, htcs := smSet x.pn.htcs i h }

/-- The context in which panel `p` accepts service `k` (R502). -/
def State.servicePx (s : State) (p key : Nat) (k : Packet) : PX := (s.inputPx p key).eff (.event 1 1 (wpOf k))

/-- Panel `p` has taken service `k` from its input and stands with it in HTC `i`, with job `j` and phase `ph`;
a TIv there waits for `set`. Nothing else has changed in the panel's tables, nor in what it asks of memory. -/
def Serves (s t : State) (p key i : Nat) (k : Packet) (set : Vec) (ph : Phase) (j : Job) : Prop :=
  PanelFrame s t p ∧ Took s t (.panelIn p) key ∧ SameArrays s t p ∧ OtherHtcs s t p i ∧ (t.panel p).memOut = (s.panel p).memOut ∧
    ∃ h, smFind (t.panel p).htcs i = some h ∧ h.job = j ∧ h.phase = ph ∧ h.pkt = k ∧
      (j = .tiv → h.tset = set ∧ h.expect = popc set ∧ h.sum = 0)

/-- A service that leaves its panel `served` is taken from the panel's input in one step (R148, R186). -/
theorem State.serviceStep_serves {z : PX} {ks : List Packet} {set : Vec} {ph : Phase} {j : Job} (ht : s.takes p)
    (hturn : (s.px p {}).reqTurn = some (key, k, pool, i)) (ho : k.hdr.opc = opc)
    (hz : (if opc = oTIv then (s.servicePx p key k).acceptTiv k pool i else (s.servicePx p key k).acceptTsy k pool i) = z)
    (hpn : z.pn = (s.servicePx p key k).served i h ks) (he : ∀ e ∈ z.effs, e.counts)
    (hh : h.job = j ∧ h.phase = ph ∧ h.pkt = k ∧ (j = .tiv → h.tset = set ∧ h.expect = popc set ∧ h.sum = 0)) :
    ∃ t, s.atInput p (s.serviceStep p opc) = .next t ∧ Serves s t p key i k set ph j ∧ Sent s t p ks := by
  obtain ⟨hf, hn, hp⟩ := (s.take (.panelIn p) key).commitPx_counts p he
  have hrun : s.serviceStep p opc = (s.take (.panelIn p) key).commitPx p z := by
    simp only [State.serviceStep, hturn, ho, if_true, ← hz]
    rfl
  rw [hpn] at hp
  refine ⟨_, (State.atInput_of_takes ht _).trans (congrArg _ hrun), ⟨hf, ?_, ?_, ?_, ?_, h, ?_, hh⟩, ?_⟩
  · obtain ⟨hq, ho, hother⟩ := s.took_take (.panelIn p) key
    simp only [Took, State.q, State.owed, hn] at hq ho hother ⊢
    exact ⟨hq, ho, hother⟩
  all_goals simp only [SameArrays, OtherHtcs, Sent, hp, PX.served, State.servicePx, PX.eff_pn, State.inputPx_pn, and_self]
  · exact fun _ hi => smFind_smSet_ne _ _ hi
  · exact smFind_smSet_self _ _ _

/-! ### TIv and TSy -/

/-- The HTC of service `k`, which the panel accepts now. -/
def PX.serviceHtc (x : PX) (job : Job) (k : Packet) (pool : Nat) : Htc :=
  { job := job, pool := pool, phase := .collect, seq := x.pn.seq, acc := x.s.clk.cyc, pkt := k, line := 0, stamps := [(0, k.capt)] }

/-- That HTC waits for `n` answers, of the agents of `set`. -/
def Htc.asking (h : Htc) (set : Vec) (n : Nat) : Htc := { h with tset := set, expect := n }

/-- The panel has accepted a message in this HCLK (R148). -/
def PX.accepted (x : PX) : PX := x.mod fun n => { n with seq := n.seq + 1, lastAcc := some x.s.clk.cyc }

/-- The targets of TIv `k` (R251). -/
def State.tivSet (s : State) (k : Packet) : Vec :=
  s.caching (fun x => decide (x.part = k.hdr.part) && x.mode.feats.testBit 4) &&& ~~~(vbit k.hdr.src)

/-- The SnpTIv of TIv `k` in HTC `i`, to the `n` agents of `set` (R250, R251). -/
def PX.snpTiv (x : PX) (i : Nat) (k : Packet) (set : Vec) (n : Nat) : Packet :=
  { hdr := { cls := cSNP, opc := oSnpTIv, prio := k.hdr.prio, src := nPanel0 + x.p, htc := x.htcField i, world := k.hdr.world,
             part := k.hdr.part, dst := if n = 1 then (lowest set).getD 0 else nMulti }
    vec := set
    desc := tivDesc k.desc k.hdr.world
    capt := x.s.clk.cyc }

/-- A service of the sender of `k` that is not done, of kind `j`, stands in an HTC of panel `n`. -/
def Panel.services (n : Panel) (j : Job) (k : Packet) : Prop :=
  ∃ e ∈ n.htcs, e.2.job = j ∧ e.2.pkt.hdr.src = k.hdr.src ∧ e.2.phase ≠ .close

theorem popc_eq_zero {v : Vec} (h : popc v = 0) : v = 0 := by
  rw [popc_eq_card, Finset.card_eq_zero] at h
  have hnone (a : Nat) : v.getLsbD a ≠ true := fun ha => by
    have hmem := mem_agents.mpr ha
    rw [h] at hmem
    exact Finset.notMem_empty a hmem
  exact BitVec.eq_of_getLsbD_eq fun a _ => by simp [hnone a]

theorem PX.acceptTiv_eq (x : PX) (k : Packet) (pool i : Nat) : x.acceptTiv k pool i =
    let set := x.s.tivSet k
    let h := (x.serviceHtc .tiv k pool).asking set (popc set)
    if popc set = 0 then x.accepted.tivDone i h
    else ((x.accepted.send (x.snpTiv i k set (popc set))).eff (.event (if popc set = 1 then 0x0C else 0x0B) 1 (wpOf k))).setHtc i h := rfl

theorem Panel.services_iff (n : Panel) (j : Job) (k : Packet) : (n.htcs.any fun t =>
    decide (t.2.job = j) && decide (t.2.pkt.hdr.src = k.hdr.src) && decide (t.2.phase ≠ .close)) = true ↔ n.services j k := by
  simp [Panel.services, and_assoc]

/-- A TSy waits where its sender has a TIv that is not done, and is else done at once (R253). -/
theorem PX.acceptTsy_waits (hbusy : x.pn.services .tiv k) :
    x.acceptTsy k pool i = x.accepted.setHtc i (x.serviceHtc .tsy k pool) :=
  if_pos ((Panel.services_iff x.pn .tiv k).mpr hbusy)

theorem PX.acceptTsy_done (hidle : ¬ x.pn.services .tiv k) : x.acceptTsy k pool i =
    (x.accepted.send (x.rspMsg i k.hdr oTSyDone 0 0)).setHtc i ((x.serviceHtc .tsy k pool).closed {} x.s.clk.cyc) :=
  if_neg ((Panel.services_iff x.pn .tiv k).not.mpr hidle)

/-- A TIv that is done is answered, and closes; no TSy has waited for it (R252, R253). -/
theorem PX.tivDone_alone (hidle : ¬ x.pn.services .tsy h.pkt) (hjob : h.job = .tiv) : x.tivDone i h =
    (x.send (x.rspMsg i h.pkt.hdr oTIvDone 0 0)).setHtc i (h.closed {} x.s.clk.cyc) := by
  have hnone : (((x.send (x.rspMsg i h.pkt.hdr oTIvDone 0 0)).setHtc i (h.closed {} x.s.clk.cyc)).pn.htcs.filter fun e =>
      e.2.job = .tsy ∧ e.2.phase = .collect ∧ e.2.pkt.hdr.src = h.pkt.hdr.src) = [] := by
    refine List.filter_eq_nil_iff.mpr fun e he hsel => ?_
    obtain ⟨htsy, hcollect, hsrc⟩ := of_decide_eq_true hsel
    rcases mem_smSet he with rfl | he
    · cases hjob.symm.trans htsy
    · exact hidle ⟨e, he, htsy, hsrc, by simp [hcollect]⟩
  unfold PX.tivDone
  rw [PX.sendRsp_eq, PX.startClose_quiet]
  simp only [PX.send_s, hnone, List.foldl_nil]

/-- A TIv with targets is sent to them, and waits for their answers (R251, R252). -/
theorem PX.acceptTiv_sends {n : Nat} (hn : popc (x.s.tivSet k) = n) (hpos : 0 < n) : ∃ c, x.acceptTiv k pool i =
    ((x.accepted.send (x.snpTiv i k (x.s.tivSet k) n)).eff (.event c 1 (wpOf k))).setHtc i
      ((x.serviceHtc .tiv k pool).asking (x.s.tivSet k) n) := by
  rw [PX.acceptTiv_eq]
  simp only [hn, hpos.ne', if_false]
  exact ⟨_, rfl⟩

/-- A TIv without targets is done at once (R252). -/
theorem PX.acceptTiv_done (hset : popc (x.s.tivSet k) = 0) (hidle : ¬ x.pn.services .tsy k) : x.acceptTiv k pool i =
    (x.accepted.send (x.rspMsg i k.hdr oTIvDone 0 0)).setHtc i ((x.serviceHtc .tiv k pool).closed {} x.s.clk.cyc) := by
  rw [PX.acceptTiv_eq]
  simp only [hset, if_true]
  exact PX.tivDone_alone (h := (x.serviceHtc .tiv k pool).asking (x.s.tivSet k) 0) hidle rfl

end Sys2Proof.Machine
end

section
/-! Obligation O25: TIv and TSy at the translation panel. -/

open Sys2Proof Sys2Proof.Machine

/-- Settles O25: a panel that takes a TIv sends it to its targets (`PX.acceptTiv_sends`) or is done with it (`PX.acceptTiv_done`), and a TSy
waits for the TIvs of its sender (`PX.acceptTsy_waits`) or is done (`PX.acceptTsy_done`). -/
theorem translationServices : Obligations.TranslationServices := by
  intro s p key pool i k ht hturn _ set same waits
  have htargets : (s.servicePx p key k).s.tivSet k = set := rfl
  have hone : ∀ e ∈ [Eff.event 1 1 (wpOf k)], e.counts := by simp [Eff.counts]
  generalize hn : popc set = n
  have hpop : popc ((s.servicePx p key k).s.tivSet k) = n := (congrArg popc htargets).trans hn
  refine ⟨fun ho hset => ?_, fun ho hset hidle => ?_, fun ho hbusy => ?_, fun ho hidle => ?_⟩
  · obtain ⟨c, hx⟩ := PX.acceptTiv_sends (pool := pool) (i := i) hpop hset
    have htwo : ∀ e ∈ [Eff.event 1 1 (wpOf k), .event c 1 (wpOf k)], e.counts := by simp [Eff.counts]
    obtain ⟨t, hrun, hserves, hsent⟩ := State.serviceStep_serves (set := set) (ks := [_]) ht hturn ho ((if_pos rfl).trans hx) rfl htwo
      ⟨rfl, rfl, rfl, fun _ => ⟨rfl, hn.symm, rfl⟩⟩
    exact ⟨t, _, hrun, hserves, hsent, rfl, rfl, rfl, rfl, rfl, tivDesc_descriptor .., tivDesc_world ..,
      tivDesc_zero _ _ (by decide) (by decide), tivDesc_zero _ _ (by decide) (by decide)⟩
  · have hzero := hn.trans hset
    have hx := PX.acceptTiv_done (pool := pool) (i := i) (hpop.trans hset) hidle
    obtain ⟨t, hrun, hserves, hsent⟩ := State.serviceStep_serves (set := set) (ks := [_]) ht hturn ho ((if_pos rfl).trans hx) rfl hone
      ⟨rfl, rfl, rfl, fun _ => ⟨(popc_eq_zero hzero).symm, hzero.symm, rfl⟩⟩
    exact ⟨t, _, hrun, hserves, hsent, PX.rspMsg_answers ..⟩
  · have hx := PX.acceptTsy_waits (x := s.servicePx p key k) (pool := pool) (i := i) hbusy
    have hpn : ((s.servicePx p key k).accepted.setHtc i ((s.servicePx p key k).serviceHtc .tsy k pool)).pn =
        (s.servicePx p key k).served i ((s.servicePx p key k).serviceHtc .tsy k pool) [] := by
      simp [PX.served, PX.accepted, PX.mod]
    obtain ⟨t, hrun, hserves, hsent⟩ := State.serviceStep_serves (set := set) ht hturn ho
      ((if_neg (by decide)).trans hx) hpn hone ⟨rfl, rfl, rfl, nofun⟩
    exact ⟨t, hrun, hserves, hsent⟩
  · have hx := PX.acceptTsy_done (x := s.servicePx p key k) (pool := pool) (i := i) hidle
    obtain ⟨t, hrun, hserves, hsent⟩ := State.serviceStep_serves (set := set) (ks := [_]) ht hturn ho
      ((if_neg (by decide)).trans hx) rfl hone ⟨rfl, rfl, rfl, nofun⟩
    exact ⟨t, _, hrun, hserves, hsent, PX.rspMsg_answers ..⟩
end

section
/-! Obligation O23, refuted. With the root's crossbar frozen, as an uncorrectable flit header leaves it (R438), the command EBAR does nothing,
neither at the root nor at a panel (`execEbar_frozen`); the panels' own inputs stop only where the root's arbiters are frozen
(`State.atInput`). The clause of the copy at its panel asks that the panel takes from its inputs and not that the crossbar is in service, so it
takes a state in which the panel is in service and the crossbar is not; there the copy stays where it is. -/

namespace Sys2Proof.Machine

theorem execEbar_frozen {s : State} (h : s.routerFrozen 40 = true) (b p : Nat) (u : Upset) : exec (.ebar b p u) s = .next s := by
  have hstays (f : State → State) : (s.whenLive fun s => if s.routerFrozen 40 then s else f s) = s := by
    simp [State.whenLive, h]
  change execEbar b p u s = _
  rw [execEbar, hstays, ite_self]

/-- The copy of an EBar of agent 5. -/
def barrierCopy : Packet := { hdr := { cls := cREQ, opc := oEBar, prio := 2, src := 5, tag := 9, part := 3 } }

/-- The copy at the input of panel 0, which has nothing in work; the root has found an uncorrectable flit header. -/
def frozenCrossbar : State :=
  { overlapBlock {} with net := { qs := [(locKey (.panelIn 0) cREQ, [barrierCopy])] } }.routerFatal 40 0x80

theorem frozenCrossbar_takes : frozenCrossbar.takes 0 ∧ (frozenCrossbar.panel 0).calm := by
  unfold State.takes State.acts Panel.calm
  decide +kernel

theorem frozenCrossbar_turn : frozenCrossbar.routerFrozen 40 = true ∧ frozenCrossbar.build.hasBranch 0 = true ∧
    frozenCrossbar.ebarHead 0 = none ∧ (frozenCrossbar.px 0 {}).reqTurn = some (cREQ, barrierCopy, 0, 0) := by
  decide +kernel

theorem frozenCrossbar_idle : (frozenCrossbar.panel 0).proxy = [] ∧ (frozenCrossbar.panel 0).htcs = [] ∧ (frozenCrossbar.panel 0).wrs = [] := by
  decide +kernel

end Sys2Proof.Machine

open Sys2Proof Sys2Proof.Machine

/-- Refutes O23: an EBar's copy at a panel that takes requests is not accepted while the root's crossbar is frozen. -/
theorem not_barriersAtTheRoot : ¬ Obligations.BarriersAtTheRoot := by
  rintro ⟨-, -, hcopy, -⟩
  obtain ⟨htakes, hcalm⟩ := frozenCrossbar_takes
  obtain ⟨hfrozen, hbranch, hnone, hturn⟩ := frozenCrossbar_turn
  obtain ⟨hproxy, hhtcs, hwrs⟩ := frozenCrossbar_idle
  obtain ⟨-, hdone⟩ := hcopy frozenCrossbar 0 0 cREQ 0 0 barrierCopy htakes hcalm hbranch hnone hturn rfl (by simp [hproxy])
  obtain ⟨t, c, hrun, ⟨-, -, -, -, -, h, hfind, -⟩, -⟩ := hdone (by simp [hhtcs, hwrs])
  obtain rfl : frozenCrossbar = t := Host.Outcome.next.inj ((execEbar_frozen hfrozen 0 0 {}).symm.trans hrun)
  rw [hhtcs] at hfind
  cases hfind
end

section
/-! Obligation O57: stores of a secure ring to the partition table and to the port-status blocks. -/

namespace Sys2Proof.Machine

variable {s : State} {b : Build} {ring : Nat}

theorem Build.blk6_partition {q : Nat} (hq : q < 64) : b.blk6 (0xA0000 + 8 * q) = .pt (0xA0000 + 8 * q) := by
  unfold Build.blk6
  simp only
  rw [if_neg (by omega), if_neg (by omega), if_neg (by omega), if_neg (by omega), if_neg (by omega), if_pos (by omega)]

/-- No word stands at an offset that is no multiple of 8 (R357). -/
theorem Build.blk6_unaligned {off : Nat} (h : ¬ 8 ∣ off) : b.blk6 off = .absent := if_pos (by omega)

/-- A secure store of PT_SIT that no lock holds (R368, R392). -/
theorem State.regStore_partition (hl : s.live) (hr : ring < 8) {q : Nat} (hq : q < 64) (hk : s.host.locks.getLsbD 1 = false) (v : BitVec 64) :
    s.regStore ring 6 (0xA0000 + 8 * q) v = .next (s.ptStore (0xA0000 + 8 * q) v) := by
  have hblk := Build.blk6_partition (b := s.build) hq
  rw [State.regStore_six hl hr (by rw [State.locked6, hblk]; exact hk), State.store6, hblk]

theorem State.regStore_unaligned (hl : s.live) (hr : ring < 8) {off : Nat} (h : ¬ 8 ∣ off) (v : BitVec 64) :
    s.regStore ring 6 off v = .next s := by
  have hblk := Build.blk6_unaligned (b := s.build) h
  rw [State.regStore_six hl hr (by rw [State.locked6, hblk]), State.store6, hblk]

/-- The sitting window of a partition is held to 32 to 4,096 (R368). -/
theorem State.ptSit_ptStore (s : State) (q : Nat) (v : BitVec 64) :
    ((s.ptStore (0xA0000 + 8 * q) v).ptSit q).toNat = max 32 (min 4096 (v.toNat % 2 ^ 13)) := by
  rw [State.ptSit, State.ptStore, State.w6g_w6s, BitVec.toNat_ofNat]
  omega

/-- A port as a store of its PS_STATE leaves it: a 1 clears a W1C bit that was not set in this KCLK, and SHOLD is taken (R20, R305). -/
def State.statusStored (s : State) (n : Nat) (v : BitVec 64) : Port :=
  let x := s.port n
  let keeps (b : Nat) : Bool := !v.getLsbD b || s.justSet (kPs n b)
  { x with
    crdOvf := x.crdOvf && keeps 19, hbLapse := x.hbLapse && keeps 18, hdrFault := x.hdrFault && keeps 17
    introErr := x.introErr && keeps 16, shold := v.getLsbD 8 }

theorem State.psStore_state (s : State) (n : Nat) (v : BitVec 64) : s.psStore n 0 v = s.setPort n (s.statusStored n v) := rfl

end Sys2Proof.Machine

open Sys2Proof Sys2Proof.Machine

/-- Settles O57: each word is stored through its block of space 0x6 (`State.regStore_partition`, `State.regStore_slot`), and an offset
between words names none (`State.regStore_unaligned`). -/
theorem easelRegisterStoreTakesEffect : Obligations.EaselRegisterStoreTakesEffect := by
  intro ring v s hl hr
  refine ⟨fun q hq hk => ?_, fun n hb hn => ?_, fun n hb hn => ?_, fun off h => State.regStore_unaligned hl hr h v⟩
  · exact ⟨_, State.regStore_partition hl hr hq hk v, .refl s, .refl s, rfl, s.ptSit_ptStore q v, fun o ho => State.w6g_w6s_ne _ _ ho⟩
  · have hrun : exec (.easelRegisterStore ring 6 (0x100 * n) v) s = .next (s.setPort n (s.statusStored n v)) := by
      rw [← State.psStore_state]
      exact (State.regStore_slot hl hr hn (r := 0) (by decide) (by decide) v).trans (congrArg _ (if_pos hb))
    refine ⟨_, hrun, .refl s, .refl s, rfl, fun m hm => State.port_setPort_ne _ _ hm, ?_⟩
    rw [State.port_setPort]
    exact ⟨rfl, rfl, rfl, rfl, rfl, rfl, rfl⟩
  · exact (State.regStore_slot hl hr hn (r := 0x10) (by decide) (by decide) v).trans (congrArg _ (if_pos hb))
end

section
/-! SUPPORT. A command to an agent port in service (R289, R290): what it leaves as it was, and the steps of a port's link. -/

namespace Sys2Proof.Machine

variable {s t : State} {n : Nat}

theorem State.portActs.lt (h : s.portActs n) : n < 256 := by
  obtain ⟨-, hn, -⟩ := h
  exact hn

theorem State.portActs.cellsOpen (h : s.portActs n) : s.clk.cellsOpen = true := by
  obtain ⟨-, -, -, hopen⟩ := h
  exact hopen

theorem State.atPort_of_acts (h : s.portActs n) (f : State → State) : s.atPort n f = .next (f s) := by
  obtain ⟨hn, -, hl⟩ := h
  unfold State.atPort
  rw [if_pos hn, State.whenLive_of_open s _ hl.1 hl.2]

theorem LinkWord.ok_iff {w : LinkWord} : w.ok = true ↔ w.par = linkPar w.word := decide_eq_true_iff

/-- A field of a word has a value as a number where it has it as bits. -/
theorem bitsN_eq_toNat_iff {m len : Nat} (v : BitVec m) (lo : Nat) (b : BitVec len) :
    bitsN v.toNat lo len = b.toNat ↔ v.extractLsb' lo len = b := by
  rw [toNat_bitsN, BitVec.toNat_eq]

/-! ### What stays beyond a port -/

theorem PortFrame.refl (s : State) (n : Nat) : PortFrame s s n :=
  ⟨⟨rfl, rfl, rfl⟩, fun _ _ => rfl, rfl, rfl, rfl, rfl, rfl, rfl, rfl, rfl, rfl, rfl, rfl, rfl, rfl⟩

theorem PortFrame.setPort (h : PortFrame s t n) (x : Port) : PortFrame s (t.setPort n x) n := by
  obtain ⟨hbase, hother, hrest⟩ := h
  exact ⟨hbase, fun i hi => (State.port_setPort_ne _ _ hi).trans (hother i hi), hrest⟩

theorem PortFrame.modPort (h : PortFrame s t n) (f : Port → Port) : PortFrame s (t.modPort n f) n := h.setPort _

theorem PortFrame.noteSet (h : PortFrame s t n) (k : Nat) : PortFrame s (t.noteSet k) n := h

theorem PortFrame.event (h : PortFrame s t n) (i : Nat) : PortFrame s (t.event i) n := h

theorem PortFrame.irqS (h : PortFrame s t n) (i : Nat) : PortFrame s (t.irqS i) n := h

theorem PortFrame.out (h : PortFrame s t n) (o : Out) : PortFrame s (t.out o) n := h

/-! ### A port's link -/

/-- The link of port `n` has moved: its port, its downward queues and what left the block have changed, and nothing else. -/
structure LinkMoves (s t : State) (n : Nat) : Prop where
  frame : ∃ m y o, t = { s with ports := m, net := { s.net with qs := y }, outs := o }
  others : OtherPorts s t n
  queues : ∀ l c, (∀ d, d < 6 → locKey l c ≠ locKey (.portDown n) d) → t.q l c = s.q l c

theorem LinkMoves.trans {u : State} (h : LinkMoves s t n) (k : LinkMoves t u n) : LinkMoves s u n := by
  obtain ⟨⟨_, _, _, rfl⟩, hother, hq⟩ := h
  obtain ⟨⟨_, _, _, rfl⟩, kother, kq⟩ := k
  exact ⟨⟨_, _, _, rfl⟩, fun i hi => (kother i hi).trans (hother i hi), fun l c hne => (kq l c hne).trans (hq l c hne)⟩

theorem LinkMoves.setPort (s : State) (n : Nat) (x : Port) : LinkMoves s (s.setPort n x) n :=
  ⟨⟨_, _, _, rfl⟩, fun _ hi => State.port_setPort_ne _ _ hi, fun _ _ _ => rfl⟩

theorem LinkMoves.out (s : State) (n : Nat) (o : Out) : LinkMoves s (s.out o) n :=
  ⟨⟨_, _, _, rfl⟩, fun _ _ => rfl, fun _ _ _ => rfl⟩

theorem foldl_emptied (n : Nat) (l : List Nat) (s : State) :
    ∃ y, l.foldl (fun (s : State) c => s.setQ (.portDown n) c []) s = { s with net := { s.net with qs := y } } := by
  induction l generalizing s with
  | nil => exact ⟨_, rfl⟩
  | cons c l ih => exact ih (s.setQ (.portDown n) c [])

theorem State.dropDown_eq (s : State) (n : Nat) : ∃ y, s.dropDown n = { s with net := { s.net with qs := y } } := foldl_emptied ..

/-- A queue that a port discards is empty, as where the port dies (R282, R290). -/
theorem State.q_dropDown (s : State) {n c : Nat} (hc : c < 6) : (s.dropDown n).q (.portDown n) c = [] := (s.cutDown_empties n).2 c hc

@[simp] theorem State.dropDown_port (s : State) (n i : Nat) : (s.dropDown n).port i = s.port i := by
  obtain ⟨y, hy⟩ := s.dropDown_eq n
  rw [hy]
  rfl

@[simp] theorem State.dropDown_outs (s : State) (n : Nat) : (s.dropDown n).outs = s.outs := by
  obtain ⟨y, hy⟩ := s.dropDown_eq n
  rw [hy]

theorem LinkMoves.dropDown (s : State) (n : Nat) : LinkMoves s (s.dropDown n) n := by
  obtain ⟨y, hy⟩ := s.dropDown_eq n
  exact ⟨⟨_, y, _, hy⟩, fun _ _ => State.dropDown_port .., (s.cutDown_empties n).1.others⟩

theorem LinkMoves.linkUp (s : State) (n : Nat) : LinkMoves s (s.linkUp n) n := (LinkMoves.setPort s n _).trans (.out _ n _)

theorem LinkMoves.slotBr (h : LinkMoves s t n) : t.slotBr n = s.slotBr n := by
  obtain ⟨⟨_, _, _, rfl⟩, -, -⟩ := h
  rfl

theorem LinkMoves.clk (h : LinkMoves s t n) : t.clk = s.clk := by
  obtain ⟨⟨_, _, _, rfl⟩, -, -⟩ := h
  rfl

/-! ### LINK_UP and the entry to INTRODUCE -/

/-- LINK_UP, as the block sends it to a partner (R276, R284). -/
def linkUpWord (n : Nat) : Out := .link n (linkWords [0x8100000C#32])

/-- A port once LINK_UP has given its partner the first credits (R276). -/
def Port.greeted (x : Port) : Port := { x with upHeld := upStart, upFreed := noCredits }

theorem State.linkUp_port (s : State) (n : Nat) : (s.linkUp n).port n = (s.port n).greeted :=
  (State.port_out _ _).trans (State.port_modPort ..)

theorem State.linkUp_outs (hopen : s.clk.cellsOpen = true) : (s.linkUp n).outs = s.outs ++ [linkUpWord n] := State.out_outs_open _ _ hopen

/-- LINK_UP is all that leaves the block where its link has moved in silence. -/
theorem LinkMoves.linkUp_outs (h : LinkMoves s t n) (hout : t.outs = s.outs) (hopen : s.clk.cellsOpen = true) (x : Port) :
    ((t.setPort n x).linkUp n).outs = s.outs ++ [linkUpWord n] := by
  rw [State.linkUp_outs, State.setPort_outs, hout]
  rw [State.setPort_clk, h.clk]
  exact hopen

/-- A port in DOWN may enter INTRODUCE (R290, R471, R480). -/
def State.mayAttach (s : State) (n : Nat) : Prop :=
  (s.port n).rst = false ∧ (s.port n).hsPend = false ∧ s.clk.initBusy = false ∧ s.slotBr n = 0

/-- A port in DOWN attaches where it may, with LINK_UP. -/
theorem State.attach_introduces (hdown : (s.port n).lstate = .down) (hmay : s.mayAttach n) :
    s.attach n = (s.setPort n { s.port n with lstate := .introduce }).linkUp n := by
  obtain ⟨hrst, hpend, hbusy, hbr⟩ := hmay
  exact if_pos ⟨hdown, by simp [hrst], by simp [hpend], by simp [hbusy], hbr⟩

theorem State.attach_stays (hmay : ¬ s.mayAttach n) : s.attach n = s := by
  refine if_neg fun h => hmay ?_
  obtain ⟨-, hrst, hpend, hbusy, hbr⟩ := h
  exact ⟨by simpa using hrst, by simpa using hpend, by simpa using hbusy, hbr⟩

theorem LinkMoves.attach (s : State) (n : Nat) : LinkMoves s (s.attach n) n := by
  unfold State.attach
  dsimp only
  split
  · exact (LinkMoves.setPort s n _).trans (.linkUp _ n)
  · exact ⟨⟨_, _, _, rfl⟩, fun _ _ => rfl, fun _ _ _ => rfl⟩

/-! ### The entry to DOWN -/

/-- A port as it enters DOWN (R290). -/
def Port.downed (x : Port) : Port :=
  { x with
    lstate := .down, fencing := false, eclOp := false, stored := none, dnCrd := noCredits, dnMax := noCredits, upq := []
    reclaimed := false, rstSince := false, upHeld := if x.rst || x.hsPend then noCredits else x.upHeld }

/-- The state of a port in DOWN before it looks whether it may attach. -/
def State.detached (s : State) (n : Nat) : State := (s.dropDown n).modPort n Port.downed

theorem State.portDown_eq (s : State) (n : Nat) : s.portDown n = (s.detached n).attach n := rfl

theorem LinkMoves.detached (s : State) (n : Nat) : LinkMoves s (s.detached n) n := (LinkMoves.dropDown s n).trans (.setPort _ n _)

theorem LinkMoves.portDown (s : State) (n : Nat) : LinkMoves s (s.portDown n) n := (LinkMoves.detached s n).trans (.attach _ n)

theorem State.detached_port (s : State) (n : Nat) : (s.detached n).port n = (s.port n).downed := by
  rw [State.detached, State.port_modPort, State.dropDown_port]

theorem State.detached_outs (s : State) (n : Nat) : (s.detached n).outs = s.outs := by
  rw [State.detached, State.modPort_outs, State.dropDown_outs]

theorem State.detached_mayAttach : (s.detached n).mayAttach n ↔ s.mayAttach n := by
  unfold State.mayAttach
  rw [State.detached_port, (LinkMoves.detached s n).slotBr]
  rfl

/-- A port that enters DOWN and may not attach stays there. -/
theorem State.portDown_stays (hmay : ¬ s.mayAttach n) : s.portDown n = s.detached n := by
  rw [State.portDown_eq, State.attach_stays (mt State.detached_mayAttach.1 hmay)]

/-- A port that enters DOWN with its crossing in service goes on to INTRODUCE (R290). -/
theorem State.portDown_introduces (hmay : s.mayAttach n) :
    s.portDown n = ((s.detached n).setPort n { (s.port n).downed with lstate := .introduce }).linkUp n := by
  rw [State.portDown_eq, State.attach_introduces (by rw [State.detached_port]; rfl) (State.detached_mayAttach.2 hmay), State.detached_port]

end Sys2Proof.Machine
end

section
/-! Obligation O11: AP_RST_N takes a port's crossing out of service, and the handshake brings it back (R276, R282, R283, R290). -/

namespace Sys2Proof.Machine

variable {s t : State} {n : Nat}

/-! ### AP_RST_N asserted -/

/-- A port whose crossing has gone out of service (R276, R282). -/
def Port.unlinked (x : Port) : Port :=
  { x with rst := true, hsPend := true, dnCrd := noCredits, upHeld := noCredits, upFreed := noCredits }

/-- The crossing is out of service, with no credit on either side. -/
def Port.OutOfService (x : Port) : Prop := x.rst = true ∧ x.hsPend = true ∧ x.upHeld = noCredits ∧ x.dnCrd = noCredits

/-- The crossing of port `n` goes out of service, before its link state follows. -/
def State.unlinked (s : State) (n : Nat) : State := s.modPort n Port.unlinked

theorem State.unlinked_port (s : State) (n : Nat) : (s.unlinked n).port n = (s.port n).unlinked := State.port_modPort ..

theorem LinkMoves.unlinked (s : State) (n : Nat) : LinkMoves s (s.unlinked n) n := .setPort s n _

theorem State.unlinked_mayNot (s : State) (n : Nat) : ¬ (s.unlinked n).mayAttach n := fun h => by
  have hrst := h.1
  rw [State.unlinked_port] at hrst
  cases hrst

/-- A port reset that leaves no agent behind ends in DOWN (R290). -/
def State.resetDown (s : State) (n : Nat) : State := (s.unlinked n).detached n

theorem State.resetDown_port (s : State) (n : Nat) : (s.resetDown n).port n = (s.port n).unlinked.downed := by
  rw [State.resetDown, State.detached_port, State.unlinked_port]

theorem State.resetDown_outs (s : State) (n : Nat) : (s.resetDown n).outs = s.outs := by
  rw [State.resetDown, State.detached_outs]
  rfl

theorem State.apReset_down (h : (s.port n).lstate = .down) : s.apReset n = s.unlinked n := by
  simp only [State.apReset, State.port_modPort, h]
  rfl

theorem State.apReset_unadmitted (h : (s.port n).lstate = .introduce ∨ (s.port n).lstate = .ready) : s.apReset n = s.resetDown n := by
  refine Eq.trans ?_ (State.portDown_stays (s.unlinked_mayNot n))
  rcases h with h | h <;> simp only [State.apReset, State.port_modPort, h] <;> rfl

theorem State.apReset_admitted (h : (s.port n).lstate = .admitted) : s.apReset n = (s.unlinked n).portDead n 4 := by
  simp only [State.apReset, State.port_modPort, h]
  rfl

theorem State.apReset_eclipsed (h : (s.port n).lstate = .eclipsed) :
    s.apReset n = (s.unlinked n).modPort n fun x => { x with rstSince := true, stored := none } := by
  simp only [State.apReset, State.port_modPort, h]
  rfl

theorem State.apReset_reclaimed (h : (s.port n).lstate = .dead) (hr : (s.port n).reclaimed = true) : s.apReset n = s.resetDown n := by
  refine Eq.trans ?_ (State.portDown_stays (s.unlinked_mayNot n))
  simp only [State.apReset, State.port_modPort, h, hr]
  rfl

theorem State.apReset_dead (h : (s.port n).lstate = .dead) (hr : (s.port n).reclaimed = false) :
    s.apReset n = (s.unlinked n).modPort n fun x => { x with rstSince := true } := by
  simp only [State.apReset, State.port_modPort, h, hr]
  rfl

/-- A port reset kills an admitted port, with cause 4 (R290, R444). -/
theorem State.apReset_dies (hn : n < 256) (hopen : s.clk.cellsOpen = true) (hadm : (s.port n).lstate = .admitted) :
    Died s (s.apReset n) n 4 ∧ (s.apReset n).port n = (s.port n).unlinked.died 4 := by
  rw [State.apReset_admitted hadm]
  refine ⟨Died.of_port (v := s.unlinked n) ⟨_, _, rfl⟩ (LinkMoves.unlinked s n).others ?_ ((s.unlinked n).portDead_died hn hopen 4), ?_⟩
  · rw [State.unlinked_port]
    exact ⟨rfl, rfl, rfl, rfl, rfl, rfl, rfl⟩
  · rw [State.portDead_port _ hn, State.unlinked_port]

/-- What a port reset does in every link state (R276, R282). -/
structure Unlinks (s t : State) (n : Nat) : Prop where
  others : OtherPorts s t n
  panels : t.panels = s.panels
  mps : t.mps = s.mps
  clk : t.clk = s.clk
  port : (t.port n).OutOfService

theorem LinkMoves.unlinks (h : LinkMoves s t n) (hport : (t.port n).OutOfService) : Unlinks s t n := by
  obtain ⟨⟨_, _, _, rfl⟩, hother, -⟩ := h
  exact ⟨hother, rfl, rfl, rfl, hport⟩

theorem LinkMoves.resetDown (s : State) (n : Nat) : LinkMoves s (s.resetDown n) n := (LinkMoves.unlinked s n).trans (.detached _ n)

theorem State.resetDown_unlinks (s : State) (n : Nat) : Unlinks s (s.resetDown n) n := by
  refine (LinkMoves.resetDown s n).unlinks ?_
  rw [State.resetDown_port]
  exact ⟨rfl, rfl, rfl, rfl⟩

/-- A change of the port alone behind its reset. -/
theorem State.unlinked_unlinks (s : State) (n : Nat) {f : Port → Port} (hf : (f (s.port n).unlinked).OutOfService) :
    Unlinks s ((s.unlinked n).modPort n f) n := by
  refine ((LinkMoves.unlinked s n).trans (.setPort _ n _)).unlinks ?_
  rwa [State.port_setPort, State.unlinked_port]

theorem State.apReset_unlinks (hn : n < 256) (hopen : s.clk.cellsOpen = true) : Unlinks s (s.apReset n) n := by
  cases hs : (s.port n).lstate with
  | down =>
    rw [State.apReset_down hs]
    refine (LinkMoves.unlinked s n).unlinks ?_
    rw [State.unlinked_port]
    exact ⟨rfl, rfl, rfl, rfl⟩
  | introduce =>
    rw [State.apReset_unadmitted (.inl hs)]
    exact s.resetDown_unlinks n
  | ready =>
    rw [State.apReset_unadmitted (.inr hs)]
    exact s.resetDown_unlinks n
  | admitted =>
    obtain ⟨⟨-, -, -, -, -, -, -, -, -, -, -, -, -, -, hother, hpanels, hmps, hclk, -⟩, hport⟩ := State.apReset_dies hn hopen hs
    refine ⟨hother, hpanels, hmps, hclk, ?_⟩
    rw [hport]
    exact ⟨rfl, rfl, rfl, rfl⟩
  | eclipsed =>
    rw [State.apReset_eclipsed hs]
    exact s.unlinked_unlinks n ⟨rfl, rfl, rfl, rfl⟩
  | dead =>
    cases hr : (s.port n).reclaimed with
    | true =>
      rw [State.apReset_reclaimed hs hr]
      exact s.resetDown_unlinks n
    | false =>
      rw [State.apReset_dead hs hr]
      exact s.unlinked_unlinks n ⟨rfl, rfl, rfl, rfl⟩

theorem execApRstAssert_live (h : s.portActs n) : exec (.apRstAssert n) s = .next (s.apReset n) := congrArg _ (if_pos h.1)

/-! ### The handshake -/

/-- A port whose crossing comes into service: each side has answered the other's toggle (R282, R283). -/
def Port.handshaken (x : Port) : Port := { x with hsPend := false, rsAck := x.rsReq, rlAck := x.rlReq, upq := [] }

/-- The handshake is over, and each side has answered the request that stands. -/
def Synced (x y : Port) : Prop :=
  y.hsPend = false ∧ y.rsReq = x.rsReq ∧ y.rsAck = x.rsReq ∧ y.rlReq = x.rlReq ∧ y.rlAck = x.rlReq ∧ y.upq = []

/-- The crossing of port `n` comes into service with its queues discarded, before its link state follows. -/
def State.handshaken (s : State) (n : Nat) : State := (s.setPort n (s.port n).handshaken).dropDown n

theorem State.handshaken_port (s : State) (n : Nat) : (s.handshaken n).port n = (s.port n).handshaken := by
  rw [State.handshaken, State.dropDown_port, State.port_setPort]

theorem LinkMoves.handshaken (s : State) (n : Nat) : LinkMoves s (s.handshaken n) n := (LinkMoves.setPort s n _).trans (.dropDown _ n)

/-- A handshake can end at port `n`: AP_RST_N is released, the handshake has begun, and the root does not hold the branch (R471). -/
def State.handshakes (s : State) (n : Nat) : Prop := (s.port n).rst = false ∧ (s.port n).hsPend = true ∧ s.slotBr n < 2

theorem State.portHandshake_stays (h : (s.port n).rst = true ∨ (s.port n).hsPend = false ∨ 2 ≤ s.slotBr n) : s.portHandshake n = s :=
  if_pos (by simpa using h)

/-- The state of a port in ECLIPSED whose partner has answered: it has the credits of its last INTRO, unless it has been reset since
(R276, R302). -/
def Port.restored (x : Port) : Port := { x with dnCrd := if x.rstSince && x.stored.isNone then noCredits else x.dnMax }

theorem Port.restored_lstate (x : Port) : x.handshaken.restored.greeted.lstate = x.lstate := rfl

theorem State.portHandshake_down (h : s.handshakes n) (hs : (s.port n).lstate = .down) :
    s.portHandshake n = (s.handshaken n).attach n := by
  obtain ⟨hrst, hpend, hbr⟩ := h
  unfold State.portHandshake
  dsimp only
  rw [if_neg (by simp [hrst, hpend, hbr])]
  split
  next => rfl
  next he => exact absurd (hs.symm.trans he) nofun
  next hd _ => exact absurd hs hd

theorem State.portHandshake_eclipsed (h : s.handshakes n) (hs : (s.port n).lstate = .eclipsed) :
    s.portHandshake n = ((s.handshaken n).setPort n (s.port n).handshaken.restored).linkUp n := by
  obtain ⟨hrst, hpend, hbr⟩ := h
  rw [← State.handshaken_port]
  unfold State.portHandshake
  dsimp only
  rw [if_neg (by simp [hrst, hpend, hbr])]
  split
  next hd => exact absurd (hs.symm.trans hd) nofun
  next => rfl
  next _ he => exact absurd hs he

theorem State.portHandshake_other (h : s.handshakes n) (hdown : (s.port n).lstate ≠ .down) (hecl : (s.port n).lstate ≠ .eclipsed) :
    s.portHandshake n = s.handshaken n := by
  obtain ⟨hrst, hpend, hbr⟩ := h
  unfold State.portHandshake
  dsimp only
  rw [if_neg (by simp [hrst, hpend, hbr])]
  split
  next hs => exact absurd hs hdown
  next hs => exact absurd hs hecl
  next => rfl

/-- What the end of a handshake does in every link state (R282, R283). -/
structure Syncs (s t : State) (n : Nat) : Prop where
  moves : LinkMoves s t n
  empty : ∀ c, c < 6 → t.q (.portDown n) c = []
  port : Synced (s.port n) (t.port n)

theorem State.handshaken_syncs (s : State) (n : Nat) : Syncs s (s.handshaken n) n := by
  refine ⟨.handshaken s n, fun _ hc => State.q_dropDown _ hc, ?_⟩
  rw [State.handshaken_port]
  exact ⟨rfl, rfl, rfl, rfl, rfl, rfl⟩

/-- Sending LINK_UP, and a new link state, keep what a handshake has done. -/
theorem Syncs.greeted (h : Syncs s t n) {x : Port} (hx : Synced (s.port n) x) : Syncs s ((t.setPort n x).linkUp n) n := by
  obtain ⟨hmoves, hempty, -⟩ := h
  refine ⟨(hmoves.trans (.setPort t n x)).trans (.linkUp _ n), hempty, ?_⟩
  rw [State.linkUp_port, State.port_setPort]
  exact hx

theorem State.portHandshake_syncs (h : s.handshakes n) : Syncs s (s.portHandshake n) n := by
  have hsync := s.handshaken_syncs n
  by_cases hdown : (s.port n).lstate = .down
  · rw [State.portHandshake_down h hdown]
    by_cases hmay : (s.handshaken n).mayAttach n
    · rw [State.attach_introduces (by rw [State.handshaken_port]; exact hdown) hmay]
      exact hsync.greeted hsync.port
    · rwa [State.attach_stays hmay]
  · by_cases hecl : (s.port n).lstate = .eclipsed
    · rw [State.portHandshake_eclipsed h hecl]
      exact hsync.greeted ⟨rfl, rfl, rfl, rfl, rfl, rfl⟩
    · rwa [State.portHandshake_other h hdown hecl]

/-- Once the handshake is over, a port in DOWN may attach where the branch is in service and the initialisation has ended (R471, R480). -/
theorem State.handshaken_mayAttach (h : s.handshakes n) : (s.handshaken n).mayAttach n ↔ s.slotBr n = 0 ∧ s.clk.initBusy = false := by
  rw [State.mayAttach, State.handshaken_port, (LinkMoves.handshaken s n).slotBr, (LinkMoves.handshaken s n).clk]
  exact ⟨fun ⟨_, _, hbusy, hbr⟩ => ⟨hbr, hbusy⟩, fun ⟨hbr, hbusy⟩ => ⟨h.1, rfl, hbusy, hbr⟩⟩

theorem State.handshaken_outs (s : State) (n : Nat) : (s.handshaken n).outs = s.outs := by
  rw [State.handshaken, State.dropDown_outs]
  rfl

end Sys2Proof.Machine

open Sys2Proof Sys2Proof.Machine

/-- Settles O11: a port reset takes the crossing out of service in every link state (`State.apReset_unlinks`), and the end of a handshake
brings it back (`State.portHandshake_syncs`); the link state follows by one equation for each state. -/
theorem portResetAndAttachment : Obligations.PortResetAndAttachment := by
  refine ⟨fun s n ha => ?_, fun s n ha => ?_⟩
  · obtain ⟨hother, hpanels, hmps, hclk, hrst, hpend, hup, hdn⟩ := State.apReset_unlinks (s := s) (n := n) ha.lt ha.cellsOpen
    refine ⟨_, execApRstAssert_live ha, hother, hpanels, hmps, hclk, hrst, hpend, hup, hdn, fun hs => ?_, fun hs => ?_, fun hs => ?_,
      fun hs => ?_, fun hs hr => ?_, fun hs hr => ?_⟩
    · rw [State.apReset_down hs, State.unlinked_port]
      exact ⟨hs, rfl⟩
    · rw [State.apReset_unadmitted hs, State.resetDown_port]
      exact ⟨rfl, s.resetDown_outs n⟩
    · obtain ⟨⟨hdead, hcause, -, -, -, -, -, -, -, -, -, -, -, -, -, -, -, -, -, -, -, -, -, houts, -⟩, hport⟩ :=
        State.apReset_dies (s := s) (n := n) ha.lt ha.cellsOpen hs
      exact ⟨hdead, hcause, by rw [hport]; rfl, houts⟩
    · rw [State.apReset_eclipsed hs, State.port_modPort, State.unlinked_port]
      exact ⟨hs, rfl, rfl⟩
    · rw [State.apReset_reclaimed hs hr, State.resetDown_port]
      rfl
    · rw [State.apReset_dead hs hr, State.port_modPort, State.unlinked_port]
      exact ⟨hs, rfl⟩
  · intro x
    have hrun : exec (.handshakeComplete (.agent n)) s = .next (s.portHandshake n) := State.atPort_of_acts ha _
    refine ⟨congrArg _ (if_pos ha.1), fun hno => hrun.trans (congrArg _ (State.portHandshake_stays hno)), fun hrst hpend hbr => ?_⟩
    have hgo : s.handshakes n := ⟨hrst, hpend, hbr⟩
    obtain ⟨⟨⟨_, _, _, heq⟩, hother, hq⟩, hempty, hpend', hrs, hrsA, hrl, hrlA, hupq⟩ := State.portHandshake_syncs hgo
    refine ⟨_, hrun, ?_, hother, ?_, ?_, ?_, ?_, ?_, hempty, hq, hpend', hrs, hrsA, hrl, hrlA, hupq, fun hs hbr0 hbusy => ?_, fun hs hno => ?_,
      fun hs => ?_, fun hs => ?_⟩
    · rw [heq]; exact ⟨rfl, rfl, rfl⟩
    · rw [heq]; exact ⟨rfl, rfl, rfl⟩
    · rw [heq]
    · rw [heq]
    · rw [heq]
    · rw [heq]
    · rw [State.portHandshake_down hgo hs, State.attach_introduces (by rw [State.handshaken_port]; exact hs)
        ((State.handshaken_mayAttach hgo).2 ⟨hbr0, hbusy⟩), State.linkUp_port, State.port_setPort]
      exact ⟨rfl, rfl, (LinkMoves.handshaken s n).linkUp_outs (s.handshaken_outs n) ha.cellsOpen _⟩
    · have hmay : ¬ (s.handshaken n).mayAttach n := fun hmay => by
        obtain ⟨hbr0, hbusy⟩ := (State.handshaken_mayAttach hgo).1 hmay
        rcases hno with hno | hno
        · omega
        · simp [hbusy] at hno
      rw [State.portHandshake_down hgo hs, State.attach_stays hmay, State.handshaken_port]
      exact ⟨hs, s.handshaken_outs n⟩
    · rw [State.portHandshake_eclipsed hgo hs, State.linkUp_port, State.port_setPort]
      refine ⟨?_, (LinkMoves.handshaken s n).linkUp_outs (s.handshaken_outs n) ha.cellsOpen _⟩
      rw [Port.restored_lstate, hs]
    · rw [State.portHandshake_other hgo (by rw [hs]; nofun) (by rw [hs]; nofun), State.handshaken_port]
      exact ⟨rfl, s.handshaken_outs n⟩
end

section
/-! Obligation O12: an INTRO settles, or fails with the CAUSE of the first check that fails (R284 to R288, R290, R474). -/

namespace Sys2Proof.Machine

variable {s t : State} {n : Nat} {w : Nat → BitVec 32}

/-! ### The checks of R287 -/

/-- The sixteen words of a whole INTRO record. -/
def introList (w : Nat → BitVec 32) : List (BitVec 32) := (List.range 16).map w

theorem introVersions_eq_zero (v : BitVec 32) : v.extractLsb' 2 2 = 0 ↔ v.getLsbD 2 = false ∧ v.getLsbD 3 = false := by
  constructor
  · intro h
    have hbit (i : Nat) : (v.extractLsb' 2 2).getLsbD i = false := by rw [h]; exact BitVec.getLsbD_zero
    exact ⟨by simpa using hbit 0, by simpa using hbit 1⟩
  · rintro ⟨h2, h3⟩
    refine BitVec.eq_of_getLsbD_eq fun i hi => ?_
    obtain rfl | rfl : i = 0 ∨ i = 1 := by omega
    · simpa using h2
    · simpa using h3

theorem introKind_of_bits (k : BitVec 2) : k.toNat = 0 ∨ k.toNat = 3 ↔ k ≠ 1 ∧ k ≠ 2 := by
  revert k
  decide

/-- Checks 2 to 8 of R287 over the fields of a record. -/
def introChecks (w : Nat → BitVec 32) : Option Nat :=
  let kind := (w 1).extractLsb' 0 2
  let tracked := (w 2).extractLsb' 0 17
  let tags := (w 3).extractLsb' 0 13
  if (w 0).getLsbD 2 = false ∧ (w 0).getLsbD 3 = false then some 1
  else if kind ≠ 1 ∧ kind ≠ 2 then some 3
  else if 65536 < tracked.toNat ∨ (kind = 1 ∧ tracked = 0) ∨ (kind = 2 ∧ tracked ≠ 0) then some 4
  else if tags = 0 ∨ 4096 < tags.toNat then some 5
  else if (w 4).extractLsb' 0 3 = 0 then some 2
  else if (w 7).extractLsb' 0 16 = 0 then some 6
  else if (List.range 5).any fun i => (w 8).extractLsb' (4 * i) 4 = 0 then some 7
  else none

/-- The model's checks of a whole record are those over its fields. -/
theorem introFail_whole (hcrc : crc32 ((List.range 15).map w) = w 15) : introFail (introList w) false false = introChecks w := by
  have hget (i : Nat) (hi : i < 16) : (introList w).getD i 0 = w i := by simp [introList, hi]
  have htake : (introList w).take 15 = (List.range 15).map w := rfl
  have hlen : (introList w).length = 16 := rfl
  have hzero {m : Nat} (v : BitVec m) : v.toNat = 0 ↔ v = 0 := by simp [BitVec.toNat_eq]
  have hone (k : BitVec 2) : k.toNat = 1 ↔ k = 1 := (BitVec.toNat_eq (y := 1)).symm
  have htwo (k : BitVec 2) : k.toNat = 2 ↔ k = 2 := (BitVec.toNat_eq (y := 2)).symm
  unfold introFail introChecks
  simp only [hget, htake, hlen, hcrc, toNat_bitsN, introKind_of_bits, hone, htwo, Nat.reduceLT]
  simp only [hzero, introVersions_eq_zero, ne_eq, Bool.or_false, not_true_eq_false, decide_false, Bool.false_eq_true,
    if_false]

theorem one_le_toNat_iff {m : Nat} (v : BitVec m) : 1 ≤ v.toNat ↔ v ≠ 0 := by
  simp [Nat.one_le_iff_ne_zero, BitVec.toNat_eq]

/-- A record is sound where its CRC is right and it passes the checks 2 to 8. -/
theorem introSound_iff (hcrc : crc32 ((List.range 15).map w) = w 15) : introSound w ↔ introChecks w = none := by
  have hpass (p : Prop) [Decidable p] (c : Nat) (x : Option Nat) : (if p then some c else x) = none ↔ ¬ p ∧ x = none := by
    by_cases p <;> simp_all
  have hkinds : (w 1).extractLsb' 0 2 = 1 → (w 1).extractLsb' 0 2 ≠ 2 := fun h => by rw [h]; decide
  unfold introSound introChecks
  simp only [hpass, one_le_toNat_iff, and_true, List.any_eq_true, List.mem_range, decide_eq_true_eq, not_exists, not_and, not_or,
    Bool.not_eq_false, not_lt, hcrc, true_and]
  have hver : (w 0).getLsbD 2 = true ∨ (w 0).getLsbD 3 = true ↔ ((w 0).getLsbD 2 = false → (w 0).getLsbD 3 = true) := by
    cases (w 0).getLsbD 2 <;> simp
  rw [hver]
  constructor
  · rintro ⟨hv, hk, htr, htag, htag', hrest⟩
    refine ⟨hv, fun h1 h2 => ?_, ⟨htr, fun h1 h => ?_, fun h2 h => ?_⟩, ⟨htag, htag'⟩, hrest⟩
    · exact hk.elim (fun h => h1 h.1) fun h => h2 h.1
    · exact hk.elim (fun hk => hk.2 h) fun hk => hkinds h1 hk.1
    · exact hk.elim (fun hk => hkinds hk.1 h2) fun hk => h hk.2
  · rintro ⟨hv, hk, ⟨htr, h1, h2⟩, ⟨htag, htag'⟩, hrest⟩
    refine ⟨hv, ?_, htr, htag, htag', hrest⟩
    by_cases hone : (w 1).extractLsb' 0 2 = 1
    · exact .inl ⟨hone, h1 hone⟩
    · have htwo := not_not.1 (hk hone)
      exact .inr ⟨htwo, not_not.1 (h2 htwo)⟩

/-- A record with its CRC right that is not sound fails with the CAUSE of its first check (R287). -/
theorem introChecks_of_not_sound (hcrc : crc32 ((List.range 15).map w) = w 15) (h : ¬ introSound w) :
    ∃ c, introChecks w = some c ∧ BitVec.ofNat 32 c = introCause w := by
  rw [introSound_iff hcrc] at h
  revert h
  unfold introChecks introCause
  dsimp only
  split_ifs
  case neg => exact fun h => absurd rfl h
  all_goals exact fun _ => ⟨_, rfl, rfl⟩

theorem introFail_of_sound (h : introSound w) : introFail (introList w) false false = none := by
  rw [introFail_whole h.1, (introSound_iff h.1).1 h]

/-- Check 1 of R287: a parity error, missing words, or a wrong CRC. -/
theorem introFail_of_broken {v : List (BitVec 32)} {perr gap : Bool}
    (h : perr = true ∨ gap = true ∨ crc32 (v.take 15) ≠ v.getD 15 0) : introFail v perr gap = some 8 :=
  by
  refine if_pos ?_
  rcases h with rfl | rfl | h
  · simp
  · simp
  · simp only [h, ne_eq, not_false_eq_true, decide_true, Bool.or_true]

/-! ### What an INTRO settles, and the records that answer it (R284, R288) -/

theorem settle_version (v : List (BitVec 32)) : (settle v).version = if (v.getD 0 0).getLsbD 3 then 3 else 2 := rfl

theorem settle_kind (v : List (BitVec 32)) : (settle v).kind = ((v.getD 1 0).extractLsb' 0 2).toNat := toNat_bitsN ..

/-- The greatest beat an INTRO offers is settled. -/
theorem settle_beat (v : List (BitVec 32)) :
    (settle v).beat = if (v.getD 4 0).getLsbD 2 then 4 else if (v.getD 4 0).getLsbD 1 then 2 else 1 := by
  have hbits (b : BitVec 3) : (if 4 ≤ b.toNat then 4 else if 2 ≤ b.toNat then 2 else 1) =
      if b.getLsbD 2 then 4 else if b.getLsbD 1 then 2 else 1 := by
    revert b
    decide
  have h := hbits ((v.getD 4 0).extractLsb' 0 3)
  rw [← toNat_bitsN] at h
  simpa [settle] using h

theorem settle_feats_eq (v : List (BitVec 32)) :
    (settle v).feats = bitsN (v.getD 5 0).toNat 0 5 &&& (if (v.getD 0 0).getLsbD 3 then 31 else 9) &&&
      (if bitsN (v.getD 1 0).toNat 0 2 = 1 then 31 else 8) := rfl

/-- A feature is settled where the INTRO offers it, its version knows it and its kind may have it. -/
theorem settle_feats (v : List (BitVec 32)) {i : Nat} (hi : i < 5) :
    (settle v).feats.testBit i = ((v.getD 5 0).getLsbD i && ((v.getD 0 0).getLsbD 3 || decide (i = 0) || decide (i = 3)) &&
      (decide ((v.getD 1 0).extractLsb' 0 2 = 1) || decide (i = 3))) := by
  have hall : (31 : Nat).testBit i = true := by interval_cases i <;> rfl
  have hold : (9 : Nat).testBit i = (decide (i = 0) || decide (i = 3)) := by interval_cases i <;> rfl
  have hmem : (8 : Nat).testBit i = decide (i = 3) := by interval_cases i <;> rfl
  have hversion (p : Prop) [Decidable p] : (if p then 31 else 9 : Nat).testBit i = (decide p || decide (i = 0) || decide (i = 3)) := by
    by_cases hp : p
    · simp [hp, hall]
    · simp [hp, hold]
  have hkind (p : Prop) [Decidable p] : (if p then 31 else 8 : Nat).testBit i = (decide p || decide (i = 3)) := by
    by_cases hp : p
    · simp [hp, hall]
    · simp [hp, hmem]
  have hoffer : ((v.getD 5 0).extractLsb' 0 5).getLsbD i = (v.getD 5 0).getLsbD i := by simp [hi]
  have hone : bitsN (v.getD 1 0).toNat 0 2 = 1 ↔ (v.getD 1 0).extractLsb' 0 2 = 1 := bitsN_eq_toNat_iff _ _ (1 : BitVec 2)
  rw [settle_feats_eq, Nat.testBit_and, Nat.testBit_and, hversion, hkind, toNat_bitsN, BitVec.testBit_toNat, hoffer, decide_eq_decide.2 hone,
    Bool.decide_eq_true]

theorem introCredits_eq (v : List (BitVec 32)) :
    introCredits v = [((v.getD 8 0).extractLsb' 0 4).toNat, 0, ((v.getD 8 0).extractLsb' 4 4).toNat, ((v.getD 8 0).extractLsb' 8 4).toNat,
      ((v.getD 8 0).extractLsb' 12 4).toNat, ((v.getD 8 0).extractLsb' 16 4).toNat] := by
  simp only [introCredits, toNat_bitsN]

theorem settleRecord_length (r : Mode ⊕ Nat) (n : Nat) : (settleRecord r n).length = 16 := by cases r <;> rfl

theorem settleRecord_crc (r : Mode ⊕ Nat) (n : Nat) : (settleRecord r n).getD 15 0 = crc32 ((settleRecord r n).take 15) := by
  cases r <;> rfl

theorem and_toNat_lt (v : BitVec 32) {m : BitVec 32} {b : Nat} (h : m.toNat < b) : (v &&& m).toNat < b := by
  rw [BitVec.toNat_and]
  exact Nat.and_le_right.trans_lt h

/-! ### An INTRO in the leaf -/

/-- A port that keeps the words of an INTRO. -/
def Port.recorded (v : List (BitVec 32)) (x : Port) : Port := { x with intro := v ++ x.intro.drop v.length }

/-- A port with the downward credits of an INTRO (R284). -/
def Port.credited (v : List (BitVec 32)) (x : Port) : Port := { x with dnMax := introCredits v, dnCrd := introCredits v }

/-- A port that enters READY in the mode an INTRO settles (R288, R290). -/
def Port.readied (v : List (BitVec 32)) (x : Port) : Port :=
  { x with lstate := .ready, mode := settle v, maxSit := (v.getD 6 0).toNat }

/-- The answer to a sound INTRO: SETTLE, then STATE (R290). -/
def introAnswers (v : List (BitVec 32)) (n : Nat) : List Out :=
  [.link n (linkWords (settleRecord (.inl (settle v)) n)), .link n (linkWords [0x84000002#32])]

/-- A sound INTRO `v` in INTRODUCE. -/
def State.introduced (s : State) (n : Nat) (v : List (BitVec 32)) : State :=
  ((((s.modPort n (Port.recorded v)).modPort n (Port.credited v)).out
    (.link n (linkWords (settleRecord (.inl (settle v)) n)))).modPort n (Port.readied v)).sendState n

theorem State.introStep_settles (hs : (s.port n).lstate = .introduce) {v : List (BitVec 32)} {perr gap : Bool}
    (h : introFail (v.take 16) perr gap = none) : s.introStep n v perr gap = s.introduced n (v.take 16) := by
  simp only [State.introStep, hs, h]
  rfl

theorem PortFrame.introduced (s : State) (n : Nat) (v : List (BitVec 32)) : PortFrame s (s.introduced n v) n :=
  ((((PortFrame.refl s n).modPort _).modPort _).out _ |>.modPort _).out _

theorem State.introduced_port (s : State) (n : Nat) (v : List (BitVec 32)) :
    (s.introduced n v).port n = (((s.port n).recorded v).credited v).readied v := by
  rw [State.introduced, State.sendState, State.port_out, State.port_modPort, State.port_out, State.port_modPort, State.port_modPort]

theorem State.introduced_outs (hopen : s.clk.cellsOpen = true) (v : List (BitVec 32)) :
    (s.introduced n v).outs = s.outs ++ introAnswers v n := by
  rw [State.introduced, State.sendState, State.out_outs_open, State.modPort_outs, State.out_outs_open, State.port_modPort, introAnswers,
    List.append_assoc]
  · rfl
  · exact hopen
  · exact hopen

/-- An INTRO `v` that fails in INTRODUCE with cause `c`. -/
def State.rejected (s : State) (n : Nat) (v : List (BitVec 32)) (c : Nat) : State :=
  (((s.modPort n (Port.recorded v)).noteSet (kPs n 16)).modPort n fun x => { x with introErr := true }).out
    (.link n (linkWords (settleRecord (.inr c) n)))

theorem State.introStep_fails (hs : (s.port n).lstate = .introduce) {v : List (BitVec 32)} {perr gap : Bool} {c : Nat}
    (h : introFail (v.take 16) perr gap = some c) : s.introStep n v perr gap = s.rejected n (v.take 16) c := by
  simp only [State.introStep, hs, h]
  rfl

theorem PortFrame.rejected (s : State) (n : Nat) (v : List (BitVec 32)) (c : Nat) : PortFrame s (s.rejected n v c) n :=
  ((((PortFrame.refl s n).modPort _).noteSet _).modPort _).out _

theorem State.rejected_port (s : State) (n : Nat) (v : List (BitVec 32)) (c : Nat) :
    (s.rejected n v c).port n = { (s.port n).recorded v with introErr := true } := by
  rw [State.rejected, State.port_out, State.port_modPort]
  exact congrArg (fun x : Port => { x with introErr := true }) (State.port_modPort ..)

theorem State.rejected_outs (hopen : s.clk.cellsOpen = true) (v : List (BitVec 32)) (c : Nat) :
    (s.rejected n v c).outs = s.outs ++ [.link n (linkWords (settleRecord (.inr c) n))] := State.out_outs_open _ _ hopen

/-! ### The words on the link -/

variable {ws : List LinkWord}

/-- Word `i` of those on the link. -/
def linkWord (ws : List LinkWord) (i : Nat) : BitVec 32 := (ws.getD i {}).word

/-- No word of the INTRO is missing, and the parity of each behind word 0 holds (R287). -/
def introWhole (ws : List LinkWord) : Prop :=
  16 ≤ ws.length ∧ ∀ i, 1 ≤ i → i < 16 → (ws.getD i {}).par = linkPar (linkWord ws i)

theorem taken_getD (ws : List LinkWord) {i : Nat} (hi : i < 16) : ((ws.map (·.word)).take 16).getD i 0 = linkWord ws i := by
  rw [List.getD_eq_getElem?_getD, List.getElem?_take_of_lt hi, List.getElem?_map, linkWord, List.getD_eq_getElem?_getD]
  cases ws[i]? <;> rfl

theorem taken_whole (h : 16 ≤ ws.length) : (ws.map (·.word)).take 16 = introList (linkWord ws) := by
  refine List.ext_getElem (by simp [introList, h]) fun i hi hi' => ?_
  have hlt : i < 16 := by simpa [introList] using hi'
  have hget := taken_getD ws hlt
  rw [List.getD_eq_getElem _ _ hi] at hget
  simpa [introList] using hget

/-- The two marks of the leaf about the words behind word 0 (R285). -/
theorem introWhole_iff :
    introWhole ws ↔ ((ws.drop 1).take 15).any (fun x => !x.ok) = false ∧ decide (ws.length < 16) = false := by
  rw [decide_eq_false_iff_not, not_lt, and_comm, introWhole]
  refine and_congr_right fun hlen => ?_
  simp only [List.any_eq_false, Bool.not_eq_true', Bool.not_eq_false, LinkWord.ok_iff]
  rw [List.forall_mem_iff_forall_getElem]
  simp only [List.getElem_take, List.getElem_drop, linkWord]
  constructor
  · intro h i hi
    have hlt : i < 15 := by simp at hi; omega
    simpa [List.getElem?_eq_getElem (show 1 + i < ws.length by omega)] using h (1 + i) (by omega) (by omega)
  · intro h i h1 hi
    have hx := h (i - 1) (by simp; omega)
    rw [List.getD_eq_getElem _ _ (by omega)]
    simpa only [Nat.add_sub_cancel' h1] using hx

/-- Word 0 is that of an INTRO, its parity sound (R285). -/
def introFirst (ws : List LinkWord) : Prop := (ws.getD 0 {}).par = linkPar (linkWord ws 0) ∧ (linkWord ws 0).extractLsb' 24 8 = 2

theorem introFirst_iff : introFirst ws ↔ (ws.headD {}).ok = true ∧ bitsN (ws.headD {}).word.toNat 24 8 = 2 := by
  rw [show ws.headD {} = ws.getD 0 {} by cases ws <;> rfl]
  exact and_congr LinkWord.ok_iff.symm (bitsN_eq_toNat_iff _ _ (2 : BitVec 8)).symm

/-- The CAUSE with which the leaf answers an INTRO that is not sound (R287). -/
theorem introFail_of_not_sound (hno : ¬ (introSound (linkWord ws) ∧ introWhole ws)) :
    ∃ c, introFail ((ws.map (·.word)).take 16) (((ws.drop 1).take 15).any fun x => !x.ok) (decide (ws.length < 16)) = some c ∧
      (¬ introWhole ws ∨ crc32 ((List.range 15).map (linkWord ws)) ≠ linkWord ws 15 → BitVec.ofNat 32 c = 8) ∧
      (introWhole ws → crc32 ((List.range 15).map (linkWord ws)) = linkWord ws 15 → BitVec.ofNat 32 c = introCause (linkWord ws)) := by
  by_cases hwhole : introWhole ws
  · obtain ⟨hperr, hgap⟩ := introWhole_iff.1 hwhole
    rw [hperr, hgap, taken_whole hwhole.1]
    by_cases hcrc : crc32 ((List.range 15).map (linkWord ws)) = linkWord ws 15
    · obtain ⟨c, hc, hcause⟩ := introChecks_of_not_sound hcrc fun h => hno ⟨h, hwhole⟩
      exact ⟨c, (introFail_whole hcrc).trans hc, fun h => absurd h (by simp [hwhole, hcrc]), fun _ _ => hcause⟩
    · exact ⟨8, introFail_of_broken (.inr (.inr hcrc)), fun _ => rfl, fun _ h => absurd h hcrc⟩
  · refine ⟨8, introFail_of_broken ?_, fun _ => rfl, fun h => absurd h hwhole⟩
    rw [introWhole_iff] at hwhole
    simp only [not_and_or, Bool.not_eq_false] at hwhole
    exact hwhole.imp_right .inl

theorem State.introWords_discards (hno : ¬ introFirst ws ∨ 2 ≤ s.slotBr n) : s.introWords n ws = s := by
  refine if_neg fun ⟨hok, htype, _, _, hbr⟩ => ?_
  rcases hno with hno | hno
  · exact hno (introFirst_iff.2 ⟨hok, htype⟩)
  · omega

theorem State.introWords_takes (hfirst : introFirst ws) (hrst : (s.port n).rst = false) (hpend : (s.port n).hsPend = false)
    (hbr : s.slotBr n < 2) :
    s.introWords n ws = s.introStep n (ws.map (·.word)) (((ws.drop 1).take 15).any fun x => !x.ok) (decide (ws.length < 16)) := by
  obtain ⟨hok, htype⟩ := introFirst_iff.1 hfirst
  exact if_pos ⟨hok, htype, by simp [hrst], by simp [hpend], hbr⟩

end Sys2Proof.Machine

open Sys2Proof Sys2Proof.Machine

/-- Settles O12: the leaf discards what is no INTRO (`State.introWords_discards`); a sound one settles (`State.introStep_settles` behind
`introFail_of_sound`), and any other fails with the CAUSE of its first check (`introChecks_of_not_sound`). -/
theorem introSettlesOrFails : Obligations.IntroSettlesOrFails := by
  intro s n head body crc ha hs hrst hpend
  have hrun : exec (.intro n head body crc) s = .next (s.introWords n (head :: (body ++ crc.toList))) := State.atPort_of_acts ha _
  refine ⟨fun hbr => hrun.trans (congrArg _ (State.introWords_discards (.inr hbr))), fun hbr => ?_⟩
  generalize head :: (body ++ crc.toList) = ws at hrun
  rw [hrun]
  refine ⟨fun hfirst => congrArg _ (State.introWords_discards (.inl hfirst)), fun hfirst hsound hwhole => ?_, fun hfirst hno => ?_⟩
  · obtain ⟨hperr, hgap⟩ := introWhole_iff.1 hwhole
    have hlist := taken_whole hwhole.1
    have hgo : s.introWords n ws = s.introduced n (introList (linkWord ws)) := by
      rw [State.introWords_takes hfirst hrst hpend hbr, hperr, hgap,
        State.introStep_settles hs (by rw [hlist]; exact introFail_of_sound hsound), hlist]
    have hport := s.introduced_port n (introList (linkWord ws))
    have hmode : ((s.introduced n (introList (linkWord ws))).port n).mode = settle (introList (linkWord ws)) := by rw [hport]; rfl
    refine ⟨_, settleRecord (.inl (settle (introList (linkWord ws)))) n, congrArg _ hgo, .introduced .., rfl, rfl, rfl, ?_, ?_, ?_, ?_, ?_, ?_,
      ?_, ?_, State.introduced_outs ha.cellsOpen _, settleRecord_length .., rfl, ?_, ?_, ?_, rfl, settleRecord_crc ..⟩
    · rw [hport]; rfl
    · rw [hport]; rfl
    · rw [hport]; rfl
    · rw [hmode]; rfl
    · rw [hmode]; exact settle_kind _
    · rw [hmode]; exact settle_beat _
    · rw [hmode]; exact fun i hi => settle_feats _ hi
    · rw [hport]; exact introCredits_eq _
    · rw [hmode]; rfl
    · rw [hmode]; rfl
    · rw [hmode]; rfl
  · obtain ⟨c, hfail, hbroken, hcause⟩ := introFail_of_not_sound hno
    have hgo : s.introWords n ws = s.rejected n ((ws.map (·.word)).take 16) c := by
      rw [State.introWords_takes hfirst hrst hpend hbr, State.introStep_fails hs hfail]
    have hport := s.rejected_port n ((ws.map (·.word)).take 16) c
    refine ⟨_, settleRecord (.inr c) n, congrArg _ hgo, .rejected .., rfl, rfl, rfl, ?_, ?_, ?_, ?_, State.rejected_outs ha.cellsOpen _ _,
      settleRecord_length .., rfl, and_toNat_lt _ (by decide), and_toNat_lt _ (by decide), and_toNat_lt _ (by decide), settleRecord_crc ..,
      hbroken, hcause⟩
    · rw [hport]; exact hs
    · rw [hport]
    · rw [hport]; rfl
    · rw [hport]; rfl
end

section
/-! Obligation O13: heartbeats, and the deaths of an admitted port (R285, R290, R292, R296, R443, R444). -/

namespace Sys2Proof.Machine

variable {s : State} {n : Nat} {w : LinkWord}

/-! ### Heartbeats -/

/-- A heartbeat word whose parity holds (R285). -/
def beats (w : LinkWord) : Prop := w.par = linkPar w.word ∧ w.word.extractLsb' 24 8 = 1

theorem beats_iff : beats w ↔ w.ok = true ∧ bitsN w.word.toNat 24 8 = 1 :=
  and_congr LinkWord.ok_iff.symm (bitsN_eq_toNat_iff _ _ (1 : BitVec 8)).symm

theorem State.heartbeatWord_restarts (hw : beats w) (hadm : (s.port n).lstate = .admitted) :
    s.heartbeatWord n w = s.setPort n { s.port n with hbStart := s.kclk } := by
  obtain ⟨hok, htype⟩ := beats_iff.1 hw
  exact if_pos ⟨hok, htype, hadm⟩

theorem State.heartbeatWord_ignored (h : ¬ beats w ∨ (s.port n).lstate ≠ .admitted) : s.heartbeatWord n w = s :=
  if_neg fun ⟨hok, htype, hadm⟩ => h.elim (· (beats_iff.2 ⟨hok, htype⟩)) (· hadm)

/-! ### The two monitors -/

/-- The HB_WIN that a KCLK counts: a write takes effect in the KCLK behind it (R296). -/
theorem Port.hbWinAt_eq (x : Port) (k : Nat) :
    x.hbWinAt k = ((x.hbOld.bind fun e => if e.1 = k then some e.2 else none).getD x.hbWin).toNat := by
  unfold Port.hbWinAt
  split
  next j v heq =>
    rw [heq, Option.bind_some]
    split_ifs <;> rfl
  next heq => rw [heq]; rfl

theorem State.hbLate_iff (hadm : (s.port n).lstate = .admitted) :
    s.hbLate n = true ↔ s.clk.cyc % 8 = 7 ∧ (s.port n).hbStart + max 1 ((s.port n).hbWinAt s.kclk) ≤ s.kclk := by
  simp only [State.hbLate, hadm, decide_true, Bool.true_and, Bool.and_eq_true, decide_eq_true_eq]

theorem State.snoopLate_iff (hadm : (s.port n).lstate = .admitted) :
    s.snoopLate n = true ↔ (s.port n).psnp ≠ [] ∧
      (s.port n).dlStart + max 8192 ((s.router (s.build.leafOf n)).snpdlAt s.clk.cyc).toNat ≤ s.clk.cyc := by
  simp only [State.snoopLate, hadm, decide_true, Bool.true_and, Bool.and_eq_true, decide_eq_true_eq, Bool.not_eq_true', ne_eq,
    List.isEmpty_eq_false_iff]

/-- A port whose partner's heartbeats have lapsed (R296). -/
def State.lapsed (s : State) (n : Nat) : State := (s.noteSet (kPs n 18)).modPort n fun x => { x with hbLapse := true }

theorem State.lapsed_port (s : State) (n : Nat) : (s.lapsed n).port n = { s.port n with hbLapse := true } := State.port_modPort ..

/-- A lapse of the heartbeats kills the port with cause 1, and is recorded (R292, R296). -/
theorem State.lapsed_dies (hn : n < 256) (hopen : s.clk.cellsOpen = true) :
    Died s ((s.lapsed n).portDead n 1) n 1 ∧ (((s.lapsed n).portDead n 1).port n).hbLapse = true := by
  have hother : OtherPorts s (s.lapsed n) n := fun _ hi => State.port_modPort_ne _ _ hi
  refine ⟨Died.of_port (v := s.lapsed n) ⟨_, _, rfl⟩ hother ?_ ((s.lapsed n).portDead_died hn hopen 1), ?_⟩
  · rw [State.lapsed_port]
    exact ⟨rfl, rfl, rfl, rfl, rfl, rfl, rfl⟩
  · rw [State.portDead_port _ hn, State.lapsed_port]
    rfl

end Sys2Proof.Machine

open Sys2Proof Sys2Proof.Machine

/-- Settles O13: each monitor of an admitted port fires where its time is over (`State.hbLate_iff`, `State.snoopLate_iff`), and every
death is that of `State.portDead_died`. -/
theorem heartbeatAndDeathOfAPort : Obligations.HeartbeatAndDeathOfAPort := by
  refine ⟨fun s n w ha => ?_, fun s n ha hadm => ?_⟩
  · have hrun : exec (.heartbeat n w) s = .next (s.heartbeatWord n w) := State.atPort_of_acts ha _
    exact ⟨fun hw hadm => hrun.trans (congrArg _ (State.heartbeatWord_restarts hw hadm)),
      fun hno => hrun.trans (congrArg _ (State.heartbeatWord_ignored hno)), State.atPort_of_acts ha _⟩
  · have hlapse : exec (.heartbeatLapse n) s = .next (if s.hbLate n then (s.lapsed n).portDead n 1 else s) := State.atPort_of_acts ha _
    have hexpiry : exec (.snoopDeadlineExpiry n) s = .next (if s.snoopLate n then s.portDead n 5 else s) := State.atPort_of_acts ha _
    have hn := ha.lt
    have hopen := ha.cellsOpen
    refine ⟨fun hlate => ?_, fun hno => ?_, fun howes => ?_, fun hno => ?_, ?_⟩
    · rw [hlapse, if_pos ((State.hbLate_iff hadm).2 (by rwa [Port.hbWinAt_eq]))]
      obtain ⟨hdied, hbit⟩ := State.lapsed_dies hn hopen
      exact ⟨_, rfl, hdied, hbit⟩
    · rw [hlapse, if_neg (mt (State.hbLate_iff hadm).1 (by rwa [Port.hbWinAt_eq]))]
    · rw [hexpiry, if_pos ((State.snoopLate_iff hadm).2 howes)]
      exact ⟨_, rfl, s.portDead_died hn hopen 5⟩
    · rw [hexpiry, if_neg (mt (State.snoopLate_iff hadm).1 hno)]
    · exact ⟨_, execApRstAssert_live ha, (State.apReset_dies hn hopen hadm).1⟩
end

section
/-! Obligation O14: the eclipse of a port: request, fence, and what the fence answers (R298 to R303, R387, R389, R445). -/

namespace Sys2Proof.Machine

variable {s t : State} {n : Nat}

/-! ### The eclipse request (R298, R301) -/

/-- A port whose eclipse request has been accepted (R290, R298, R299). -/
def Port.eclipsing (x : Port) : Port :=
  { x with
    eclReq := true, eclAcc := true
    fencing := decide (x.lstate = .admitted) || x.fencing
    eclAck := if x.lstate = .admitted then x.eclAck else if x.lstate = .dead then x.reclaimed else true }

/-- A request that SHOLD does not refuse sets EVENTS bit 4 and source 23 (R298). -/
theorem State.eclRise_accepts {ns : Bool} (h : ¬ (ns = true ∧ (s.port n).shold = true)) :
    s.eclRise n ns = ((s.setPort n (s.port n).eclipsing).event 4).irqS 23 := by
  unfold State.eclRise Port.eclipsing
  dsimp only
  rw [if_neg h]
  split
  next hadm => simp [hadm]
  next hdead => simp [hdead]
  next hadm hdead => rw [decide_eq_false hadm, Bool.false_or, if_neg hadm, if_neg hdead]

theorem State.irqS_sets (s : State) : (s.irqS 23).host.irqStatS.getLsbD 23 = true := by
  rw [show (s.irqS 23).host.irqStatS = s.host.irqStatS ||| (1#25 <<< 23) from rfl, BitVec.getLsbD_or]
  exact Bool.or_true _

theorem execApEclReqRise_live (ha : s.portActs n) (hbusy : s.clk.initBusy = false) (hreq : (s.port n).eclReq = false) (ns : Bool) :
    exec (.apEclReqRise n ns) s = .next (s.eclRise n ns) := by
  obtain ⟨hn, -, hrst, hopen⟩ := ha
  refine congrArg _ ((if_neg ?_).trans (if_neg ?_))
  · simp [hn, hreq]
  · simp [Clk.shut, hrst, hopen, hbusy]

/-- A port whose eclipse request has fallen (R301, R389). -/
def Port.unasked (x : Port) : Port :=
  { x with eclReq := false, eclAcc := false, eclAck := false, risePend := none, fencing := x.fencing && x.eclOp }

theorem execApEclReqFall_live (ha : s.portActs n) : exec (.apEclReqFall n) s = .next (s.modPort n Port.unasked) :=
  congrArg _ (if_pos ha.1)

/-! ### The fence closes (R299, R387) -/

/-- The fence of a port stands, and nothing of it is left (R299, R387). -/
def State.fenceClear (s : State) (n : Nat) : Prop :=
  (s.port n).lstate = .admitted ∧ (s.port n).fencing = true ∧ s.inflight n = 0 ∧
    (∀ p, p < s.build.panels → s.present p (s.port n).agent = false) ∧ s.eclTivOwed n = false

theorem State.fenceReady_iff : s.fenceReady n = true ↔ s.fenceClear n := by
  simp [State.fenceReady, State.fenceClear, and_assoc]

/-- A port that enters ECLIPSED (R299). -/
def Port.eclipsed (x : Port) : Port :=
  { x with lstate := .eclipsed, fencing := false, eclOp := false, eclAck := x.eclReq && x.eclAcc, rstSince := false, stored := none }

/-- Port `n` enters ECLIPSED, and an ECLIPSE operation on it ends (R299, R387). -/
def State.fenceClosed (s : State) (n : Nat) : State := ((s.modPort n Port.eclipsed).eclipseEnds n 1).sendState n

theorem execPortFenceCloses_acts (ha : s.portActs n) :
    exec (.portFenceCloses n) s = .next (if s.fenceReady n then s.fenceClosed n else s) := State.atPort_of_acts ha _

theorem State.fenceClosed_port (s : State) (n : Nat) : (s.fenceClosed n).port n = (s.port n).eclipsed :=
  (State.port_out _ _).trans (State.port_modPort ..)

theorem State.fenceClosed_outs (hopen : s.clk.cellsOpen = true) :
    (s.fenceClosed n).outs = s.outs ++ [.link n (linkWords [0x84000004#32])] := by
  have hport : ((s.modPort n Port.eclipsed).eclipseEnds n 1).port n = (s.port n).eclipsed := State.port_modPort ..
  rw [State.fenceClosed, State.sendState, State.out_outs_open _ _ (by exact hopen), hport]
  rfl

theorem PortFrame.fenceClosed (s : State) (n : Nat) : PortFrame (s.eclipseEnds n 1) (s.fenceClosed n) n :=
  ((PortFrame.refl (s.eclipseEnds n 1) n).modPort Port.eclipsed).out _

/-! ### What the leaf's output takes (R191, R192, R203) -/

variable {q key : Nat} {k : Packet}

theorem State.keysOf_leafDown (s : State) (q : Nat) : s.keysOf (.leafDown q) = List.range 6 := by
  unfold State.keysOf
  split <;> rfl

/-- A head that a leaf's output may take waits in the queue of a class. -/
theorem State.only_key (h : s.only (.leafToPort n) { l := .leafDown q, key := key, k := k }) : key < 6 := by
  obtain ⟨-, -, -, hcands⟩ := h
  have hmem : ({ l := .leafDown q, key := key, k := k } : Cand) ∈ s.cands (.leafToPort n) := by rw [hcands]; exact List.mem_singleton_self _
  obtain ⟨l, -, hl⟩ := List.mem_flatMap.1 hmem
  obtain ⟨d, hd, hhead⟩ := List.mem_filterMap.1 hl
  obtain ⟨x, -, hx⟩ := Option.bind_eq_some_iff.1 hhead
  obtain ⟨-, hx⟩ := Option.ite_none_right_eq_some.1 hx
  cases hx
  rwa [State.keysOf_leafDown, List.mem_range] at hd

/-- The last part of a packet leaves its queue, with its header but for the name of its target (R191, R192). -/
theorem State.takeFor_last (hlast : s.lastPart (.leafToPort n) k) (hebar : isEbar k = false) :
    ∃ c d, s.takeFor (.leafToPort n) { l := .leafDown q, key := key, k := k } = (s.take (.leafDown q) key, c) ∧
      c.hdr = { k.hdr with dst := d } := by
  by_cases hmulti : tgtOf s.build k = .multi
  · obtain ⟨hwhole, hla⟩ := hlast.resolve_left (not_not.2 hmulti)
    have hpart := takeFor_part (o := .leafToPort n) (w := { l := .leafDown q, key := key, k := k }) (v := k.vec) hmulti rfl (by simp)
    refine ⟨partCopy (.leafToPort n) k k.vec, (lowest k.vec).getD 0, (hpart ?_ ?_).trans ?_, rfl⟩
    · simp [hla]
    · simp [hla]
    · simp [hwhole, State.partGone, hla, State.popAt]
  · refine ⟨{ k with la := [] }, k.hdr.dst, if_neg ?_, rfl⟩
    rintro (⟨h, -⟩ | ⟨h, -⟩)
    · exact hmulti h
    · simp [hebar] at h

/-- The state in which the leaf of port `n` has taken the last part of a packet from queue `key`. -/
def State.leafTook (s : State) (n key : Nat) : State :=
  (s.take (.leafDown (s.build.leafOf n)) key).modRouter (routerOut s.build (.leafToPort n))
    (Router.served (.leafToPort n) (.leafDown (s.build.leafOf n)))

/-- The fence of port `n` has counted the packet of epoch `e` that it has taken from queue `key`. -/
def State.fenced (s : State) (n key e : Nat) : State := (s.leafTook n key).addEj (s.build.leafOf n) e 1

/-- The leaf of port `n` has taken the head of queue `key`. -/
structure LeafTakes (s t : State) (n key : Nat) : Prop where
  base : SameBase s t
  panels : t.panels = s.panels
  mps : t.mps = s.mps
  tail : t.q (.leafDown (s.build.leafOf n)) key = (s.q (.leafDown (s.build.leafOf n)) key).tail

/-- Only routers and the tree's queues have changed. -/
def TreeMoves (s t : State) : Prop := ∃ m y, t = { s with routers := m, net := y }

theorem TreeMoves.trans {u : State} (h : TreeMoves s t) (k : TreeMoves t u) : TreeMoves s u := by
  obtain ⟨_, _, rfl⟩ := h
  obtain ⟨_, _, rfl⟩ := k
  exact ⟨_, _, rfl⟩

theorem TreeMoves.take (s : State) (l : Loc) (d : Nat) : TreeMoves s (s.take l d) := ⟨_, _, rfl⟩

theorem TreeMoves.modRouter (s : State) (r : Nat) (f : Router → Router) : TreeMoves s (s.modRouter r f) := ⟨_, _, rfl⟩

theorem TreeMoves.addEj (s : State) (r e : Nat) (x : BitVec 32) : TreeMoves s (s.addEj r e x) := ⟨_, _, rfl⟩

theorem TreeMoves.leafTook (s : State) (n key : Nat) : TreeMoves s (s.leafTook n key) := (TreeMoves.take ..).trans (.modRouter ..)

theorem TreeMoves.fenced (s : State) (n key e : Nat) : TreeMoves s (s.fenced n key e) := (TreeMoves.leafTook ..).trans (.addEj ..)

theorem TreeMoves.port (h : TreeMoves s t) (i : Nat) : t.port i = s.port i := by
  obtain ⟨_, _, rfl⟩ := h
  rfl

theorem TreeMoves.leafOf (h : TreeMoves s t) (i : Nat) : t.build.leafOf i = s.build.leafOf i := by
  obtain ⟨_, _, rfl⟩ := h
  rfl

theorem State.fenced_net (s : State) (n key e : Nat) : (s.fenced n key e).net = (s.take (.leafDown (s.build.leafOf n)) key).net := rfl

theorem LeafTakes.fenced (s : State) (n key e : Nat) : LeafTakes s (s.fenced n key e) n key := by
  have htail : (s.fenced n key e).q (.leafDown (s.build.leafOf n)) key = (s.q (.leafDown (s.build.leafOf n)) key).tail := State.q_take ..
  obtain ⟨m, y, heq⟩ := TreeMoves.fenced s n key e
  rw [heq] at htail ⊢
  exact ⟨⟨rfl, rfl, rfl⟩, rfl, rfl, htail⟩

theorem locKey_leafDown_synth (q : Nat) {r c d : Nat} (hr : q < 32) (hc : c < 32) (hd : d < 32) :
    locKey (.leafDown q) c ≠ locKey (.synth r) d := locKey_ne_of_locId (by simp only [locId]; omega) hc hd

theorem State.fenced_synth (s : State) (n e : Nat) {key : Nat} (hkey : key < 6) {c : Nat} (hc : c < 32) :
    (s.fenced n key e).q (.synth (s.build.leafOf n)) c = s.q (.synth (s.build.leafOf n)) c := by
  rw [State.q, s.fenced_net]
  exact State.q_take_ne s (locKey_leafDown_synth _ (s.build.leafOf_lt n) (by omega) hc).symm

/-- A fence that answers has taken its packet, and what it answers is all that joins the leaf's own. -/
theorem Answering.leafTakes {e c : Nat} (h : Answering (s.fenced n key e) t (s.build.leafOf n) c) (hkey : key < 6) (hc : c < 32) :
    LeafTakes s t n key ∧ t.ports = s.ports ∧ t.outs = s.outs ∧
      ∀ d, d < 6 → d ≠ c → t.q (.synth (s.build.leafOf n)) d = s.q (.synth (s.build.leafOf n)) d := by
  obtain ⟨⟨m, y, heq⟩, hq, -, -⟩ := h
  obtain ⟨-, -, -, htail⟩ := LeafTakes.fenced s n key e
  obtain ⟨m', y', hfenced⟩ := TreeMoves.fenced s n key e
  refine ⟨⟨?_, ?_, ?_, ?_⟩, ?_, ?_, fun d hd hne => ?_⟩
  · rw [heq, hfenced]; exact ⟨rfl, rfl, rfl⟩
  · rw [heq, hfenced]
  · rw [heq, hfenced]
  · exact (hq _ _ (locKey_leafDown_synth _ (s.build.leafOf_lt n) (by omega) hc)).trans htail
  · rw [heq, hfenced]
  · rw [heq, hfenced]
  · exact (hq _ _ (locKey_ne_of_key hne)).trans (s.fenced_synth n e hkey (by omega))

/-! ### What the fence answers (R303, R445) -/

/-- Port `n` is one whose fence answers in its place. -/
def State.fences (s : State) (n : Nat) : Prop := (s.port n).lstate = .eclipsed ∨ (s.port n).lstate = .dead

/-- The fence answers under its agent's name. -/
theorem State.fence_agent (s : State) {n : Nat} (hf : s.fences n) (d : Nat) :
    (if (s.port n).lstate = .eclipsed ∨ (s.port n).lstate = .dead then (s.port n).agent else d) = (s.port n).agent := if_pos hf

/-- The fence has lost the line that a snoop asks for. -/
def State.fenceLost (s : State) (n opc : Nat) : Bool := decide ((s.port n).lstate = .dead) && ownOpc opc

theorem State.fenceLost_iff {opc : Nat} : s.fenceLost n opc = true ↔ (s.port n).lstate = .dead ∧ (opc = oSnpS ∨ opc = oSnpU) := by
  simp [State.fenceLost, ownOpc]

/-- The acknowledgement that the fence answers snoop `h` with: NotHeld, or Lost. -/
def State.fenceAck (s : State) (n : Nat) (h : Hdr) : Hdr :=
  synthAck { h with epoch := (s.router (s.build.leafOf n)).epoch } h.cls (s.port n).agent
    (if s.fenceLost n h.opc then 1 else 0) (if s.fenceLost n h.opc then 0 else 1)

theorem State.fenceAnswer_snoop (hf : s.fences n) (hsnoop : isSnoop k = true) :
    s.fenceAnswer n k = (s.addEj (s.build.leafOf n) k.hdr.epoch 1).inject (s.build.leafOf n) (s.fenceAck n k.hdr) (ownOpc k.hdr.opc) := by
  have hlost : s.fenceLost n k.hdr.opc = true ↔ ownOpc k.hdr.opc = true ∧ (s.port n).lstate = .dead := by
    simp [State.fenceLost, and_comm]
  unfold State.fenceAnswer State.fenceAck
  dsimp only
  rw [s.fence_agent hf, if_pos hsnoop]
  by_cases h : s.fenceLost n k.hdr.opc = true
  · rw [if_pos (hlost.1 h), if_pos h, if_pos h]
  · rw [if_neg (mt hlost.2 h), if_neg h, if_neg h]

/-- The TIvDone that the fence answers TIv `h` with. -/
def State.fenceDone (s : State) (n : Nat) (h : Hdr) : Hdr :=
  tivDone (s.port n).agent h.tag (s.router (s.build.leafOf n)).epoch h.world h.part

theorem State.fenceAnswer_tiv (hf : s.fences n) (hcls : k.hdr.cls = cREQ) :
    s.fenceAnswer n k = (s.addEj (s.build.leafOf n) k.hdr.epoch 1).inject (s.build.leafOf n) (s.fenceDone n k.hdr) := by
  have hsnoop : isSnoop k = false := by simp [isSnoop, hcls]
  have htiv : isTiv k = true := by simp [isTiv, hcls]
  unfold State.fenceAnswer State.fenceDone
  dsimp only
  rw [s.fence_agent hf, if_neg (by simp [hsnoop]), if_pos htiv]

theorem State.fenceAnswer_other (hcls : k.hdr.cls = cRSP ∨ k.hdr.cls = cDAT) :
    s.fenceAnswer n k = if (s.port n).lstate = .eclipsed then (s.addEj (s.build.leafOf n) k.hdr.epoch 1).protoErr n 8 k.hdr.cls k.hdr.opc
      else s.addEj (s.build.leafOf n) k.hdr.epoch 1 := by
  have hsnoop : isSnoop k = false := by rcases hcls with h | h <;> simp [isSnoop, h]
  have htiv : isTiv k = false := by rcases hcls with h | h <;> simp [isTiv, h]
  unfold State.fenceAnswer
  dsimp only
  rw [if_neg (by simp [hsnoop]), if_neg (by simp [htiv])]

/-! ### A protocol error of a port that is not admitted -/

/-- A port with one more protocol error (R440). -/
def State.counted (s : State) (n kind cls opc : Nat) : State :=
  let a := s.bkAdd n (bitsN (s.port n).pebk.toNat 0 6) (s.port n).peLevel
  (if a.2 then s else s.bkMark n 2).setPort n { s.port n with
    protoErr := ctrAdd (s.port n).protoErr 1, peLevel := a.1
    peLast := BitVec.ofNat 64 (cls % 8 * 2 ^ 24 + kind * 2 ^ 8 + opc % 64) }

/-- A protocol error is counted, and is a header fault as well where the port's bucket fills (R440, R441). -/
theorem State.protoErr_cases (s : State) (n kind cls opc : Nat) :
    s.protoErr n kind cls opc = s.counted n kind cls opc ∨ s.protoErr n kind cls opc = (s.counted n kind cls opc).headerFault n 2 :=
  (ite_eq_or_eq _ _ _).symm

theorem State.counted_port (s : State) (n kind cls opc : Nat) :
    (s.counted n kind cls opc).port n = { s.port n with
      protoErr := ctrAdd (s.port n).protoErr 1, peLevel := (s.bkAdd n (bitsN (s.port n).pebk.toNat 0 6) (s.port n).peLevel).1
      peLast := BitVec.ofNat 64 (cls % 8 * 2 ^ 24 + kind * 2 ^ 8 + opc % 64) } := State.port_setPort ..

theorem State.counted_frame (s : State) (n kind cls opc : Nat) : ∃ m b, s.counted n kind cls opc = { s with ports := m, bkNote := b } := by
  unfold State.counted
  dsimp only
  split_ifs
  · exact ⟨_, _, rfl⟩
  · exact ⟨_, _, rfl⟩

/-- A protocol error at a port that is not admitted changes that port's record of them, and no queue. -/
theorem State.protoErr_counted (hadm : (s.port n).lstate ≠ .admitted) (kind cls opc : Nat) :
    (∃ m b w, s.protoErr n kind cls opc = { s with ports := m, bkNote := b, hwSet := w }) ∧
      ((s.protoErr n kind cls opc).port n).protoErr = ctrAdd (s.port n).protoErr 1 ∧
      ((s.protoErr n kind cls opc).port n).peLast = BitVec.ofNat 64 (cls % 8 * 2 ^ 24 + kind * 2 ^ 8 + opc % 64) := by
  obtain ⟨m, b, hframe⟩ := s.counted_frame n kind cls opc
  have hport := s.counted_port n kind cls opc
  rcases s.protoErr_cases n kind cls opc with h | h
  · rw [h, hport]
    exact ⟨⟨m, b, s.hwSet, hframe⟩, rfl, rfl⟩
  · rw [h, State.headerFault_other (by rw [hport]; exact hadm), State.faulted_port, hport]
    refine ⟨?_, rfl, rfl⟩
    rw [hframe]
    exact ⟨_, _, _, rfl⟩

theorem peLast_kind (cls kind opc : Nat) :
    (BitVec.ofNat 64 (cls % 8 * 2 ^ 24 + kind * 2 ^ 8 + opc % 64)).extractLsb' 8 8 = BitVec.ofNat 8 kind := by
  rw [BitVec.toNat_eq, BitVec.extractLsb'_toNat, BitVec.toNat_ofNat, BitVec.toNat_ofNat, Nat.shiftRight_eq_div_pow]
  omega

/-! ### A packet at the fence -/

theorem packetHop_leafTook (hn : n < s.build.slots)
    (honly : s.only (.leafToPort n) { l := .leafDown (s.build.leafOf n), key := key, k := k }) (hlast : s.lastPart (.leafToPort n) k)
    (hebar : isEbar k = false) :
    ∃ c d, exec (.packetHop (.leafToPort n) {}) s = .next ((s.leafTook n key).deliverPort n c .ok .ok) ∧ c.hdr = { k.hdr with dst := d } := by
  obtain ⟨c, d, htake, hc⟩ := State.takeFor_last (q := s.build.leafOf n) (key := key) hlast hebar
  have hrun := packetHop_only honly (decide_eq_true hn) (by simp)
  rw [State.granted, htake] at hrun
  exact ⟨c, d, hrun, hc⟩

theorem isEbar_of_cls (h : k.hdr.cls ≠ cREQ) : isEbar k = false := by simp [isEbar, h]

theorem isSnoop_cls (h : isSnoop k = true) : k.hdr.cls = cSNP ∨ k.hdr.cls = cMGT := by
  simp only [isSnoop, Bool.or_eq_true, Bool.and_eq_true, decide_eq_true_eq] at h
  exact h.imp_right And.left

theorem isSnoop_cls_ne (h : isSnoop k = true) : k.hdr.cls ≠ cREQ := by
  rcases isSnoop_cls h with hcls | hcls
  · rw [hcls]; decide
  · rw [hcls]; decide

/-- A snoop at a fence is answered with the acknowledgement of an agent that holds nothing, or has lost its line (R303, R445). -/
theorem fenced_answers_snoop {c : Packet} {d : Nat} (hf : s.fences n) (hkey : key < 6)
    (hsnoop : isSnoop k = true) (hc : c.hdr = { k.hdr with dst := d }) :
    LeafTakes s ((s.leafTook n key).fenceAnswer n c) n key ∧ ((s.leafTook n key).fenceAnswer n c).ports = s.ports ∧
      ((s.leafTook n key).fenceAnswer n c).outs = s.outs ∧
      ∃ a, Answered s ((s.leafTook n key).fenceAnswer n c) (s.build.leafOf n) k a ∧ a.hdr.src = (s.port n).agent ∧ a.hdr.tag = 1 ∧
        a.hdr.marks = (if s.fenceLost n k.hdr.opc then 1 else 0) ∧ a.hdr.size = (if s.fenceLost n k.hdr.opc then 0 else 1) := by
  let h := (s.leafTook n key).fenceAck n k.hdr
  have hack : (s.leafTook n key).fenceAnswer n c = (s.fenced n key k.hdr.epoch).inject (s.build.leafOf n) h (ownOpc k.hdr.opc) := by
    rw [State.fenceAnswer_snoop (s := s.leafTook n key) hf (by rw [← hsnoop, isSnoop, isSnoop, hc]), hc]
    rfl
  have hcls : (if h.cls = cSNP then cRSP else h.cls) = if k.hdr.cls = cMGT then cMGT else cRSP := by
    rcases isSnoop_cls hsnoop with hk | hk
    · rw [show h.cls = cSNP from hk, hk]; rfl
    · rw [show h.cls = cMGT from hk, hk]; rfl
  have hlt : (if k.hdr.cls = cMGT then cMGT else cRSP) < 32 := by split_ifs <;> decide
  have hans := Answering.inject (s.fenced n key k.hdr.epoch) (s.build.leafOf n) h (ownOpc k.hdr.opc) (vbit h.src)
  have hq := State.inject_q (s.fenced n key k.hdr.epoch) (s.build.leafOf n) h (ownOpc k.hdr.opc) (vbit h.src) hcls
  rw [hcls] at hans
  rw [s.fenced_synth n _ hkey hlt] at hq
  obtain ⟨htakes, hports, houts, hothers⟩ := hans.leafTakes hkey hlt
  rw [hack]
  exact ⟨htakes, hports, houts, _, ⟨hq, hothers, rfl, rfl, rfl, rfl⟩, rfl, rfl, rfl, rfl⟩

/-- A TIv at a fence is answered with TIvDone (R303, R445). -/
theorem fenced_answers_tiv {c : Packet} {d : Nat} (hf : s.fences n) (hkey : key < 6) (hcls : k.hdr.cls = cREQ)
    (hc : c.hdr = { k.hdr with dst := d }) :
    LeafTakes s ((s.leafTook n key).fenceAnswer n c) n key ∧ ((s.leafTook n key).fenceAnswer n c).ports = s.ports ∧
      ((s.leafTook n key).fenceAnswer n c).outs = s.outs ∧
      ∃ a, ((s.leafTook n key).fenceAnswer n c).q (.synth (s.build.leafOf n)) cRSP = s.q (.synth (s.build.leafOf n)) cRSP ++ [a] ∧
        a.hdr.opc = oTIvDone ∧ a.hdr.src = (s.port n).agent ∧ a.hdr.dst = nEasel ∧ a.hdr.tag = k.hdr.tag := by
  let h := (s.leafTook n key).fenceDone n k.hdr
  have hack : (s.leafTook n key).fenceAnswer n c = (s.fenced n key k.hdr.epoch).inject (s.build.leafOf n) h := by
    rw [State.fenceAnswer_tiv (s := s.leafTook n key) hf (by rw [hc]; exact hcls), hc]
    rfl
  have hans := Answering.inject (s.fenced n key k.hdr.epoch) (s.build.leafOf n) h false (vbit h.src)
  have hrsp : (if h.cls = cSNP then cRSP else h.cls) = cRSP := rfl
  have hq := State.inject_q (s.fenced n key k.hdr.epoch) (s.build.leafOf n) h false (vbit h.src) hrsp
  rw [hrsp] at hans
  rw [s.fenced_synth n _ hkey (by decide)] at hq
  obtain ⟨htakes, hports, houts, -⟩ := hans.leafTakes hkey (by decide : cRSP < 32)
  rw [hack]
  exact ⟨htakes, hports, houts, _, hq, rfl, rfl, rfl, rfl⟩

/-- Any other message is discarded at a fence, and is a protocol error where the port is ECLIPSED (R303, R445; kind 8 is the reading of log
entry 50). -/
theorem fenced_discards {c : Packet} {d : Nat} (hf : s.fences n) (hkey : key < 6) (hcls : k.hdr.cls = cRSP ∨ k.hdr.cls = cDAT)
    (hc : c.hdr = { k.hdr with dst := d }) :
    LeafTakes s ((s.leafTook n key).fenceAnswer n c) n key ∧
      ((s.port n).lstate = .dead → ((s.leafTook n key).fenceAnswer n c).ports = s.ports ∧ ∀ e, e < 6 →
        ((s.leafTook n key).fenceAnswer n c).q (.synth (s.build.leafOf n)) e = s.q (.synth (s.build.leafOf n)) e) ∧
      ((s.port n).lstate = .eclipsed →
        (((s.leafTook n key).fenceAnswer n c).port n).protoErr = ctrAdd (s.port n).protoErr 1 ∧
        (((s.leafTook n key).fenceAnswer n c).port n).peLast.extractLsb' 8 8 = 8) := by
  have hgo := State.fenceAnswer_other (s := s.leafTook n key) (n := n) (k := c) (by rw [hc]; exact hcls)
  rw [(TreeMoves.leafTook s n key).port, (TreeMoves.leafTook s n key).leafOf] at hgo
  change _ = if _ then (s.fenced n key c.hdr.epoch).protoErr n 8 c.hdr.cls c.hdr.opc else s.fenced n key c.hdr.epoch at hgo
  have htree := TreeMoves.fenced s n key c.hdr.epoch
  have htakes := LeafTakes.fenced s n key c.hdr.epoch
  have hport := htree.port n
  rcases hf with hecl | hdead
  · rw [if_pos hecl] at hgo
    rw [hgo]
    obtain ⟨⟨m, b, w, hframe⟩, hcount, hlast⟩ := State.protoErr_counted (s := s.fenced n key c.hdr.epoch) (n := n)
      (by rw [hport, hecl]; nofun) 8 c.hdr.cls c.hdr.opc
    rw [hport] at hcount
    refine ⟨?_, fun hdead => absurd (hecl.symm.trans hdead) nofun, fun _ => ⟨hcount, ?_⟩⟩
    · obtain ⟨hbase, hpanels, hmps, htail⟩ := htakes
      rw [hframe]
      exact ⟨hbase, hpanels, hmps, htail⟩
    · rw [hlast]
      exact peLast_kind ..
  · have hne : (s.port n).lstate ≠ .eclipsed := by rw [hdead]; nofun
    rw [if_neg hne] at hgo
    rw [hgo]
    have hports : (s.fenced n key c.hdr.epoch).ports = s.ports := by
      obtain ⟨_, _, heq⟩ := htree
      rw [heq]
    exact ⟨htakes, fun _ => ⟨hports, fun e he => s.fenced_synth n _ hkey (by omega)⟩, fun hecl => absurd hecl hne⟩

theorem execPacketHop_fenced (hn : n < s.build.slots)
    (honly : s.only (.leafToPort n) { l := .leafDown (s.build.leafOf n), key := key, k := k }) (hlast : s.lastPart (.leafToPort n) k)
    (hf : s.fences n) (hebar : isEbar k = false) :
    ∃ c d, exec (.packetHop (.leafToPort n) {}) s = .next ((s.leafTook n key).fenceAnswer n c) ∧ c.hdr = { k.hdr with dst := d } := by
  obtain ⟨c, d, hrun, hc⟩ := packetHop_leafTook hn honly hlast hebar
  have hout : ((s.leafTook n key).port n).lstate ≠ .admitted := fun h => by
    rcases hf with hs | hs
    · exact absurd (hs.symm.trans h) nofun
    · exact absurd (hs.symm.trans h) nofun
  exact ⟨c, d, hrun.trans (congrArg _ (if_pos hout)), hc⟩

end Sys2Proof.Machine

open Sys2Proof Sys2Proof.Machine

/-- Settles O14: the request and its fall (`State.eclRise_accepts`), the fence that closes (`State.fenceReady_iff`), and what the leaf of a port
in ECLIPSED or DEAD answers in its place (`fenced_answers_snoop`, `fenced_answers_tiv`, `fenced_discards`). -/
theorem eclipseOfAPort : Obligations.EclipseOfAPort := by
  refine ⟨fun s n ha hbusy => ⟨fun ns hreq hheld => ?_, fun ns hreq hfree => ?_, ?_⟩, fun s n ha => ?_, fun s n key k hn => ?_⟩
  · exact (execApEclReqRise_live ha hbusy hreq ns).trans (congrArg _ (if_pos hheld))
  · have hport : (((s.setPort n (s.port n).eclipsing).event 4).irqS 23).port n = (s.port n).eclipsing := State.port_setPort ..
    refine ⟨_, (execApEclReqRise_live ha hbusy hreq ns).trans (congrArg _ (State.eclRise_accepts hfree)),
      (((PortFrame.refl s n).setPort _).event 4).irqS 23, rfl, rfl, State.irqS_sets _, ?_⟩
    rw [hport]
    exact ⟨rfl, rfl, fun hadm => by simp [Port.eclipsing, hadm], fun hdead => by simp [Port.eclipsing, hdead],
      fun hadm hdead => by simp [Port.eclipsing, hadm, hdead]⟩
  · refine ⟨_, execApEclReqFall_live ha, (PortFrame.refl s n).modPort _, rfl, rfl, rfl, ?_⟩
    rw [State.port_modPort]
    exact ⟨rfl, rfl, rfl, fun hop => by simp [Port.unasked, hop], fun hop => by simp [Port.unasked, hop]⟩
  · intro ready ended
    have hended : s.eclipseEnds n 1 = ended := by
      simp only [State.eclipseEnds, ended, Option.isNone_iff_eq_none]
      rfl
    refine ⟨fun hready => ?_, fun hno => ?_⟩
    · refine ⟨s.fenceClosed n, ?_, hended ▸ PortFrame.fenceClosed s n, rfl, hended ▸ rfl, ?_⟩
      · rw [execPortFenceCloses_acts ha, if_pos (State.fenceReady_iff.2 hready)]
      · rw [State.fenceClosed_port]
        exact ⟨rfl, rfl, rfl, rfl, State.fenceClosed_outs ha.cellsOpen⟩
    · rw [execPortFenceCloses_acts ha, if_neg (mt State.fenceReady_iff.1 hno)]
  · intro q o x honly hlast hout takes
    have hf : s.fences n := hout
    have hkey := State.only_key honly
    refine ⟨fun hsnoop => ?_, fun hcls hsrc => ?_, fun hcls => ?_⟩
    · obtain ⟨c, d, hrun, hc⟩ := execPacketHop_fenced hn honly hlast hf (isEbar_of_cls (isSnoop_cls_ne hsnoop))
      obtain ⟨⟨hbase, hpanels, hmps, htail⟩, hports, houts, a, hans, hsrc, htag, hmarks, hsize⟩ := fenced_answers_snoop hf hkey hsnoop hc
      refine ⟨_, a, ⟨hrun, hbase, hpanels, hmps, htail⟩, hports, houts, hans, hsrc, htag, hmarks.trans ?_, hsize.trans ?_⟩
      · exact if_congr State.fenceLost_iff rfl rfl
      · exact if_congr State.fenceLost_iff rfl rfl
    · have hebar : isEbar k = false := by simp [isEbar, hsrc, nEasel]
      obtain ⟨c, d, hrun, hc⟩ := execPacketHop_fenced hn honly hlast hf hebar
      obtain ⟨⟨hbase, hpanels, hmps, htail⟩, hports, houts, a, hans⟩ := fenced_answers_tiv hf hkey hcls hc
      exact ⟨_, a, ⟨hrun, hbase, hpanels, hmps, htail⟩, hports, houts, hans⟩
    · have hreq : k.hdr.cls ≠ cREQ := by rcases hcls with h | h <;> rw [h] <;> decide
      obtain ⟨c, d, hrun, hc⟩ := execPacketHop_fenced hn honly hlast hf (isEbar_of_cls hreq)
      obtain ⟨⟨hbase, hpanels, hmps, htail⟩, hdead, hecl⟩ := fenced_discards hf hkey hcls hc
      exact ⟨_, ⟨hrun, hbase, hpanels, hmps, htail⟩, hdead, hecl⟩
end

section
/-! Obligation O15: the reclamation of a dead port (R290, R451). -/

namespace Sys2Proof.Machine

variable {s : State} {n : Nat}

/-- The condition of R451: nothing of the dead agent is left. -/
def State.allClear (s : State) (n : Nat) : Prop :=
  (s.port n).reclaimed = false ∧ s.inflight n = 0 ∧ (∀ e ∈ s.net.ebars, e.slot ≠ n) ∧
    ∀ p, p < s.build.panels → s.panelClear p (s.port n).agent = true

theorem State.reclaimReady_iff (hdead : (s.port n).lstate = .dead) : s.reclaimReady n = true ↔ s.allClear n := by
  simp [State.reclaimReady, State.allClear, hdead, and_assoc]

/-- A port once it is reclaimed, before its link state follows (R451). -/
def Port.recovered (x : Port) : Port := { x with reclaimed := true, eclAck := x.eclReq && x.eclAcc }

/-- The state with port `n` reclaimed. -/
def State.recovered (s : State) (n : Nat) : State := s.modPort n Port.recovered

theorem State.recovered_port (s : State) (n : Nat) : (s.recovered n).port n = (s.port n).recovered := State.port_modPort ..

theorem State.recovered_mayAttach : (s.recovered n).mayAttach n ↔ s.mayAttach n := by
  unfold State.mayAttach
  rw [State.recovered_port]
  rfl

theorem LinkMoves.recovered (s : State) (n : Nat) : LinkMoves s (s.recovered n) n := .setPort s n _

theorem State.reclaim_eq (s : State) (n : Nat) :
    s.reclaim n = if (s.port n).rstSince then (s.recovered n).portDown n else s.recovered n := by
  rw [show (s.port n).rstSince = ((s.recovered n).port n).rstSince by rw [State.recovered_port]; rfl]
  rfl

theorem LinkMoves.reclaim (s : State) (n : Nat) : LinkMoves s (s.reclaim n) n := by
  rw [State.reclaim_eq]
  split
  · exact (LinkMoves.recovered s n).trans (.portDown _ n)
  · exact .recovered s n

end Sys2Proof.Machine

open Sys2Proof Sys2Proof.Machine

/-- Settles O15: the condition is that of `State.reclaimReady_iff`; a port with a reset since its death enters DOWN, and goes on from there
where its crossing is in service (`State.portDown_stays`, `State.portDown_introduces`). -/
theorem reclamationOfADeadPort : Obligations.ReclamationOfADeadPort := by
  intro s n ha hdead
  have hrun : exec (.reclamationComplete n) s = .next (if s.reclaimReady n then s.reclaim n else s) := State.atPort_of_acts ha _
  refine ⟨fun hno => ?_, fun hclear => ?_⟩
  · rw [hrun, if_neg (mt (State.reclaimReady_iff hdead).1 hno)]
  rw [hrun, if_pos ((State.reclaimReady_iff hdead).2 hclear)]
  obtain ⟨⟨_, _, _, heq⟩, hother, -⟩ := LinkMoves.reclaim s n
  refine ⟨_, rfl, ?_, hother, ?_, ?_, ?_, ?_, fun hno => ?_, fun hrst hout => ?_, fun hrst hin hpend hbusy hbr => ?_⟩
  · rw [heq]; exact ⟨rfl, rfl, rfl⟩
  · rw [heq]
  · rw [heq]
  · rw [heq]
  · rw [heq]
  · rw [State.reclaim_eq, hno, if_neg Bool.false_ne_true, State.recovered_port]
    exact ⟨hdead, rfl, rfl, rfl⟩
  · have hmay : ¬ (s.recovered n).mayAttach n := fun hmay => by
      obtain ⟨hin, hpend, -⟩ := State.recovered_mayAttach.1 hmay
      simp [hin, hpend] at hout
    rw [State.reclaim_eq, if_pos hrst, State.portDown_stays hmay, State.detached_port, State.detached_outs]
    exact ⟨rfl, rfl⟩
  · have hmay : (s.recovered n).mayAttach n := State.recovered_mayAttach.2 ⟨hin, hpend, hbusy, hbr⟩
    rw [State.reclaim_eq, if_pos hrst, State.portDown_introduces hmay, State.linkUp_port, State.port_setPort]
    exact ⟨rfl, ((LinkMoves.recovered s n).trans (.detached _ n)).linkUp_outs (State.detached_outs ..) ha.cellsOpen _⟩
end

section
/-! Obligation O17: the downward and upward credits of a port (R274, R277 to R279, R292). -/

namespace Sys2Proof.Machine

variable {s : State} {n c : Nat} {k : Packet} {r : List Packet}

/-! ### What leaves the downward queues -/

theorem flatMap_of_only {α : Type} {l : List Nat} {f : Nat → List α} (hl : l.Nodup) (hc : c ∈ l) (hnil : ∀ d ∈ l, d ≠ c → f d = []) :
    l.flatMap f = f c := by
  induction l with
  | nil => cases hc
  | cons d l ih =>
    obtain ⟨hd, hl⟩ := List.nodup_cons.1 hl
    rw [List.flatMap_cons]
    rcases List.mem_cons.1 hc with rfl | hc
    · have hrest : l.flatMap f = [] :=
        List.flatMap_eq_nil_iff.2 fun e he => hnil e (List.mem_cons_of_mem _ he) fun hec => hd (hec ▸ he)
      rw [hrest, List.append_nil]
    · rw [hnil d List.mem_cons_self fun hdc => hd (hdc ▸ hc), List.nil_append]
      exact ih hl hc fun e he => hnil e (List.mem_cons_of_mem _ he)

/-- How many packets of a class can leave a port: those that wait and have a credit (R278). -/
def State.sendable (s : State) (n c : Nat) : Nat := min (s.q (.portDown n) c).length ((s.port n).dnCrd.getD c 0)

theorem State.sendable_one (s : State) (hq : s.q (.portDown n) c = k :: r) (hone : (s.port n).dnCrd.getD c 0 = 1) :
    s.sendable n c = 1 := by
  rw [State.sendable, hq, hone, List.length_cons]
  omega

theorem State.pumpPort_empty (hempty : ∀ d, s.q (.portDown n) d = []) (hd dat : Ecc) : s.pumpPort n hd dat = s :=
  if_pos (by simp [hempty])

/-- Each class of a list sends what it can, once. -/
theorem q_foldl_sendDown (can : Nat → Nat) {l : List Nat} (hl : l.Nodup) (hc : c ∈ l) (s : State) :
    (l.foldl (fun (s : State) d => s.sendDown n can d) s).q (.portDown n) c = (s.q (.portDown n) c).drop (can c) := by
  induction l generalizing s with
  | nil => cases hc
  | cons d l ih =>
    obtain ⟨hd, hrest⟩ := List.nodup_cons.1 hl
    rw [List.foldl_cons]
    by_cases hcl : c ∈ l
    · rw [ih hrest hcl]
      exact congrArg _ (State.q_setQ_ne _ _ (locKey_ne_of_key fun hcd => hd (hcd ▸ hcl)))
    · obtain rfl : c = d := (List.mem_cons.1 hc).resolve_right hcl
      obtain ⟨_, _, _, -, -, -, -, -, hq⟩ := foldl_sendDown n can hrest (s.sendDown n can c)
      rw [hq _ _ fun e he => locKey_ne_of_key fun (hce : c = e) => hcl (hce ▸ he)]
      exact State.q_setQ ..

/-- Where one class alone has a credit, and no more than one, its first packet leaves (R274, R278). -/
theorem State.pumpPort_first (hc : c < 6) (hq : s.q (.portDown n) c = k :: r) (hone : (s.port n).dnCrd.getD c 0 = 1)
    (hnone : ∀ d, d ≠ c → (s.port n).dnCrd.getD d 0 = 0) (hfroz : s.routerFrozen (s.build.leafOf n) = false) :
    s.pumpPort n .ok .ok = ((List.range 6).foldl (fun (z : State) d => z.sendDown n (s.sendable n) d) s).out
      (.pkt n (forPartner (s.port n) k) ((forPartner (s.port n) k).flits (s.port n).width)) := by
  have hout : ((List.range 6).flatMap fun d => (s.q (.portDown n) d).take (min (s.q (.portDown n) d).length ((s.port n).dnCrd.getD d 0))) = [k] := by
    rw [flatMap_of_only List.nodup_range (List.mem_range.2 hc) fun d _ hdc => by rw [hnone d hdc, Nat.min_zero, List.take_zero]]
    rw [show min (s.q (.portDown n) c).length ((s.port n).dnCrd.getD c 0) = 1 from s.sendable_one hq hone, hq]
    rfl
  unfold State.pumpPort
  dsimp only
  rw [hout]
  simp only [List.isEmpty_cons, hfroz, Bool.or_self, Bool.false_eq_true, if_false, reduceCtorEq, State.bucket, ite_self, and_false,
    List.foldl_cons, List.foldl_nil]
  rfl

theorem State.pumpPort_sends_first (hc : c < 6) (hq : s.q (.portDown n) c = k :: r) (hone : (s.port n).dnCrd.getD c 0 = 1)
    (hnone : ∀ d, d ≠ c → (s.port n).dnCrd.getD d 0 = 0) (hfroz : s.routerFrozen (s.build.leafOf n) = false)
    (hopen : s.clk.cellsOpen = true) :
    OtherPorts s (s.pumpPort n .ok .ok) n ∧ (s.pumpPort n .ok .ok).q (.portDown n) c = r ∧
      (s.pumpPort n .ok .ok).outs = s.outs ++ [.pkt n (forPartner (s.port n) k) ((forPartner (s.port n) k).flits (s.port n).width)] := by
  have hsent : s.sendable n c = 1 := s.sendable_one hq hone
  rw [State.pumpPort_first hc hq hone hnone hfroz]
  obtain ⟨_, _, _, heq, hother, -⟩ := foldl_sendDown n (s.sendable n) (List.nodup_range (n := 6)) s
  have hleft := q_foldl_sendDown (n := n) (s.sendable n) List.nodup_range (List.mem_range.2 hc) s
  generalize (List.range 6).foldl (fun (z : State) d => z.sendDown n (s.sendable n) d) s = z at heq hother hleft
  refine ⟨fun i hi => (State.port_out _ _).trans (hother i hi), ?_, ?_⟩
  · rw [State.q_out, hleft, hsent, hq]
    rfl
  · rw [State.out_outs_open _ _ (by rw [heq]; exact hopen), heq]

theorem forPartner_eq (x : Port) (k : Packet) : forPartner x k =
    if k.hdr.poison = true ∧ x.mode.feats.testBit 3 = false then { k with hdr := { k.hdr with poison := false, err := 1 } } else k := by
  simp [forPartner, bitN]

/-! ### A downward credit -/

/-- A class that has downward credits (R278). -/
def creditClasses : List Nat := [cREQ, cSNP, cRSP, cDAT, cMGT]

/-- A port whose partner returns a credit of class `c`. -/
def Port.credit (c : Nat) (x : Port) : Port := { x with dnCrd := x.dnCrd.set c (x.dnCrd.getD c 0 + 1) }

/-- A port takes credits: its crossing is in service, and neither it nor its branch is out. -/
def State.takesCredits (s : State) (n : Nat) : Prop :=
  (s.port n).rst = false ∧ (s.port n).hsPend = false ∧ (s.port n).lstate ≠ .dead ∧ s.slotBr n < 2

theorem State.takesCredits_guard (h : s.takesCredits n) {c : Nat} (hc : c ∈ creditClasses) :
    ¬ (c ∉ creditClasses ∨ ¬ (s.port n).inService ∨ (s.port n).lstate = .dead ∨ 2 ≤ s.slotBr n) := by
  obtain ⟨hrst, hpend, hdead, hbr⟩ := h
  simp [hc, Port.inService, hrst, hpend, hdead, hbr]

theorem State.downCredit_adds (h : s.takesCredits n) (hc : c ∈ creditClasses) (hroom : (s.port n).dnCrd.getD c 0 < (s.port n).dnMax.getD c 0)
    (hd dat : Ecc) : s.downCredit n c hd dat = (s.modPort n (Port.credit c)).pumpPort n hd dat :=
  (if_neg (State.takesCredits_guard h hc)).trans (if_neg (Nat.not_le.2 hroom))

/-- A port that has had a credit above its partner's buffers. -/
def State.overrun (s : State) (n : Nat) : State := (s.noteSet (kPs n 19)).modPort n fun x => { x with crdOvf := true }

theorem State.overrun_port (s : State) (n : Nat) : (s.overrun n).port n = { s.port n with crdOvf := true } := State.port_modPort ..

theorem State.downCredit_overruns (h : s.takesCredits n) (hc : c ∈ creditClasses)
    (hfull : (s.port n).dnMax.getD c 0 ≤ (s.port n).dnCrd.getD c 0) (hd dat : Ecc) :
    s.downCredit n c hd dat = (s.overrun n).headerFault n 3 :=
  (if_neg (State.takesCredits_guard h hc)).trans (if_pos hfull)

/-- A credit above the partner's buffers kills an admitted port with cause 3 (R278, R292). -/
theorem State.overrun_dies (hn : n < 256) (hopen : s.clk.cellsOpen = true) (hadm : (s.port n).lstate = .admitted) :
    Died s ((s.overrun n).headerFault n 3) n 3 ∧ (((s.overrun n).headerFault n 3).port n).crdOvf = true := by
  have hport : ((s.overrun n).faulted n).port n = { s.port n with crdOvf := true, hdrFault := true } := by
    rw [State.faulted_port, State.overrun_port]
  have hother : OtherPorts s ((s.overrun n).faulted n) n := fun i hi =>
    (State.faulted_other _ n i hi).trans (State.port_modPort_ne _ _ hi)
  have hfaulted : ∃ m w, (s.overrun n).faulted n = { s with ports := m, hwSet := w } := ⟨_, _, rfl⟩
  have hclk : ((s.overrun n).faulted n).clk.cellsOpen = true := hopen
  rw [State.headerFault_admitted (by rw [State.overrun_port]; exact hadm)]
  generalize (s.overrun n).faulted n = v at hport hother hfaulted hclk
  refine ⟨Died.of_port hfaulted hother ?_ (v.portDead_died hn hclk 3), ?_⟩
  · rw [hport]
    exact ⟨rfl, rfl, rfl, rfl, rfl, rfl, rfl⟩
  · rw [State.portDead_port _ hn, hport]
    rfl

theorem execDownwardCredit_acts (ha : s.portActs n) (chk : FlitChk) :
    exec (.downwardCredit n { cls := c, chk := chk }) s = .next (s.downCredit n c chk.hd chk.dat) := State.atPort_of_acts ha _

/-- The first credit of a class lets the first packet that waits for one leave, as its partner can take it (R274, R278). -/
theorem downwardCredit_sends (ha : s.portActs n) (h : s.takesCredits n) (hc : c ∈ creditClasses)
    (hfroz : s.routerFrozen (s.build.leafOf n) = false) (hnone : (s.port n).dnCrd = noCredits) (hmax : 0 < (s.port n).dnMax.getD c 0)
    (hq : s.q (.portDown n) c = k :: r) :
    ∃ t, exec (.downwardCredit n { cls := c }) s = .next t ∧ OtherPorts s t n ∧ t.q (.portDown n) c = r ∧
      t.outs = s.outs ++ [.pkt n (forPartner (s.port n) k) ((forPartner (s.port n) k).flits (s.port n).width)] := by
  have hlt : c < 6 := by
    simp only [creditClasses, List.mem_cons, List.not_mem_nil, or_false] at hc
    rcases hc with rfl | rfl | rfl | rfl | rfl <;> decide
  have hzero (d : Nat) : (s.port n).dnCrd.getD d 0 = 0 := by
    rw [hnone, noCredits]
    match d with
    | 0 | 1 | 2 | 3 | 4 | 5 | _ + 6 => rfl
  have hport : (s.modPort n (Port.credit c)).port n = (s.port n).credit c := State.port_modPort ..
  have hone : ((s.modPort n (Port.credit c)).port n).dnCrd.getD c 0 = 1 := by
    rw [hport]
    simp only [Port.credit, hzero]
    simp [hnone, noCredits, hlt]
  have hrest (d : Nat) (hd : d ≠ c) : ((s.modPort n (Port.credit c)).port n).dnCrd.getD d 0 = 0 := by
    rw [hport, Port.credit, List.getD_eq_getElem?_getD, List.getElem?_set_ne hd.symm, ← List.getD_eq_getElem?_getD, hzero]
  obtain ⟨hother, hleft, hout⟩ := State.pumpPort_sends_first (s := s.modPort n (Port.credit c)) hlt hq hone hrest hfroz ha.cellsOpen
  rw [hport] at hout
  exact ⟨_, (execDownwardCredit_acts ha {}).trans (congrArg _ (State.downCredit_adds h hc (by rwa [hzero]) _ _)),
    fun i hi => (hother i hi).trans (State.port_modPort_ne _ _ hi), hleft, hout⟩

/-! ### An upward credit -/

/-- The credit of a freed buffer of class `c` goes up (R277). -/
def Port.returned (c : Nat) (x : Port) : Port :=
  { x with upFreed := x.upFreed.set c (x.upFreed.getD c 0 - 1), upHeld := x.upHeld.set c (x.upHeld.getD c 0 + 1) }

theorem execUpwardCreditReturn_returns (ha : s.portActs n) (h : s.takesCredits n) (hfreed : 0 < (s.port n).upFreed.getD c 0)
    (hfree : c = cREQ → s.withheld n = false) :
    exec (.upwardCreditReturn n c) s = .next ((s.setPort n ((s.port n).returned c)).out (.credit n c)) := by
  obtain ⟨hrst, hpend, hdead, hbr⟩ := h
  refine (State.atPort_of_acts ha _).trans (congrArg _ (if_neg ?_))
  have hkept : ¬ (c = cREQ ∧ s.withheld n = true) := fun ⟨hreq, hheld⟩ => by simp [hfree hreq] at hheld
  simp only [Port.inService, hrst, hpend, hdead, hkept, hfreed.ne', Nat.not_le.2 hbr, Bool.not_false, Bool.and_self, not_true_eq_false, or_self,
    not_false_eq_true]

theorem execUpwardCreditReturn_withheld (ha : s.portActs n) (hreq : c = cREQ) (hheld : s.withheld n = true) :
    exec (.upwardCreditReturn n c) s = .next s :=
  (State.atPort_of_acts ha _).trans (congrArg _ (if_pos (by simp [hreq, hheld])))

end Sys2Proof.Machine

open Sys2Proof Sys2Proof.Machine

/-- Settles O17: a downward credit is added (`State.downCredit_adds`) and lets the first packet that waits leave (`downwardCredit_sends`), or
kills the port (`State.overrun_dies`); an upward one is returned or withheld. -/
theorem portCredits : Obligations.PortCredits := by
  intro s n c chk ha hrst hpend hdead hfroz hbr hdn hup hfr
  have htakes : s.takesCredits n := ⟨hrst, hpend, hdead, hbr⟩
  have hn := ha.lt
  have hopen := ha.cellsOpen
  have hport : (s.modPort n (Port.credit c)).port n = (s.port n).credit c := State.port_modPort ..
  refine ⟨fun hc hroom hempty => ?_, fun k r hc hnone hmax hq => ?_, fun hc hfull hadm => ?_, fun hfreed hfree => ?_, fun hreq hheld =>
    execUpwardCreditReturn_withheld ha hreq hheld⟩
  · rw [execDownwardCredit_acts ha, State.downCredit_adds htakes hc hroom, State.pumpPort_empty (s := s.modPort n (Port.credit c)) hempty]
    exact ⟨_, rfl, fun _ hi => State.port_modPort_ne _ _ hi, ⟨rfl, rfl, rfl⟩, ⟨rfl, rfl⟩, rfl, rfl, fun _ _ => rfl, by rw [hport]; rfl⟩
  · obtain ⟨t, hrun, hother, hleft, hout⟩ := downwardCredit_sends ha htakes hc hfroz hnone hmax hq
    refine ⟨t, hrun, hother, hleft, hout.trans ?_⟩
    rw [forPartner_eq]
  · rw [execDownwardCredit_acts ha, State.downCredit_overruns htakes hc hfull]
    obtain ⟨hdied, hbit⟩ := State.overrun_dies hn hopen hadm
    exact ⟨_, rfl, hdied, hbit⟩
  · refine ⟨_, execUpwardCreditReturn_returns ha htakes hfreed hfree, ((PortFrame.refl s n).setPort _).out _,
      State.out_outs_open _ _ hopen, ?_, ?_⟩
    · rw [State.port_out, State.port_setPort]
      simp [Port.returned, hfr]
    · rw [State.port_out, State.port_setPort]
      simp [Port.returned, hup]
end
